-- ==== Sys2Proof/Word.lean ====
section
/-! DEFINITION. The word types of the PQ-9 and the sparse tables in which the state keeps its large files. -/

namespace Sys2Proof

/-- A 64-bit register value (R79). -/
abbrev Word := BitVec 64

/-- A byte of memory (R3). -/
abbrev Byte := BitVec 8

/-- A sparse table: key and value pairs, the keys strictly rising.  A key that is not listed holds the table's default value,
which each table of the state names where it is read. -/
abbrev Tab (α : Type) := List (Nat × α)

variable {α : Type}

/-- The entry listed at a key. -/
def Tab.look : Tab α → Nat → Option α
  | [], _ => none
  | (j, v) :: r, k => if k = j then some v else Tab.look r k

/-- The value at a key, `d` where none is listed. -/
def Tab.get (t : Tab α) (d : α) (k : Nat) : α := (Tab.look t k).getD d

/-- List a value at a key, in key order, in place of an earlier one. -/
def Tab.put : Tab α → Nat → α → Tab α
  | [], k, v => [(k, v)]
  | (j, w) :: r, k, v =>
    if k = j then (k, v) :: r else if k < j then (k, v) :: (j, w) :: r else (j, w) :: Tab.put r k v

/-- Take the entry of a key out. -/
def Tab.del : Tab α → Nat → Tab α
  | [], _ => []
  | (j, w) :: r, k => if k = j then Tab.del r k else (j, w) :: Tab.del r k

/-- Give a key a value: a value equal to the default is not listed, so equal tables are equal lists. -/
def Tab.set [DecidableEq α] (t : Tab α) (d : α) (k : Nat) (v : α) : Tab α :=
  if v = d then Tab.del t k else Tab.put t k v

/-- The canonical form: every key above `lo`, keys strictly rising, no entry equal to the default. -/
def Tab.wfFrom [DecidableEq α] (d : α) : Option Nat → Tab α → Bool
  | _, [] => true
  | lo, (k, v) :: r => (match lo with | none => true | some l => l < k) && (v != d) && Tab.wfFrom d (some k) r

/-- The canonical form of a whole table. -/
def Tab.wf [DecidableEq α] (d : α) (t : Tab α) : Bool := Tab.wfFrom d none t

/-- Sign-extend or zero-extend the low `n` bits of a register value (R7). -/
def extend (signed : Bool) (n : Nat) (x : Word) : Word :=
  if signed then (x.setWidth n).signExtend 64 else (x.setWidth n).setWidth 64

/-- Bits `lo` and up of a word, `n` of them, as a natural number. -/
def bits (x : Word) (lo n : Nat) : Nat := (x.toNat >>> lo) % 2 ^ n

end Sys2Proof
end

