-- ==== Sys2Proof/Config.lean ====
section
/-! DEFINITION. What the spec fixes once for every PQ-9 at stepping B0, and the free values: the choices that the spec leaves
open, as constants without a body (notes/assumptions/6.md). -/

namespace Sys2Proof

/-- SR_DEVID of the part this spec describes (R1): vendor 0xB3E1, part 0x0009, stepping 0x02, 0x00. -/
def Config.devid : Word := 0xB3E1000902000000

/-- Depths of the matrix, vector and copy queues (R83). -/
def Config.matrixDepth : Nat := 16
def Config.vectorDepth : Nat := 32
def Config.copyDepth : Nat := 64

/-- Entries of a drop queue and of the saved-task part of a drop store (R55). -/
def Config.dropQueue : Nat := 16
def Config.savedDropStore : Nat := 64

/-- RPOSTs a context may have unacknowledged (R130), cut-eligible copies (R325), snapshot registers (R271), agreement entries (R236). -/
def Config.maxRposts : Nat := 8
def Config.maxCutCopies : Nat := 32
def Config.snapRegs : Nat := 16
def Config.agreeEntries : Nat := 512

/-- Shadows that one die's pool holds (R273). -/
def Config.shadowPool : Nat := 129024

/-- Directory entries that a slice's side array of 256 KiB holds (R61, R256), beside the 64 KiB of its two transit buffers and its share of the
tile-table cache, for which 28 KiB are left: 128 bytes of data, 16 tag bits, and an entry of 270 bits in 34 bytes each. The spec gives no size of
an entry and none of the share (log entry 82). -/
def Config.sideEntries : Nat := 1024

/-- Positions of K whose operands arrive at the matrix engine together: they take fewer than the 512 pins (log entry 88). -/
def Config.fetchStep : Nat := 32

/-- Blocks that a tile fetch unit may pin (R67), and CHAIN blocks that a rank's buffer holds (R235). -/
def Config.maxPins : Nat := 512
def Config.chainBuffer : Nat := 16

/-- Bytes of a copy chunk (R72). -/
def Config.chunk : Nat := 65536

/-- Lines of 64 bytes that the device may have outstanding on CXL.cache (R329). -/
def Config.cacheLines : Nat := 256

/-- Cycles of the freeze watchdog and of a full/empty wait (R77, R88, R159). -/
def Config.watchdog : Nat := 65536

/-- Highest bond number (R342). -/
def Config.lastBond : Nat := 1249

/-- A choice that the spec leaves open, for the n-th use of a free value: which free index or storage block a new tile takes
(R45, R63). No proof can see what it is. -/
opaque Config.freeNat : Nat → Nat

/-- A yes-or-no choice that the spec leaves open: which of two values an overlapped copy byte takes (R224). -/
opaque Config.freeBool : Nat → Bool

/-- Bytes that the spec does not give: what the host has written to a half of a line (R265). -/
opaque Config.freeBytes : Nat → List Byte

/-- Words of the RESYNC summary whose inner layout the spec does not give (R333), from the index of the word and the fields it holds. -/
opaque Config.summaryWord : Nat → List Nat → Word

/-- The unit of memory whose check bits fail in a cycle, and whether the error is uncorrectable (R32). -/
opaque Config.dramError : Nat → Option (Nat × Bool)

/-- Keys and salts of a fabric link (R336), from the two ends, the number of the exchange and the direction. -/
opaque Config.linkSecret : List Nat → Nat

/-- A package's estimate of its time offset in ticks (R293), from the package that sent a time-sync flit, its time-stamp, the receiver's own, and the
number of the estimate. -/
opaque Config.offsetEstimate : Nat → Word → Word → Nat → Int

/-- SHA3-256, and whether an ML-DSA-44 signature of a hash verifies under a key (R334). -/
opaque Config.sha3 : List Byte → Nat
opaque Config.signed : List Byte → Nat → List Byte → Bool

/-- The hash of the signing key in the fuses (R334), and that of the boot code (R335). -/
opaque Config.fusedKey : Nat
opaque Config.bootHash : Nat

/-- The bond that stands for a route between two bonds (R287, R288): 0 the transit bond of the minimal route, from 1 to 8 that of a non-minimal one;
and the member of a bond that carries its domain link to another. The route and cabling tables hold both. -/
opaque Config.transitBond : Nat → Nat → Nat → Nat
opaque Config.linkMember : Nat → Nat → Nat

/-- The identifier under which an algorithm of attestation is negotiated as a vendor-defined one (R335), by its number. -/
opaque Config.algorithmId : Nat → List Byte

/-- What an SPDM answer holds after the parts that are given (R335), from the request, the requests answered before, the measurements and the
number of the answer. -/
opaque Config.spdmBody : List Byte → List Nat → List Nat → Nat → List Byte

end Sys2Proof
end

