-- ==== Sys2Proof/Machine/Num.lean ====
section
/-! DEFINITION. Element formats and exact arithmetic: format words, programmable floats, rounding, conversion (R14 to R27),
and the exact functions of the special-function unit (R211, R220).

An exact value is a sign, a natural number and a power of two.  A quotient, a root or a transcendental function has no such
form: it is cut below `2^(-stickyBits)` and a last bit, the sticky bit, is set when anything was cut off.  Every value that a
format of R14 can round at (a representable value or the middle of two) is a multiple of `2^(-160)`, so the cut value lies
strictly on the same side of each of them as the exact one, and rounding it gives the rounding of the exact value. -/

namespace Sys2Proof.Machine

/-- A binary floating format: exponent bits, fraction bits, bias, and the finite (saturating) policy of R14. -/
structure FloatFmt where
  ebits : Nat
  mbits : Nat
  bias : Int
  finite : Bool
  deriving DecidableEq, Repr

/-- What a valid format word names (R15, R19). -/
inductive Elem where
  | float (f : FloatFmt)
  | cf32
  | int (width : Nat) (signed : Bool)
  | q16
  deriving DecidableEq, Repr

def fp32 : FloatFmt := ⟨8, 23, 127, false⟩
def bf16 : FloatFmt := ⟨8, 7, 127, false⟩
def fp16 : FloatFmt := ⟨5, 10, 15, false⟩

/-- The fixed formats of R15. -/
def fixedElem : Nat → Option Elem
  | 0x01 => some (.float fp32)
  | 0x02 => some (.float bf16)
  | 0x03 => some (.float fp16)
  | 0x04 => some .cf32
  | 0x10 => some (.int 32 true)
  | 0x11 => some (.int 32 false)
  | 0x12 => some (.int 16 true)
  | 0x13 => some (.int 16 false)
  | 0x14 => some (.int 8 true)
  | 0x15 => some (.int 8 false)
  | 0x16 => some (.int 4 true)
  | 0x17 => some .q16
  | _ => none

/-- The exponent of the largest finite magnitude of a float format is below this bound exactly when R16's range rule holds. -/
def FloatFmt.topExp (f : FloatFmt) : Int := (2 ^ f.ebits : Nat) - (if f.finite then 1 else 2) - f.bias

/-- The format that a format word names; `none` for an invalid word (R14, R16). -/
def elemOf (w : BitVec 16) : Option Elem :=
  let n := w.toNat
  if n < 0x8000 then
    (if n / 256 = 0 then fixedElem (n % 256) else none)
  else
    let e := n / 1024 % 8
    let m := n / 128 % 8
    let pol := n / 16384 % 2
    let f : FloatFmt := ⟨e, m, (n % 128 : Nat) - 32, pol == 0⟩
    if e = 0 ∨ m = 7 ∨ 1 + e + m < 4 ∨ 8 < 1 + e + m ∨ 128 ≤ f.topExp ∨ (pol = 1 ∧ (e < 2 ∨ m < 1)) then none
    else some (.float f)

/-- The scaled bit of a format word (R14). -/
def fwordScaled (w : BitVec 16) : Bool := w.getLsbD 15 && w.getLsbD 13

/-- The fixed-format code of a BF16 tile (R21). -/
def bf16Word : BitVec 16 := 0x0002

/-- Width of an element in bits (R15, R19). -/
def Elem.width : Elem → Nat
  | .float f => 1 + f.ebits + f.mbits
  | .cf32 => 64
  | .int w _ => w
  | .q16 => 32

/-- Room an element takes, in half bytes: 1 for a 4-bit element, 2 for one of 5 to 8 bits (R20, R75). -/
def Elem.nibbles (x : Elem) : Nat :=
  if x.width ≤ 4 then 1 else if x.width ≤ 8 then 2 else x.width / 4

/-- The classes of R194. -/
inductive Cls where
  | F | C | I
  deriving DecidableEq, Repr

def Elem.cls : Elem → Cls
  | .float _ => .F
  | .cf32 => .C
  | .int _ _ => .I
  | .q16 => .I

/-- A programmable float of width 4 to 8 ("narrow", R198). -/
def Elem.narrow : Elem → Bool
  | .float f => 1 + f.ebits + f.mbits ≤ 8
  | _ => false

/-- An exact value: a NaN (signalling or quiet), an infinity, or sign, magnitude and power of two. -/
inductive Num where
  | nan (signalling : Bool)
  | inf (neg : Bool)
  | fin (neg : Bool) (m : Nat) (e : Int)
  deriving DecidableEq, Repr

/-- The exception flags in the order of R27: NV 16, DZ 8, OF 4, UF 2, NX 1. -/
abbrev Flags := BitVec 5
def flagNV : Flags := 16
def flagDZ : Flags := 8
def flagOF : Flags := 4
def flagUF : Flags := 2
def flagNX : Flags := 1

def flagIf (b : Bool) (f : Flags) : Flags := if b then f else 0

/-- Exact value of a float code (R19, R24). Narrow formats have no signalling NaN. -/
def FloatFmt.decode (f : FloatFmt) (code : Nat) : Num :=
  let fr := code % 2 ^ f.mbits
  let ex := code / 2 ^ f.mbits % 2 ^ f.ebits
  let neg := code / 2 ^ (f.mbits + f.ebits) % 2 == 1
  if ex = 0 then .fin neg fr (1 - f.bias - f.mbits)
  else if !f.finite && ex == 2 ^ f.ebits - 1 then
    (if fr = 0 then .inf neg else .nan (decide (8 < 1 + f.ebits + f.mbits) && fr < 2 ^ (f.mbits - 1)))
  else .fin neg (2 ^ f.mbits + fr) ((ex : Int) - f.bias - f.mbits)

/-- Two's-complement value of a pattern of `w` bits. -/
def signedOf (w : Nat) (n : Nat) : Int := if n % 2 ^ w < 2 ^ (w - 1) then (n % 2 ^ w : Nat) else (n % 2 ^ w : Nat) - (2 ^ w : Nat)

/-- An integer as an exact value; zero is +0. -/
def Num.ofInt (i : Int) (e : Int := 0) : Num := .fin (decide (i < 0)) i.natAbs e

/-- The integer that a pattern of an I-class format stands for, for Q16.16 its raw pattern (R15, R208). -/
def Elem.rawInt : Elem → Nat → Int
  | .int w true, n => signedOf w n
  | .int w false, n => (n % 2 ^ w : Nat)
  | .q16, n => signedOf 32 n
  | _, n => (n : Nat)

/-- Exact value of an element of the F or I class (R15, R19). -/
def Elem.value : Elem → Nat → Num
  | .float f, n => f.decode n
  | .q16, n => Num.ofInt (signedOf 32 n) (-16)
  | x, n => Num.ofInt (x.rawInt n)

/-! ### Rounding (R23, R25) -/

/-- The rounding modes of R23: 0 RNE, 1 RTZ, 2 RUP, 3 RDN. -/
abbrev Rm := BitVec 2
def rne : Rm := 0

/-- Does a magnitude with the given kept part and remainder `r` of `2^k` round up? A tie goes to an even kept part; under a format without mantissa bits
that is odd for every normal value, so that a tie between two of them goes up (log entry 107). -/
def roundsUp (rm : Rm) (neg : Bool) (n r k : Nat) : Bool :=
  match rm.toNat with
  | 0 => decide (2 ^ k < 2 * r) || (2 * r == 2 ^ k && n % 2 == 1)
  | 1 => false
  | 2 => !neg && r != 0
  | _ => neg && r != 0

/-- Round `m * 2^e` to a multiple of `2^q`: the multiple, and whether anything was lost. -/
def roundAt (rm : Rm) (neg : Bool) (m : Nat) (e q : Int) : Nat × Bool :=
  if q ≤ e then (m <<< (e - q).toNat, false)
  else
    let k := (q - e).toNat
    let n := m >>> k
    let r := m % 2 ^ k
    (n + (if roundsUp rm neg n r k then 1 else 0), r != 0)

/-- The power of two of the last place of a format's subnormals. -/
def FloatFmt.lastExp (f : FloatFmt) : Int := 1 - f.bias - f.mbits

/-- Largest finite code without its sign (R19). -/
def FloatFmt.maxCode (f : FloatFmt) : Nat :=
  if f.finite then 2 ^ (f.ebits + f.mbits) - 1 else (2 ^ f.ebits - 1) * 2 ^ f.mbits - 1

def FloatFmt.signed (f : FloatFmt) (neg : Bool) (code : Nat) : Nat := code + (if neg then 2 ^ (f.ebits + f.mbits) else 0)

/-- The code of an infinity; of an IEEE-like format only. -/
def FloatFmt.infCode (f : FloatFmt) (neg : Bool) : Nat := f.signed neg ((2 ^ f.ebits - 1) * 2 ^ f.mbits)

/-- The canonical NaN (R19, R24); a finite format has none and stores +0 (R25). -/
def FloatFmt.nanCode (f : FloatFmt) : Nat :=
  if f.finite then 0 else (2 ^ f.ebits - 1) * 2 ^ f.mbits + 2 ^ (f.mbits - 1)

/-- The code that overflow of the given sign gives (R25). -/
def FloatFmt.overflowCode (f : FloatFmt) (rm : Rm) (sat neg : Bool) : Nat :=
  if f.finite || sat then f.signed neg f.maxCode
  else match rm.toNat with
    | 0 => f.infCode neg
    | 1 => f.signed neg f.maxCode
    | 2 => if neg then f.signed neg f.maxCode else f.infCode neg
    | _ => if neg then f.infCode neg else f.signed neg f.maxCode

/-- Convert an exact value to a float format (R25): the code and the flags. -/
def FloatFmt.convert (f : FloatFmt) (rm : Rm) (sat : Bool) : Num → Nat × Flags
  | .nan s => (f.nanCode, flagIf (f.finite || s) flagNV)
  | .inf neg =>
    if f.finite then (f.signed neg f.maxCode, flagNV)
    else if sat then (f.signed neg f.maxCode, 0) else (f.infCode neg, 0)
  | .fin neg m e =>
    if m = 0 then (f.signed neg 0, 0)
    else
      let top := e + (m.log2 : Int)
      let q := max f.lastExp (top - f.mbits)
      let (n, lost) := roundAt rm neg m e q
      let code := if n < 2 ^ f.mbits then n else n - 2 ^ f.mbits + (q - f.lastExp + 1).toNat * 2 ^ f.mbits
      if f.maxCode < code then (f.overflowCode rm sat neg, flagOF ||| flagNX)
      else (f.signed neg code, flagIf lost flagNX ||| flagIf (lost && decide (top < 1 - f.bias)) flagUF)

/-- Smallest and largest value of an integer format. -/
def intMin (w : Nat) (signed : Bool) : Int := if signed then -((2 ^ (w - 1) : Nat) : Int) else 0
def intMax (w : Nat) (signed : Bool) : Int := if signed then (2 ^ (w - 1) : Nat) - 1 else (2 ^ w : Nat) - 1

/-- The low `w` bits of an integer's two's-complement pattern. -/
def lowBits (w : Nat) (i : Int) : Nat := (i % ((2 ^ w : Nat) : Int)).toNat

def clampTo (lo hi i : Int) : Int := if i < lo then lo else if hi < i then hi else i

/-- Convert an exact value to an integer format of `w` bits whose last place is `2^q` (R25; q = -16 for Q16.16). -/
def convertInt (w : Nat) (signed : Bool) (q : Int) (rm : Rm) : Num → Nat × Flags
  | .nan _ => (0, flagNV)
  | .inf neg => (lowBits w (if neg then intMin w signed else intMax w signed), flagNV)
  | .fin neg m e =>
    let (n, lost) := roundAt rm neg m e q
    let i : Int := if neg then -(n : Int) else n
    if i < intMin w signed ∨ intMax w signed < i then (lowBits w (clampTo (intMin w signed) (intMax w signed) i), flagNV)
    else (lowBits w i, flagIf lost flagNX)

/-- Round an exact value to the format of an element (R25, R196). CF32 is written part by part elsewhere. -/
def Elem.round (x : Elem) (rm : Rm) (sat : Bool) (v : Num) : Nat × Flags :=
  match x with
  | .float f => f.convert rm sat v
  | .int w s => convertInt w s 0 rm v
  | .q16 => convertInt 32 true (-16) rm v
  | .cf32 => (0, 0)

/-- Conversions that stay inside the I class: the target's pattern of a source pattern. No flag is raised. A Q16.16 to an integer is truncated as R26
says, for the forms whose entries name RNE too (log entry 114). -/
def convertIntInt (src dst : Elem) (sat : Bool) (n : Nat) : Nat :=
  let v : Int := match src, dst with
    | .q16, .q16 => src.rawInt n
    | .q16, _ => (src.rawInt n).tdiv 65536
    | _, .q16 => src.rawInt n * 65536
    | _, _ => src.rawInt n
  match dst with
  | .int w s => lowBits w (if sat then clampTo (intMin w s) (intMax w s) v else v)
  | _ => lowBits 32 (if sat then clampTo (intMin 32 true) (intMax 32 true) v else v)

/-- Convert one element between any two formats (R25, R26, R209). -/
def convertElem (src dst : Elem) (rm : Rm) (sat : Bool) (n : Nat) : Nat × Flags :=
  match src.cls, dst.cls with
  | .I, .I => (convertIntInt src dst sat n, 0)
  | .C, _ => (n, 0)
  | _, _ => dst.round rm sat (src.value n)

/-! ### Exact arithmetic (R150, R201) -/

def Num.isNan : Num → Bool
  | .nan _ => true
  | _ => false

def Num.signalling : Num → Bool
  | .nan s => s
  | _ => false

def Num.isZero : Num → Bool
  | .fin _ 0 _ => true
  | _ => false

def Num.isInf : Num → Bool
  | .inf _ => true
  | _ => false

def Num.isNeg : Num → Bool
  | .nan _ => false
  | .inf s => s
  | .fin s _ _ => s

def Num.neg : Num → Num
  | .nan s => .nan s
  | .inf s => .inf (!s)
  | .fin s m e => .fin (!s) m e

def Num.abs : Num → Num
  | .nan s => .nan s
  | .inf _ => .inf false
  | .fin _ m e => .fin false m e

/-- Exact product; 0 times an infinity has no value. -/
def Num.mul : Num → Num → Num
  | .nan a, .nan b => .nan (a || b)
  | .nan a, _ => .nan a
  | _, .nan b => .nan b
  | .inf a, .inf b => .inf (a != b)
  | .inf a, .fin b m _ => if m = 0 then .nan false else .inf (a != b)
  | .fin a m _, .inf b => if m = 0 then .nan false else .inf (a != b)
  | .fin a m e, .fin b n f => .fin (a != b) (m * n) (e + f)

/-- Signed integer and power of two of a finite value. -/
def Num.dyadic : Num → Int × Int
  | .fin s m e => (if s then -(m : Int) else m, e)
  | _ => (0, 0)

/-- Exact sum of two dyadic numbers. -/
def addDyadic (a b : Int × Int) : Int × Int :=
  if a.1 = 0 then b else if b.1 = 0 then a else
  let e := min a.2 b.2
  (a.1 * ((2 ^ (a.2 - e).toNat : Nat) : Int) + b.1 * ((2 ^ (b.2 - e).toNat : Nat) : Int), e)

/-- Exact sum of addends under R201: NaN, then an infinity, then the value; a zero sum is -0 when every addend is -0. -/
def sumNum (xs : List Num) : Num :=
  if xs.any Num.isNan || (xs.any (· == .inf true) && xs.any (· == .inf false)) then .nan false
  else if xs.any (· == .inf true) then .inf true
  else if xs.any (· == .inf false) then .inf false
  else
    let t := xs.foldl (fun acc x => addDyadic acc x.dyadic) (0, 0)
    if t.1 = 0 then .fin (!xs.isEmpty && xs.all (fun x => x.isZero && x.isNeg)) 0 0 else Num.ofInt t.1 t.2

/-- Order of exact values as numbers: -1, 0 or 1; meaningful when neither is NaN. -/
def Num.cmp (a b : Num) : Int :=
  match a, b with
  | .inf s, .inf t => if s = t then 0 else if s then -1 else 1
  | .inf s, _ => if s then -1 else 1
  | _, .inf t => if t then 1 else -1
  | _, _ => let d := addDyadic a.dyadic (b.neg).dyadic; if d.1 < 0 then -1 else if d.1 = 0 then 0 else 1

/-- `a` lies below `b`, with -0 below +0 (R24). -/
def Num.below (a b : Num) : Bool :=
  a.cmp b < 0 || (a.cmp b == 0 && a.isZero && b.isZero && a.isNeg && !b.isNeg)

/-- Minimum and maximum of R24. -/
def Num.min (a b : Num) : Num :=
  match a, b with
  | .nan s, .nan t => .nan (s || t)
  | .nan _, _ => b
  | _, .nan _ => a
  | _, _ => if b.below a then b else a

def Num.max (a b : Num) : Num :=
  match a, b with
  | .nan s, .nan t => .nan (s || t)
  | .nan _, _ => b
  | _, .nan _ => a
  | _, _ => if a.below b then b else a

/-! ### Arithmetic with rounding (R150, R206) -/

/-- FADD before rounding (R150): the exact value and the invalid flag. The sign of an exact zero sum is that of two zeros of one
sign, else + or, under RDN, -. -/
def addExact (rm : Rm) (a b : Num) : Num × Flags :=
  match a, b with
  | .nan s, .nan t => (.nan false, flagIf (s || t) flagNV)
  | .nan s, _ => (.nan false, flagIf s flagNV)
  | _, .nan s => (.nan false, flagIf s flagNV)
  | .inf s, .inf t => if s = t then (.inf s, 0) else (.nan false, flagNV)
  | .inf s, _ => (.inf s, 0)
  | _, .inf t => (.inf t, 0)
  | .fin s m _, .fin t n _ =>
    let d := addDyadic a.dyadic b.dyadic
    if d.1 = 0 then (.fin (if m = 0 ∧ n = 0 ∧ s = t then s else rm == 3) 0 0, 0) else (Num.ofInt d.1 d.2, 0)

/-- FMUL before rounding (R150). -/
def mulExact (a b : Num) : Num × Flags :=
  match a, b with
  | .nan s, y => (.nan false, flagIf (s || y.signalling) flagNV)
  | _, .nan s => (.nan false, flagIf s flagNV)
  | x, y => if (x.mul y).isNan then (.nan false, flagNV) else (x.mul y, 0)

/-- FFMA before rounding (R150): `a * b + c`; 0 times an infinity is invalid whatever `c` holds. -/
def fmaExact (rm : Rm) (a b c : Num) : Num × Flags :=
  let sig := flagIf (a.signalling || b.signalling || c.signalling) flagNV
  if (a.isZero && b.isInf) || (a.isInf && b.isZero) then (.nan false, flagNV)
  else if a.isNan || b.isNan || c.isNan then (.nan false, sig)
  else addExact rm (a.mul b) c

/-- Bits kept below the binary point by a cut value. -/
def stickyBits : Nat := 340

/-- `a / b` with a sticky last bit, as magnitude and power of two; `b` is not zero. -/
def quotient (a : Nat) (ea : Int) (b : Nat) (eb : Int) : Nat × Int :=
  let s : Int := stickyBits + ea - eb
  let num := a <<< s.toNat
  let den := b <<< (-s).toNat
  (2 * (num / den) + (if num % den = 0 then 0 else 1), -(stickyBits : Int) - 1)

/-- FDIV before rounding (R150). -/
def divExact (a b : Num) : Num × Flags :=
  match a, b with
  | .nan s, y => (.nan false, flagIf (s || y.signalling) flagNV)
  | _, .nan s => (.nan false, flagIf s flagNV)
  | .inf _, .inf _ => (.nan false, flagNV)
  | .inf s, .fin t _ _ => (.inf (s != t), 0)
  | .fin s _ _, .inf t => (.fin (s != t) 0 0, 0)
  | .fin s m e, .fin t n f =>
    if n = 0 then (if m = 0 then (.nan false, flagNV) else (.inf (s != t), flagDZ))
    else let q := quotient m e n f; (.fin (s != t) q.1 q.2, 0)

/-- Largest `r` with `r * r ≤ n`, bit by bit from bit `k - 1` down. -/
def isqrtFrom (n : Nat) : Nat → Nat → Nat
  | 0, r => r
  | k + 1, r => let c := r + 2 ^ k; isqrtFrom n k (if c * c ≤ n then c else r)

def isqrt (n : Nat) : Nat := isqrtFrom n (n.log2 / 2 + 1) 0

/-- The square root of `m * 2^e` with a sticky last bit. -/
def rootOf (m : Nat) (e : Int) : Nat × Int :=
  let n := m <<< (e + 2 * stickyBits).toNat
  let r := isqrt n
  (2 * r + (if r * r = n then 0 else 1), -(stickyBits : Int) - 1)

/-- FSQRT before rounding (R150). -/
def sqrtExact : Num → Num × Flags
  | .nan s => (.nan false, flagIf s flagNV)
  | .inf s => if s then (.nan false, flagNV) else (.inf false, 0)
  | .fin s m e =>
    if m = 0 then (.fin s 0 0, 0)
    else if s then (.nan false, flagNV)
    else let q := rootOf m e; (.fin false q.1 q.2, 0)

/-- Round an exact value with its flags into a float format. -/
def FloatFmt.finish (f : FloatFmt) (rm : Rm) (v : Num × Flags) : Nat × Flags :=
  let r := f.convert rm false v.1
  (r.1, r.2 ||| v.2)

/-! ### Special functions (R211, R220) -/

/-- Fraction bits of the fixed-point series below. -/
def seriesBits : Nat := 640

/-- Sum of the exponential series of `x / 2^seriesBits`, term by term. -/
def expSeries (x : Nat) : Nat → Nat → Nat → Nat → Nat
  | 0, _, _, acc => acc
  | fuel + 1, k, term, acc =>
    let t := ((term * x) >>> seriesBits) / k
    if t = 0 then acc + t else expSeries x fuel (k + 1) t (acc + t)

/-- `e^(x / 2^seriesBits)` in the same fixed point, for an argument below 1. -/
def expFixed (x : Nat) : Nat := expSeries x 200 1 (1 <<< seriesBits) (1 <<< seriesBits)

/-- Square a fixed-point number `n` times. -/
def squareTimes : Nat → Nat → Nat
  | 0, x => x
  | n + 1, x => squareTimes n ((x * x) >>> seriesBits)

/-- A magnitude too large, and one too small, for every format (R25). -/
def hugeNum : Num := .fin false 1 4096
def tinyNum : Num := .fin false 1 (-4096)

/-- `e^x` for a nonzero finite `x`: never exact, so the last bit is set. -/
def expFin (neg : Bool) (m : Nat) (e : Int) : Num :=
  if 10 ≤ e + m.log2 then (if neg then tinyNum else hugeNum)
  else
    -- |x| below 1024: the argument divided by 2^11, then squared eleven times
    let x := m <<< ((seriesBits : Int) + e - 11).toNat
    let y := squareTimes 11 (expFixed x)
    if neg then let q := quotient 1 0 y (-(seriesBits : Int)); .fin false (q.1 ||| 1) q.2
    else .fin false (2 * y + 1) (-(seriesBits : Int) - 1)

/-- `2 * (1/3 + 1/(3*3^3) + ...)`: the natural logarithm of 2 in fixed point. -/
def ln2Series : Nat → Nat → Nat → Nat → Nat
  | 0, _, _, acc => acc
  | fuel + 1, k, p, acc => ln2Series fuel (k + 2) (p / 9) (acc + p / k)

def ln2Fixed : Nat := 2 * ln2Series 260 1 ((1 <<< seriesBits) / 3) 0

/-- `2^x` for a nonzero finite `x`: exact when `x` is an integer. -/
def exp2Fin (neg : Bool) (m : Nat) (e : Int) : Num :=
  if 12 ≤ e + m.log2 then (if neg then tinyNum else hugeNum)
  else
    let fixed : Int := ((m <<< ((seriesBits : Int) + e).toNat : Nat) : Int)
    let x : Int := if neg then -fixed else fixed
    let whole := x / ((1 <<< seriesBits : Nat) : Int)
    let frac := (x % ((1 <<< seriesBits : Nat) : Int)).toNat
    if frac = 0 then .fin false 1 whole
    else .fin false (2 * expFixed ((frac * ln2Fixed) >>> seriesBits) + 1) (whole - seriesBits - 1)

/-- VEXP (R211): the exact value and flags before the one rounding. -/
def vexpExact (base2 : Bool) : Num → Num × Flags
  | .nan s => (.nan false, flagIf s flagNV)
  | .inf s => (if s then .fin false 0 0 else .inf false, 0)
  | .fin s m e => if m = 0 then (.fin false 1 0, 0) else (if base2 then exp2Fin s m e else expFin s m e, 0)

/-- VRCP (R211). -/
def vrcpExact : Num → Num × Flags
  | .nan s => (.nan false, flagIf s flagNV)
  | .inf s => (.fin s 0 0, 0)
  | .fin s m e => if m = 0 then (.inf s, flagDZ) else let q := quotient 1 0 m e; (.fin s q.1 q.2, 0)

/-- VRSQ (R211): the root of the reciprocal, exact when the square of the cut root gives the argument back. -/
def vrsqExact : Num → Num × Flags
  | .nan s => (.nan false, flagIf s flagNV)
  | .inf s => if s then (.nan false, flagNV) else (.fin false 0 0, 0)
  | .fin s m e =>
    if m = 0 then (.inf s, flagDZ)
    else if s then (.nan false, flagNV)
    else
      let num := 1 <<< (2 * (stickyBits : Int) - e).toNat
      let r := isqrt (num / m)
      (.fin false (2 * r + (if r * r * m = num then 0 else 1)) (-(stickyBits : Int) - 1), 0)

/-- Alternating arctangent series of `1/q` in fixed point: `p` is the running power. -/
def atanSeries (q2 : Nat) : Nat → Nat → Nat → Int → Int → Int
  | 0, _, _, _, acc => acc
  | fuel + 1, k, p, sign, acc => atanSeries q2 fuel (k + 2) (p / q2) (-sign) (acc + sign * ((p / k : Nat) : Int))

/-- Pi in fixed point, by Machin's formula. -/
def piFixed : Nat :=
  (16 * atanSeries 25 300 1 ((1 <<< seriesBits) / 5) 1 0 - 4 * atanSeries (239 * 239) 100 1 ((1 <<< seriesBits) / 239) 1 0).toNat

/-- Sine and cosine series: terms `x^k / k!` with alternating sign, from the term at `k`, in steps of two. -/
def trigSeries (x2 : Nat) : Nat → Nat → Nat → Int → Int → Int
  | 0, _, _, _, acc => acc
  | fuel + 1, k, term, sign, acc =>
    trigSeries x2 fuel (k + 2) (((term * x2) >>> seriesBits) / ((k + 1) * (k + 2))) (-sign) (acc + sign * (term : Int))

/-- Cosine and sine of a quarter turn's part `rem / 2^22`, as exact values with a sticky bit; exact at 0. -/
def quarterTurn (rem : Nat) : Num × Num :=
  if rem = 0 then (.fin false 1 0, .fin false 0 0)
  else
    let x := (piFixed * rem) >>> 23
    let x2 := (x * x) >>> seriesBits
    let c := trigSeries x2 80 0 (1 <<< seriesBits) 1 0
    let s := trigSeries x2 80 1 x 1 0
    (.fin false (2 * c.toNat + 1) (-(seriesBits : Int) - 1), .fin false (2 * s.toNat + 1) (-(seriesBits : Int) - 1))

/-- Cosine and sine of `2 pi k / 2^l` (R220), `l` at most 24. A part that is zero is +0. -/
def turn (l k : Nat) : Num × Num :=
  let j := k % 2 ^ l * 2 ^ (24 - l)
  let (c, s) := quarterTurn (j % 2 ^ 22)
  let pos (x : Num) : Num := if x.isZero then .fin false 0 0 else x
  match j / 2 ^ 22 with
  | 0 => (pos c, pos s)
  | 1 => (pos s.neg, pos c)
  | 2 => (pos c.neg, pos s.neg)
  | _ => (pos s, pos c.neg)

end Sys2Proof.Machine
end

