-- ==== Sys2Proof/Syntax.lean ====
section
/-! DEFINITION. The instructions of the PQ-9: one constructor for every row of spec/opcode_table.json.

The first part holds the events: the steps of the other agents that the table lists without an encoding, each with the operands
that the message or the agent carries.  The second part holds the slot words (the header R93 and the 312 encodings of R106),
with the operands of their format (R99, R100): `g` the guard predicate, `d`, `s`, `t` register or predicate numbers, `h`, `j`,
`ha`, `hb`, `hx` handle registers, an immediate with its lent bits joined on at the top.  Lean compiles no code for a
constructor beyond the 244th that carries operands, so the definitions that build slot words (the decoder, the step) are
marked noncomputable; the kernel evaluates them all the same. -/

namespace Sys2Proof

/-! ### Groups of operands that a message carries together -/

/-- The agent that sends a message of the coherence protocol, under its incarnation bit (R257). -/
structure Sender where
  agent : Nat
  inc : Bool
  deriving DecidableEq, Repr

/-- A message to an L1: who sends it, who receives it, the sender's incarnation bit. -/
structure Way where
  src : Nat
  dst : Nat
  inc : Bool
  deriving DecidableEq, Repr

/-- What a requester has to collect before its line is there: InvAcks or sums (R260), halves from the host bridge (R265). -/
structure Dues where
  acks : Nat
  halves : Nat
  deriving DecidableEq, Repr

/-- A request of the host for a half: exclusive or shared, under the bridge's incarnation bit (R265). -/
structure HostAsk where
  excl : Bool
  inc : Bool
  deriving DecidableEq, Repr

/-- A half on its way from the host bridge to a requester (R265). -/
structure HalfFor where
  excl : Bool
  agent : Nat
  inc : Bool
  deriving DecidableEq, Repr

/-- The destination range of a CPYR in its window (R226). -/
structure CopyRange where
  base : Nat
  total : Nat
  deriving DecidableEq, Repr

/-- An RPOST of a context, by its target (R130). -/
structure RpostOf where
  ctx : Nat
  target : Nat
  deriving DecidableEq, Repr

/-- The context whose access a peer acknowledges; `checked` where a held bundle waits for it (R157). `access` is the number of the access's bundle;
of a check the package and address of the word that its home now keeps. -/
structure AckTo where
  ctx : Nat
  checked : Bool
  access : Nat
  deriving DecidableEq, Repr

/-- What a peer has refused: a piece of a copy command or a record by its number plus one, else 0; `checked` where a held bundle waits for it;
`access` is the number of the bundle of an access. -/
structure RefusalOf where
  serial : Nat
  checked : Bool
  access : Nat
  deriving DecidableEq, Repr

/-- A CHAIN or a DONE names the rank that sends it (R235, R239). -/
structure ChainPart where
  rank : Nat
  block : List Word
  deriving DecidableEq, Repr

structure DoneWith where
  rank : Nat
  tile : BitVec 40
  deriving DecidableEq, Repr

/-- A flit's type and what it brings (R291). -/
structure FlitBody where
  kind : Nat
  x : Nat
  y : Nat
  deriving DecidableEq, Repr

/-- Requests that a router makes one (R290): the router, the home, the kind of request, its address or tile. -/
structure CombineAt where
  router : Nat
  home : Nat
  kind : Nat
  key : Nat
  deriving DecidableEq, Repr

structure CombineKey where
  kind : Nat
  key : Nat
  wide : Bool
  deriving DecidableEq, Repr

/-- One row of the opcode table per constructor. -/
inductive Instr where
  /-- Event STALL_COUNT_ELAPSE (R96): A header stall count elapses and the context becomes ready again. -/
  | stallCountElapse (core ctx : Nat)
  /-- Event VARIABLE_RESULT_ARRIVAL (R97): A variable result reaches its register, predicate or handle, unblocking readers. -/
  | variableResultArrival (core ctx : Nat) (isH : Bool) (n : Nat) (v : Word)
  /-- Event TRAP_TAKE (R321): A pending or precise trap is taken: leases end, the record is written and the handler entered. -/
  | trapTake (core ctx : Nat)
  /-- Event TASK_END (R123): After HALT, once engine work completes and the drop queue empties, the task ends and drops its handles. -/
  | taskEnd (core ctx : Nat)
  /-- Event PREEMPT_REQUEST (R121): A pre-emption request reaches a context and sets drain in its innermost loop record. -/
  | preemptRequest (core ctx : Nat)
  /-- Event QUIESCE_MARKER_RETURN (R324): A quiesce marker returns once the context's earlier commands on its engine are done or cut. -/
  | quiesceMarkerReturn (core ctx eng : Nat)
  /-- Event MATRIX_COMMAND_TAKE (R234): The matrix engine takes the oldest ready matrix command and starts reading its first panel. -/
  | matrixCommandTake (core : Nat)
  /-- Event MATRIX_BLOCK_COMPLETE (R233): An output block's results are written 24 cycles after its last K step. -/
  | matrixBlockComplete (core : Nat)
  /-- Event TILE_FETCH_BLOCK_ARRIVAL (R66): A requested operand block reaches the fetch unit and is pinned; a frozen core unfreezes. -/
  | tileFetchBlockArrival (core : Nat)
  /-- Event FREEZE_TIMEOUT (R88): A freeze reaches 65,536 cycles; the waiting matrix command faults and the core unfreezes. -/
  | freezeTimeout (core : Nat)
  /-- Event FE_TIMEOUT_ENGINE (R77): A command finds a source granule empty for 65,536 cycles and raises FE_TIMEOUT. -/
  | feTimeoutEngine (core serial : Nat)
  /-- Event FE_TIMEOUT_SCALAR (R159): A full/empty load or store waits 65,536 cycles and raises FE_TIMEOUT precisely. -/
  | feTimeoutScalar (core ctx : Nat)
  /-- Event VECTOR_COMMAND_START (R341): The vector engine starts the oldest eligible vector command. -/
  | vectorCommandStart (core : Nat)
  /-- Event VECTOR_COMMAND_COMPLETE (R193): A vector command's last write becomes visible. -/
  | vectorCommandComplete (core : Nat)
  /-- Event SFU_COMMAND_START (R341): The special-function unit starts the oldest eligible VEXP, VRCP or VRSQ. -/
  | sfuCommandStart (core : Nat)
  /-- Event SFU_COMMAND_COMPLETE (R193): A special-function command's last write becomes visible. -/
  | sfuCommandComplete (core : Nat)
  /-- Event COPY_COMMAND_START (R69): The copy engine takes a ready copy command in turn among contexts. -/
  | copyCommandStart (core : Nat)
  /-- Event COPY_CHUNK_START (R72): A copy chunk translates its range and begins issuing reads. -/
  | copyChunkStart (core serial : Nat)
  /-- Event COPY_CHUNK_COMPLETE (R72): A chunk's last byte is visible; after the final chunk the command completes. -/
  | copyChunkComplete (core serial : Nat) (bytes : List Byte)
  /-- Event CPYR_ARRIVAL (R84): CPYR bytes arrive at the destination core, landing and setting full bits. -/
  | cpyrArrival (peer src serial core ctx : Nat) (whole : CopyRange) (off q : Nat) (bytes : List Byte)
  /-- Event COPY_DEST_REFUSAL (R71): A destination's refusal returns and the copy takes COPY_DEST_DENIED. -/
  | copyDestRefusal (core serial : Nat)
  /-- Event TMOVE_STORAGE_SWITCH (R65): After copying, the home replaces the storage field and clears M in one step. -/
  | tmoveStorageSwitch (core serial : Nat)
  /-- Event OLD_BLOCKS_RETURN (R65): Old storage blocks return to their heap once no pin or copy read remains. -/
  | oldBlocksReturn (index : Nat)
  /-- Event MIGR_ARRIVAL (R41): A MIGR's last byte is readable at the target; a late arrival counts in the slip counter. -/
  | migrArrival (core serial : Nat)
  /-- Event DROP_RELEASE (R55): A queued drop's weight leaves the core once earlier readers and drops are done. -/
  | dropRelease (core ctx : Nat)
  /-- Event DROP_ARRIVAL (R51): Returned weight is added at the home and acknowledged. -/
  | dropArrival (tile : BitVec 40) (e : BitVec 5) (peer core ctx : Nat)
  /-- Event DROP_ACK (R55): The home's acknowledgement reaches the core and the drop queue entry is freed. -/
  | dropAck (core ctx : Nat) (tile : BitVec 40)
  /-- Event REFILL_REQUEST (R51): The home adds 2^32 to total for an e = 0 split and replies. -/
  | refillRequest (tile : BitVec 40) (peer core ctx : Nat)
  /-- Event REFILL_REPLY (R51): The refill reply sets both halves to e = 31. -/
  | refillReply (core ctx : Nat) (tile : BitVec 40)
  /-- Event UNIQUENESS_QUERY (R52): The home answers whether a holder's weight plus returned equals total. -/
  | uniquenessQuery (tile : BitVec 40) (e : BitVec 5) (peer core ctx : Nat)
  /-- Event UNIQUENESS_ANSWER (R52): The uniqueness answer reaches the waiting bundle. -/
  | uniquenessAnswer (core ctx : Nat) (tile : BitVec 40) (unique : Bool)
  /-- Event DESCRIPTOR_READ (R180): The home reads a descriptor atomically for a tile form. -/
  | descriptorRead (tile : BitVec 40) (peer core ctx elem : Nat)
  /-- Event DESCRIPTOR_REPLY (R180): The descriptor reaches the held bundle, whose checks are then decided. -/
  | descriptorReply (core ctx : Nat) (tile : BitVec 40) (words : List Word)
  /-- Event TILE_ALLOCATE (R173): The home allocates a descriptor and storage for a new tile. -/
  | tileAllocate (core ctx : Nat) (shape : Word)
  /-- Event ALLOCATION_REPLY (R173): The allocation result reaches the held bundle. -/
  | allocationReply (core ctx : Nat) (tile : BitVec 40)
  /-- Event UPDATE_COPY_COMPLETE (R53): An update's copy has read its source; the token is dropped. -/
  | updateCopyComplete (core serial : Nat) (bytes : List Byte)
  /-- Event UPDATE_WRITE_COMPLETE (R177): An update's write completes and its handle register becomes valid. -/
  | updateWriteComplete (core serial : Nat)
  /-- Event TSEAL_REGION_COMPLETE (R176): The copy engine finishes writing a region into an open tile and seals it. -/
  | tsealRegionComplete (core serial : Nat)
  /-- Event BARRIER_ARRIVAL (R82): A BARJ arrival is added to the barrier once earlier accesses are performed. -/
  | barrierArrival (core ctx unit : Nat)
  /-- Event RPOST_ARRIVAL (R131): An RPOST increment arrives at its target flag, or is refused. -/
  | rpostArrival (peer src srcCtx core ctx q amount : Nat) (pc : Word)
  /-- Event RPOST_ACK (R130): An RPOST acknowledgement returns to the sender, freeing one of its eight. -/
  | rpostAck (core : Nat) (post : RpostOf)
  /-- Event RPOST_REFUSAL (R130): A refused RPOST returns and RPOST_DENIED becomes pending. -/
  | rpostRefusal (core : Nat) (post : RpostOf) (pc : Word)
  /-- Event REMOTE_ACCESS (R289): A REMOTE or STAGED access arrives at the peer and is checked and performed. -/
  | remoteAccess (peer src srcCtx op pa : Nat) (x y pc : Word) (n : Nat) (bytes : List Byte)
  /-- Event REMOTE_REFUSAL (R289): A refused remote access returns and REMOTE_DENIED becomes pending. -/
  | remoteRefusal (core ctx : Nat) (pc : Word) (what : RefusalOf) (cause : Nat)
  /-- Event HOME_ACCESS (R263): The home performs an uncached copy, remote or split access on its own copy. -/
  | homeAccess (peer src srcCtx op pa : Nat) (x y pc : Word) (n : Nat) (bytes : List Byte)
  /-- Event GETS (R260): The home handles a request for a line for reading. -/
  | gets (agent line : Nat) (inc : Bool)
  /-- Event GETM (R260): The home handles a request for a line for writing. -/
  | getm (agent line : Nat) (inc : Bool)
  /-- Event GETU (R260): The home handles a request for a line in update-only state. -/
  | getu (agent line : Nat) (inc : Bool)
  /-- Event UPG (R261): The home handles a request for write permission on a shared line. -/
  | upg (agent line : Nat) (inc : Bool)
  /-- Event PUTM (R260): The home takes back a modified line with its data. -/
  | putm (agent line : Nat) (inc : Bool)
  /-- Event PUTE (R260): The home takes back an exclusive line without data. -/
  | pute (agent line : Nat) (inc : Bool)
  /-- Event PUTU (R260): Buffered U sums arrive at the home or requester and are merged. -/
  | putu (agent line : Nat) (inc : Bool) (dest : Nat) (sums : List (Nat × Bool × Word))
  /-- Event FWD_GETS (R262): An owner serves a forwarded read request and moves to S. -/
  | fwdGets (owner req line : Nat)
  /-- Event FWD_GETM (R262): An owner serves a forwarded write request and moves to I. -/
  | fwdGetm (owner req line : Nat)
  /-- Event INV (R262): An L1 invalidates a line and sends InvAck. -/
  | inv (agent req line : Nat) (course : Bool)
  /-- Event RECALL (R260): A U holder sends its buffered sums and invalidates. -/
  | recall (agent req line : Nat)
  /-- Event DATA (R262): Line data reaches a requester with the count of InvAcks to collect. -/
  | data (way : Way) (line : Nat) (dues : Dues) (excl : Bool)
  /-- Event ACKCOUNT (R262): Permission without data reaches a requester with its InvAck count. -/
  | ackcount (agent line : Nat) (dues : Dues)
  /-- Event INVACK (R262): An invalidation acknowledgement reaches the requester. -/
  | invack (way : Way) (line : Nat)
  /-- Event PUTACK (R262): The home's acknowledgement of a put reaches the L1. -/
  | putack (agent line : Nat)
  /-- Event SHADOW (R272): The home takes a shadow of a line for the innermost live level or finds one. -/
  | shadow (sender : Sender) (ctx line : Nat)
  /-- Event SHADOW_TAKEN (R272): Taken reaches the L1, which records sg and performs the held write. -/
  | shadowTaken (core ctx line gen : Nat)
  /-- Event SHADOW_FULL (R272): Full reaches the L1 and the held write raises SNAP_FULL. -/
  | shadowFull (core ctx line : Nat)
  /-- Event REJOIN_NOTICE (R267): A home flips the agent's incarnation and purges its entries, poisoning owned lines. -/
  | rejoinNotice (agent slice : Nat)
  /-- Event LEASE_ACQUIRED (R269): The leased line reaches M with no other lease on the core and the slot becomes HELD. -/
  | leaseAcquired (core ctx : Nat)
  /-- Event LEASE_EXPIRE (R164): A lease's remaining count reaches zero; queued probes and accesses are served. -/
  | leaseExpire (core ctx slot : Nat)
  /-- Event SPINV_NOTICE (R42): A removal notice reaches a core, which drops matching frame-buffer entries. -/
  | spinvNotice (core asid base len : Nat)
  /-- Event SPINV_ACK (R42): Every access and chunk under the old translation has drained and SPINV is acknowledged. -/
  | spinvAck (core ctx : Nat)
  /-- Event CORE_POWER_GATE (R266): An idle core gives up its lines and is power-gated. -/
  | corePowerGate (core : Nat)
  /-- Event CORE_WAKE (R339): A gated core wakes when a dispatch names it. -/
  | coreWake (core : Nat)
  /-- Event POWER_THROTTLE (R339): Coolant or power conditions change the compute-die clock or gate idle cores. -/
  | powerThrottle (mhz : Nat) (overCap : Bool)
  /-- Event DOORBELL (R330): A host doorbell write advances a queue slot's tail or is discarded. -/
  | doorbell (off : Nat) (word : Word)
  /-- Event ADMIN_DOORBELL (R332): The admin doorbell announces new admin queue entries. -/
  | adminDoorbell (word : Word)
  /-- Event LAUNCH_PACKET_READ (R299): The front end reads a packet from a queue and validates it. -/
  | launchPacketRead (slot : Nat)
  /-- Event RESIDENCY_ANSWER (R309): A write of a launch identifier makes the front end retest its residency. -/
  | residencyAnswer (id : Nat)
  /-- Event RESIDENCY_DISCARD (R309): A residency answer with bit 63 ends a waiting launch as DISCARDED. -/
  | residencyDiscard (id : Nat)
  /-- Event DISPATCH (R304): A launch whose conditions hold is dispatched and all its tasks start together. -/
  | dispatch
  /-- Event LAUNCH_COMPLETE (R306): When all tasks and children end, the record is written, charges released and the flag raised. -/
  | launchComplete (id : Nat)
  /-- Event REGISTER_WRITE (R309): A write to a hub control-space word or register with no behaviour of its own. -/
  | registerWrite (off : Nat) (v : Word)
  /-- Event ANNOUNCE (R236): A group agent records a received GMMA announcement, possibly reaching agreement. -/
  | announce (rank gid seq mask m n k fmts fn : Nat)
  /-- Event GMMA_AGREEMENT_TIMEOUT (R236): A member's agreement timer expires and it sends ABORT with TIMEOUT. -/
  | gmmaAgreementTimeout (core : Nat)
  /-- Event CHAIN (R238): A rank receives a partial-sum block, adds its own and sends it on or writes T. -/
  | chain (gid seq : Nat) (part : ChainPart)
  /-- Event ABORT (R240): A member receives ABORT, discards its blocks and completes ABORTED. -/
  | abort (gid seq cause rank sender : Nat)
  /-- Event DONE (R239): A member receives DONE and completes its GMMA. -/
  | done (gid seq : Nat) (result : DoneWith)
  /-- Event GMMA_MEMBER_LOST (R243): A report that a member's package is disabled ends or aborts a pending GMMA. -/
  | gmmaMemberLost (member : Nat)
  /-- Event LINK_TRAIN (R285): A link trains, checks its far end against the cabling table and exchanges keys. -/
  | linkTrain (port farPeer farPort : Nat) (keysOk : Bool)
  /-- Event FLIT_RECEIVE (R291): A received flit is authenticated, delivered or discarded, and a NAK sent if corrupt. -/
  | flitReceive (port ctr : Nat) (body : FlitBody) (seq ack : Nat) (nak tagOk : Bool)
  /-- Event NAK_RECEIVE (R291): A NAK makes the sender replay from the named sequence number. -/
  | nakReceive (port seq : Nat)
  /-- Event LINK_RETRAIN (R291): After 16 consecutive corrupt slots the link retrains, rekeys and replays unacknowledged flits. -/
  | linkRetrain (port : Nat)
  /-- Event TIME_SYNC_SEND (R293): Every 65,536 ns a link sends a time-sync flit. -/
  | timeSyncSend (port : Nat)
  /-- Event TIME_SYNC_RECEIVE (R293): A time-sync flit updates the offset estimate, rate and lock state. -/
  | timeSyncReceive (port peer : Nat) (stamp : Word)
  /-- Event CONTROL_FLIT_RECEIVE (R342): Link state in a control flit updates the peers marked disabled. -/
  | controlFlitReceive (peer : Nat) (reachable : Bool)
  /-- Event ROUTER_COMBINE (R290): A router combines same-address adds meeting in one cycle into one request. -/
  | routerCombine (place : CombineAt) (wide : Bool) (reqs : List (Nat × Nat × Nat × Nat × Word))
  /-- Event COMBINED_REPLY_SPLIT (R290): A combined reply or acknowledgement is split among the combined requests. -/
  | combinedReplySplit (what : CombineKey) (old : Word) (reqs : List (Nat × Nat × Nat × Nat × Word))
  /-- Event HOST_HALF_REQUEST (R265): A host request or snoop of a line half is served as a whole-line request. -/
  | hostHalfRequest (line half : Nat) (ask : HostAsk)
  /-- Event BRIDGE_HALF_DATA (R265): The host bridge returns a half's data to the requester and the home. -/
  | bridgeHalfData (line half : Nat) (give : HalfFor)
  /-- Event FEATURES (R331): Admin command accepting the driver's feature word. -/
  | features (word : Nat)
  /-- Event RESYNC (R333): Admin command writing a 4 KiB state summary captured at one instant. -/
  | resync (buf : Nat)
  /-- Event CLEAR_SLIP (R332): CLEAR with bit 0 clears every slip counter. -/
  | clearSlip
  /-- Event CLEAR_ERRORS (R332): CLEAR with bit 1 clears the error counters. -/
  | clearErrors
  /-- Event FW_LOAD (R334): Admin command writing a firmware image to the inactive bank and verifying it. -/
  | fwLoad (buf len : Nat)
  /-- Event SPDM (R335): Admin command carrying one SPDM message each way. -/
  | spdm (msg : List Byte)
  /-- Event TRACE (R337): Admin command setting trace classes, trigger and post-count. -/
  | trace (core ctx classes trigger : Nat) (arg : Word) (post : Nat)
  /-- Event TRACE_READOUT (R337): TRACE with bit 0 copies the trace buffer to the host and re-arms it. -/
  | traceReadout (core buf : Nat)
  /-- Event POWER (R339): Admin command setting the power cap. -/
  | power (watts : Nat)
  /-- Event FW_ACTIVATE (R334): Admin command selecting the verified bank for the next device reset. -/
  | fwActivate (unused : Bool)
  /-- Event ADMIN_UNSUPPORTED (R332): An unknown admin opcode completes with UNSUPPORTED. -/
  | adminUnsupported (opcode : Nat)
  /-- Event TRACE_TRIGGER (R337): The trace trigger fires and the post-count begins. -/
  | traceTrigger (core : Nat)
  /-- Event TRACE_BUFFER_FREEZE (R337): The post-count is exhausted and the trace buffer freezes. -/
  | traceBufferFreeze (core : Nat)
  /-- Event POWER_ON_RESET (R340): Power applied: device reset with DRAM undefined and reset count zero. -/
  | powerOnReset
  /-- Event DEVICE_RESET (R340): Every task ends and all device state takes reset values; firmware boots again. -/
  | deviceReset
  /-- Event CXL_RESET (R340): Only the host bridge resets and issues REJOIN. -/
  | cxlReset (clear : Bool)
  /-- Event FUNCTION_LEVEL_RESET (R340): CXL.io function state resets: admin queue emptied, slots unmapped, features dropped. -/
  | functionLevelReset
  /-- Event DOE_MAILBOX_MESSAGE (R335): An SPDM message arrives through the CXL.io DOE mailbox and is answered there. -/
  | doeMailboxMessage (msg : List Byte)
  /-- Event REMOTE_ACKNOWLEDGEMENT (R288): The acknowledgement of a remote store, CADD or STH performed at a peer returns to the issuing context, marking it performed at domain scope. -/
  | remoteAcknowledgement (core : Nat) (ack : AckTo)
  /-- HDR (R93): Bundle header in slot 0 lending immediate bits and carrying the stall count, the mortar scope and a flag wait, take or post. -/
  | hdr (l1 l2 l3 : BitVec 6) (stall scope : BitVec 3) (sync : BitVec 2) (q : BitVec 4)
  /-- NOP (R122): No effect in any slot. -/
  | nop (g : BitVec 4)
  /-- BR (R114): Branch to a bundle offset within the 16 MiB block. -/
  | br (g : BitVec 4) (off : BitVec 20)
  /-- BRX (R115): Branch through an a register, optionally linking into A[d]. -/
  | brx (g : BitVec 4) (d s : BitVec 5)
  /-- CALL (R115): Write the return address to a31 and branch to the offset target. -/
  | call (g : BitVec 4) (off : BitVec 20)
  /-- RET (R115): Return to the address held in an a register. -/
  | ret (g : BitVec 4) (s : BitVec 5)
  /-- LOOP (R117): Push a hardware loop record with an immediate count and begin its first pass. -/
  | loop (g : BitVec 4) (stg : BitVec 3) (cnt : BitVec 10) (len : BitVec 7)
  /-- LOOPX (R117): Push a hardware loop record whose count comes from an a register. -/
  | loopx (g : BitVec 4) (stg : BitVec 3) (c : BitVec 5) (len : BitVec 7)
  /-- LBRK (R119): Pop the innermost loop record and continue after its body. -/
  | lbrk (g : BitVec 4)
  /-- HALT (R123): End the context's issue; the task ends once its engine work and drops finish. -/
  | halt (g : BitVec 4)
  /-- TRAP (R124): Raise SW_TRAP precisely with a 15-bit code. -/
  | trap (g : BitVec 4) (imm : BitVec 15)
  /-- ERET (R322): Return from the trap handler to the resume address in the trap record. -/
  | eret (g : BitVec 4)
  /-- YIELD (R126): Make the context not ready for one cycle when another context is ready. -/
  | yield (g : BitVec 4)
  /-- WAIT_GE (R128): Hold the bundle until the counting flag is at least the amount. -/
  | waitGe (g q : BitVec 4) (s : BitVec 5) (imm : BitVec 8)
  /-- WAIT_EQ (R128): Hold the bundle until the counting flag equals the amount. -/
  | waitEq (g q : BitVec 4) (s : BitVec 5) (imm : BitVec 8)
  /-- WAIT_TAKE (R128): Hold until the flag reaches the amount, then subtract it in the issuing cycle. -/
  | waitTake (g q : BitVec 4) (s : BitVec 5) (imm : BitVec 8)
  /-- POST_INC (R129): Add an amount to an own counting flag, saturating at 0xFFFF. -/
  | postInc (g q : BitVec 4) (s : BitVec 5) (imm : BitVec 8)
  /-- POST_SET (R129): Set an own counting flag to an amount, saturating at 0xFFFF. -/
  | postSet (g q : BitVec 4) (s : BitVec 5) (imm : BitVec 8)
  /-- RPOST (R130): Send a release increment to a counting flag of another context anywhere in the domain. -/
  | rpost (g q : BitVec 4) (s : BitVec 5) (imm : BitVec 8)
  /-- BARJ (R82): Add an arrival to a barrier unit once earlier accesses are performed. -/
  | barj (g : BitVec 4) (k : BitVec 3)
  /-- BARW (R133): Block until the barrier generation differs from that at the context's last BARJ. -/
  | barw (g : BitVec 4) (k : BitVec 3)
  /-- FENCE_FULL (R134): Order every earlier access before every later access at the named scope. -/
  | fenceFull (g : BitVec 4) (c : BitVec 3)
  /-- FENCE_ACQ (R134): Order earlier loads and atomic reads before every later access at the scope. -/
  | fenceAcq (g : BitVec 4) (c : BitVec 3)
  /-- FENCE_REL (R134): Order earlier accesses before later stores and atomic writes at the scope. -/
  | fenceRel (g : BitVec 4) (c : BitVec 3)
  /-- TIME_DOM (R135): Read the domain time-stamp into an a register. -/
  | timeDom (g : BitVec 4) (d : BitVec 5)
  /-- TIME_CYC (R135): Read the core cycle count into an a register. -/
  | timeCyc (g : BitVec 4) (d : BitVec 5)
  /-- RDSR (R136): Read a system register into an a register. -/
  | rdsr (g : BitVec 4) (d : BitVec 5) (sr : BitVec 12)
  /-- WRSR (R136): Write an a register to a system register, subject to its writers. -/
  | wrsr (g : BitVec 4) (d : BitVec 5) (sr : BitVec 12)
  /-- LAUNCH (R138): Read a launch packet and enqueue it as a child launch in a device queue. -/
  | launch (g : BitVec 4) (d s t : BitVec 5)
  /-- DRAIN (R127): Block until all engine commands, drops and mortar accesses of the context are done. -/
  | drain (g : BitVec 4)
  /-- ADD (R141): 64-bit integer add. -/
  | add (g : BitVec 4) (d s t : BitVec 5)
  /-- ADD_W (R141): 32-bit integer add, sign-extended. -/
  | addW (g : BitVec 4) (d s t : BitVec 5)
  /-- SUB (R141): 64-bit integer subtract. -/
  | sub (g : BitVec 4) (d s t : BitVec 5)
  /-- SUB_W (R141): 32-bit integer subtract, sign-extended. -/
  | subW (g : BitVec 4) (d s t : BitVec 5)
  /-- MUL (R141): Low 64 bits of a product. -/
  | mul (g : BitVec 4) (d s t : BitVec 5)
  /-- MUL_W (R141): 32-bit multiply, sign-extended. -/
  | mulW (g : BitVec 4) (d s t : BitVec 5)
  /-- MULH (R141): High 64 bits of the signed product. -/
  | mulh (g : BitVec 4) (d s t : BitVec 5)
  /-- MULHU (R141): High 64 bits of the unsigned product. -/
  | mulhu (g : BitVec 4) (d s t : BitVec 5)
  /-- DIV (R142): Signed 64-bit divide, truncating, never trapping. -/
  | div (g : BitVec 4) (d s t : BitVec 5)
  /-- DIV_W (R142): Signed 32-bit divide. -/
  | divW (g : BitVec 4) (d s t : BitVec 5)
  /-- DIVU (R142): Unsigned 64-bit divide. -/
  | divu (g : BitVec 4) (d s t : BitVec 5)
  /-- DIVU_W (R142): Unsigned 32-bit divide. -/
  | divuW (g : BitVec 4) (d s t : BitVec 5)
  /-- REM (R142): Signed 64-bit remainder. -/
  | rem (g : BitVec 4) (d s t : BitVec 5)
  /-- REM_W (R142): Signed 32-bit remainder. -/
  | remW (g : BitVec 4) (d s t : BitVec 5)
  /-- REMU (R142): Unsigned 64-bit remainder. -/
  | remu (g : BitVec 4) (d s t : BitVec 5)
  /-- REMU_W (R142): Unsigned 32-bit remainder. -/
  | remuW (g : BitVec 4) (d s t : BitVec 5)
  /-- AND (R141): Bitwise AND. -/
  | and (g : BitVec 4) (d s t : BitVec 5)
  /-- OR (R141): Bitwise OR. -/
  | or (g : BitVec 4) (d s t : BitVec 5)
  /-- XOR (R141): Bitwise exclusive OR. -/
  | xor (g : BitVec 4) (d s t : BitVec 5)
  /-- SHL (R141): 64-bit shift left by a register count. -/
  | shl (g : BitVec 4) (d s t : BitVec 5)
  /-- SHL_W (R141): 32-bit shift left. -/
  | shlW (g : BitVec 4) (d s t : BitVec 5)
  /-- SHR (R141): 64-bit logical shift right. -/
  | shr (g : BitVec 4) (d s t : BitVec 5)
  /-- SHR_W (R141): 32-bit logical shift right. -/
  | shrW (g : BitVec 4) (d s t : BitVec 5)
  /-- SRA (R141): 64-bit arithmetic shift right. -/
  | sra (g : BitVec 4) (d s t : BitVec 5)
  /-- SRA_W (R141): 32-bit arithmetic shift right. -/
  | sraW (g : BitVec 4) (d s t : BitVec 5)
  /-- ROTR (R141): 64-bit rotate right. -/
  | rotr (g : BitVec 4) (d s t : BitVec 5)
  /-- ROTR_W (R141): 32-bit rotate right. -/
  | rotrW (g : BitVec 4) (d s t : BitVec 5)
  /-- CLZ (R141): Count leading zeros. -/
  | clz (g : BitVec 4) (d s : BitVec 5)
  /-- CTZ (R141): Count trailing zeros. -/
  | ctz (g : BitVec 4) (d s : BitVec 5)
  /-- POPC (R141): Count set bits. -/
  | popc (g : BitVec 4) (d s : BitVec 5)
  /-- MIN (R141): Signed minimum. -/
  | min (g : BitVec 4) (d s t : BitVec 5)
  /-- MAX (R141): Signed maximum. -/
  | max (g : BitVec 4) (d s t : BitVec 5)
  /-- MINU (R141): Unsigned minimum. -/
  | minu (g : BitVec 4) (d s t : BitVec 5)
  /-- MAXU (R141): Unsigned maximum. -/
  | maxu (g : BitVec 4) (d s t : BitVec 5)
  /-- SEXT_B (R141): Sign-extend the low byte. -/
  | sextB (g : BitVec 4) (d s : BitVec 5)
  /-- SEXT_H (R141): Sign-extend the low half-word. -/
  | sextH (g : BitVec 4) (d s : BitVec 5)
  /-- SEXT_W (R141): Sign-extend the low word. -/
  | sextW (g : BitVec 4) (d s : BitVec 5)
  /-- ZEXT_B (R141): Zero-extend the low byte. -/
  | zextB (g : BitVec 4) (d s : BitVec 5)
  /-- ZEXT_H (R141): Zero-extend the low half-word. -/
  | zextH (g : BitVec 4) (d s : BitVec 5)
  /-- ZEXT_W (R141): Zero-extend the low word. -/
  | zextW (g : BitVec 4) (d s : BitVec 5)
  /-- SEL (R146): Select one of two registers by a predicate. -/
  | sel (g : BitVec 4) (d s t : BitVec 5) (p : BitVec 4)
  /-- CMP_EQ (R145): Set a predicate when two registers are equal. -/
  | cmpEq (g : BitVec 4) (d : BitVec 3) (s t : BitVec 5)
  /-- CMP_NE (R145): Set a predicate when two registers differ. -/
  | cmpNe (g : BitVec 4) (d : BitVec 3) (s t : BitVec 5)
  /-- CMP_LT (R145): Set a predicate on signed less than. -/
  | cmpLt (g : BitVec 4) (d : BitVec 3) (s t : BitVec 5)
  /-- CMP_LE (R145): Set a predicate on signed less or equal. -/
  | cmpLe (g : BitVec 4) (d : BitVec 3) (s t : BitVec 5)
  /-- CMP_LTU (R145): Set a predicate on unsigned less than. -/
  | cmpLtu (g : BitVec 4) (d : BitVec 3) (s t : BitVec 5)
  /-- CMP_LEU (R145): Set a predicate on unsigned less or equal. -/
  | cmpLeu (g : BitVec 4) (d : BitVec 3) (s t : BitVec 5)
  /-- ADDI (R143): 64-bit add of an immediate. -/
  | addi (g : BitVec 4) (d s : BitVec 5) (imm : BitVec 15)
  /-- ADDI_W (R143): 32-bit add of an immediate. -/
  | addiW (g : BitVec 4) (d s : BitVec 5) (imm : BitVec 15)
  /-- ANDI (R143): AND with an immediate. -/
  | andi (g : BitVec 4) (d s : BitVec 5) (imm : BitVec 15)
  /-- ORI (R143): OR with an immediate. -/
  | ori (g : BitVec 4) (d s : BitVec 5) (imm : BitVec 15)
  /-- XORI (R143): Exclusive OR with an immediate. -/
  | xori (g : BitVec 4) (d s : BitVec 5) (imm : BitVec 15)
  /-- SHLI (R143): 64-bit shift left by an immediate. -/
  | shli (g : BitVec 4) (d s : BitVec 5) (imm : BitVec 6)
  /-- SHLI_W (R143): 32-bit shift left by an immediate. -/
  | shliW (g : BitVec 4) (d s imm : BitVec 5)
  /-- SHRI (R143): 64-bit logical shift right by an immediate. -/
  | shri (g : BitVec 4) (d s : BitVec 5) (imm : BitVec 6)
  /-- SHRI_W (R143): 32-bit logical shift right by an immediate. -/
  | shriW (g : BitVec 4) (d s imm : BitVec 5)
  /-- SRAI (R143): 64-bit arithmetic shift right by an immediate. -/
  | srai (g : BitVec 4) (d s : BitVec 5) (imm : BitVec 6)
  /-- SRAI_W (R143): 32-bit arithmetic shift right by an immediate. -/
  | sraiW (g : BitVec 4) (d s imm : BitVec 5)
  /-- CMPI_EQ (R145): Set a predicate when a register equals an immediate. -/
  | cmpiEq (g : BitVec 4) (d : BitVec 3) (s : BitVec 5) (imm : BitVec 13)
  /-- CMPI_NE (R145): Set a predicate when a register differs from an immediate. -/
  | cmpiNe (g : BitVec 4) (d : BitVec 3) (s : BitVec 5) (imm : BitVec 13)
  /-- CMPI_LT (R145): Signed less-than against an immediate. -/
  | cmpiLt (g : BitVec 4) (d : BitVec 3) (s : BitVec 5) (imm : BitVec 13)
  /-- CMPI_LE (R145): Signed less-or-equal against an immediate. -/
  | cmpiLe (g : BitVec 4) (d : BitVec 3) (s : BitVec 5) (imm : BitVec 13)
  /-- CMPI_LTU (R145): Unsigned less-than against an immediate. -/
  | cmpiLtu (g : BitVec 4) (d : BitVec 3) (s : BitVec 5) (imm : BitVec 13)
  /-- CMPI_LEU (R145): Unsigned less-or-equal against an immediate. -/
  | cmpiLeu (g : BitVec 4) (d : BitVec 3) (s : BitVec 5) (imm : BitVec 13)
  /-- CMPI_GT (R145): Signed greater-than against an immediate. -/
  | cmpiGt (g : BitVec 4) (d : BitVec 3) (s : BitVec 5) (imm : BitVec 13)
  /-- CMPI_GE (R145): Signed greater-or-equal against an immediate. -/
  | cmpiGe (g : BitVec 4) (d : BitVec 3) (s : BitVec 5) (imm : BitVec 13)
  /-- CMPI_GTU (R145): Unsigned greater-than against an immediate. -/
  | cmpiGtu (g : BitVec 4) (d : BitVec 3) (s : BitVec 5) (imm : BitVec 13)
  /-- CMPI_GEU (R145): Unsigned greater-or-equal against an immediate. -/
  | cmpiGeu (g : BitVec 4) (d : BitVec 3) (s : BitVec 5) (imm : BitVec 13)
  /-- MOVI (R144): Load a sign-extended 21-bit immediate. -/
  | movi (g : BitVec 4) (d : BitVec 5) (imm : BitVec 21)
  /-- MOVHI (R144): Shift a register left by 21 and OR in an immediate. -/
  | movhi (g : BitVec 4) (d : BitVec 5) (imm : BitVec 21)
  /-- PAND (R147): AND of two predicates. -/
  | pand (g : BitVec 4) (d : BitVec 3) (s t : BitVec 4)
  /-- POR (R147): OR of two predicates. -/
  | por (g : BitVec 4) (d : BitVec 3) (s t : BitVec 4)
  /-- PNOT (R147): Complement of a predicate. -/
  | pnot (g : BitVec 4) (d : BitVec 3) (s : BitVec 4)
  /-- PXOR (R147): Exclusive OR of two predicates. -/
  | pxor (g : BitVec 4) (d : BitVec 3) (s t : BitVec 4)
  /-- XAB (R148): Copy an a register into a b register. -/
  | xab (g : BitVec 4) (d s : BitVec 5)
  /-- XBA (R148): Copy a b register into an a register. -/
  | xba (g : BitVec 4) (d s : BitVec 5)
  /-- XBA_H (R148): Copy the raw bits of a handle register into an a register. -/
  | xbaH (g : BitVec 4) (d : BitVec 5) (h : BitVec 6)
  /-- FADD (R150): FP32 add rounded in the encoded mode. -/
  | fadd (g : BitVec 4) (d s t : BitVec 5) (rm : BitVec 2)
  /-- FSUB (R150): FP32 subtract. -/
  | fsub (g : BitVec 4) (d s t : BitVec 5) (rm : BitVec 2)
  /-- FMUL (R150): FP32 multiply. -/
  | fmul (g : BitVec 4) (d s t : BitVec 5) (rm : BitVec 2)
  /-- FFMA (R150): FP32 fused multiply-add with one rounding. -/
  | ffma (g : BitVec 4) (d s t : BitVec 5) (rm : BitVec 2)
  /-- FDIV (R150): FP32 divide. -/
  | fdiv (g : BitVec 4) (d s t : BitVec 5) (rm : BitVec 2)
  /-- FSQRT (R150): FP32 square root. -/
  | fsqrt (g : BitVec 4) (d s : BitVec 5) (rm : BitVec 2)
  /-- FMIN (R151): FP32 minimum under the NaN and zero rules. -/
  | fmin (g : BitVec 4) (d s t : BitVec 5)
  /-- FMAX (R151): FP32 maximum under the NaN and zero rules. -/
  | fmax (g : BitVec 4) (d s t : BitVec 5)
  /-- FCMP_EQ (R152): Set a predicate on FP32 equality. -/
  | fcmpEq (g : BitVec 4) (d : BitVec 3) (s t : BitVec 5)
  /-- FCMP_LT (R152): Set a predicate on FP32 less than. -/
  | fcmpLt (g : BitVec 4) (d : BitVec 3) (s t : BitVec 5)
  /-- FCMP_LE (R152): Set a predicate on FP32 less or equal. -/
  | fcmpLe (g : BitVec 4) (d : BitVec 3) (s t : BitVec 5)
  /-- FCMP_UN (R152): Set a predicate when either operand is NaN. -/
  | fcmpUn (g : BitVec 4) (d : BitVec 3) (s t : BitVec 5)
  /-- FCMP_NE (R152): Set a predicate on FP32 not equal. -/
  | fcmpNe (g : BitVec 4) (d : BitVec 3) (s t : BitVec 5)
  /-- FCVT_F32_S64 (R153): Convert s64 to FP32. -/
  | fcvtF32S64 (g : BitVec 4) (d s : BitVec 5) (rm : BitVec 2) (sat : Bool)
  /-- FCVT_F32_Z64 (R153): Convert z64 to FP32. -/
  | fcvtF32Z64 (g : BitVec 4) (d s : BitVec 5) (rm : BitVec 2) (sat : Bool)
  /-- FCVT_S64_F32 (R153): Convert FP32 to s64. -/
  | fcvtS64F32 (g : BitVec 4) (d s : BitVec 5) (rm : BitVec 2) (sat : Bool)
  /-- FCVT_Z64_F32 (R153): Convert FP32 to z64. -/
  | fcvtZ64F32 (g : BitVec 4) (d s : BitVec 5) (rm : BitVec 2) (sat : Bool)
  /-- FCVT_F32_BF16 (R153): Widen BF16 to FP32 exactly. -/
  | fcvtF32Bf16 (g : BitVec 4) (d s : BitVec 5) (rm : BitVec 2) (sat : Bool)
  /-- FCVT_BF16_F32 (R153): Narrow FP32 to BF16. -/
  | fcvtBf16F32 (g : BitVec 4) (d s : BitVec 5) (rm : BitVec 2) (sat : Bool)
  /-- FCVT_F32_F16 (R153): Widen FP16 to FP32 exactly. -/
  | fcvtF32F16 (g : BitVec 4) (d s : BitVec 5) (rm : BitVec 2) (sat : Bool)
  /-- FCVT_F16_F32 (R153): Narrow FP32 to FP16. -/
  | fcvtF16F32 (g : BitVec 4) (d s : BitVec 5) (rm : BitVec 2) (sat : Bool)
  /-- LDS_D (R158): Load 8 bytes from the local store. -/
  | ldsD (g : BitVec 4) (d s : BitVec 5) (off : BitVec 12)
  /-- LDS_W (R158): Load 4 bytes sign-extended from the local store. -/
  | ldsW (g : BitVec 4) (d s : BitVec 5) (off : BitVec 12)
  /-- LDS_WU (R158): Load 4 bytes zero-extended from the local store. -/
  | ldsWu (g : BitVec 4) (d s : BitVec 5) (off : BitVec 12)
  /-- LDS_H (R158): Load 2 bytes sign-extended. -/
  | ldsH (g : BitVec 4) (d s : BitVec 5) (off : BitVec 12)
  /-- LDS_HU (R158): Load 2 bytes zero-extended. -/
  | ldsHu (g : BitVec 4) (d s : BitVec 5) (off : BitVec 12)
  /-- LDS_B (R158): Load 1 byte sign-extended. -/
  | ldsB (g : BitVec 4) (d s : BitVec 5) (off : BitVec 12)
  /-- LDS_BU (R158): Load 1 byte zero-extended. -/
  | ldsBu (g : BitVec 4) (d s : BitVec 5) (off : BitVec 12)
  /-- LDS_FW (R158): Wait until the granule is full, then load 8 bytes leaving it full. -/
  | ldsFw (g : BitVec 4) (d s : BitVec 5) (off : BitVec 12)
  /-- LDS_FC (R158): Wait until the granule is full, load 8 bytes and clear its full bit. -/
  | ldsFc (g : BitVec 4) (d s : BitVec 5) (off : BitVec 12)
  /-- LDS_X_D (R158): Indexed 8-byte local-store load. -/
  | ldsXD (g : BitVec 4) (d s t : BitVec 5)
  /-- LDS_X_W (R158): Indexed 4-byte signed local-store load. -/
  | ldsXW (g : BitVec 4) (d s t : BitVec 5)
  /-- LDS_X_WU (R158): Indexed 4-byte unsigned local-store load. -/
  | ldsXWu (g : BitVec 4) (d s t : BitVec 5)
  /-- LDS_X_H (R158): Indexed 2-byte signed local-store load. -/
  | ldsXH (g : BitVec 4) (d s t : BitVec 5)
  /-- LDS_X_HU (R158): Indexed 2-byte unsigned local-store load. -/
  | ldsXHu (g : BitVec 4) (d s t : BitVec 5)
  /-- LDS_X_B (R158): Indexed 1-byte signed local-store load. -/
  | ldsXB (g : BitVec 4) (d s t : BitVec 5)
  /-- LDS_X_BU (R158): Indexed 1-byte unsigned local-store load. -/
  | ldsXBu (g : BitVec 4) (d s t : BitVec 5)
  /-- STS_D (R158): Store 8 bytes to the local store, full bit unchanged. -/
  | stsD (g : BitVec 4) (d s : BitVec 5) (off : BitVec 12)
  /-- STS_W (R158): Store 4 bytes to the local store. -/
  | stsW (g : BitVec 4) (d s : BitVec 5) (off : BitVec 12)
  /-- STS_H (R158): Store 2 bytes to the local store. -/
  | stsH (g : BitVec 4) (d s : BitVec 5) (off : BitVec 12)
  /-- STS_B (R158): Store 1 byte to the local store. -/
  | stsB (g : BitVec 4) (d s : BitVec 5) (off : BitVec 12)
  /-- STS_FS (R158): Store 8 bytes and set the granule's full bit. -/
  | stsFs (g : BitVec 4) (d s : BitVec 5) (off : BitVec 12)
  /-- STS_FE (R158): Wait until the granule is empty, store 8 bytes and set it full. -/
  | stsFe (g : BitVec 4) (d s : BitVec 5) (off : BitVec 12)
  /-- STS_X_D (R158): Indexed 8-byte local-store store. -/
  | stsXD (g : BitVec 4) (d s t : BitVec 5)
  /-- STS_X_W (R158): Indexed 4-byte local-store store. -/
  | stsXW (g : BitVec 4) (d s t : BitVec 5)
  /-- STS_X_H (R158): Indexed 2-byte local-store store. -/
  | stsXH (g : BitVec 4) (d s t : BitVec 5)
  /-- STS_X_B (R158): Indexed 1-byte local-store store. -/
  | stsXB (g : BitVec 4) (d s t : BitVec 5)
  /-- LDM_D (R160): Load 8 bytes of mortar or code memory under the header scope. -/
  | ldmD (g : BitVec 4) (d s : BitVec 5) (off : BitVec 12)
  /-- LDM_W (R160): Load 4 bytes of mortar memory, sign-extended. -/
  | ldmW (g : BitVec 4) (d s : BitVec 5) (off : BitVec 12)
  /-- LDM_WU (R160): Load 4 bytes of mortar memory, zero-extended. -/
  | ldmWu (g : BitVec 4) (d s : BitVec 5) (off : BitVec 12)
  /-- LDM_H (R160): Load 2 bytes of mortar memory, sign-extended. -/
  | ldmH (g : BitVec 4) (d s : BitVec 5) (off : BitVec 12)
  /-- LDM_HU (R160): Load 2 bytes of mortar memory, zero-extended. -/
  | ldmHu (g : BitVec 4) (d s : BitVec 5) (off : BitVec 12)
  /-- LDM_B (R160): Load 1 byte of mortar memory, sign-extended. -/
  | ldmB (g : BitVec 4) (d s : BitVec 5) (off : BitVec 12)
  /-- LDM_BU (R160): Load 1 byte of mortar memory, zero-extended. -/
  | ldmBu (g : BitVec 4) (d s : BitVec 5) (off : BitVec 12)
  /-- LDM_X_D (R160): Indexed 8-byte mortar load. -/
  | ldmXD (g : BitVec 4) (d s t : BitVec 5)
  /-- LDM_X_W (R160): Indexed 4-byte signed mortar load. -/
  | ldmXW (g : BitVec 4) (d s t : BitVec 5)
  /-- LDM_X_WU (R160): Indexed 4-byte unsigned mortar load. -/
  | ldmXWu (g : BitVec 4) (d s t : BitVec 5)
  /-- LDM_X_H (R160): Indexed 2-byte signed mortar load. -/
  | ldmXH (g : BitVec 4) (d s t : BitVec 5)
  /-- LDM_X_HU (R160): Indexed 2-byte unsigned mortar load. -/
  | ldmXHu (g : BitVec 4) (d s t : BitVec 5)
  /-- LDM_X_B (R160): Indexed 1-byte signed mortar load. -/
  | ldmXB (g : BitVec 4) (d s t : BitVec 5)
  /-- LDM_X_BU (R160): Indexed 1-byte unsigned mortar load. -/
  | ldmXBu (g : BitVec 4) (d s t : BitVec 5)
  /-- STM_D (R160): Store 8 bytes to mortar memory under the header scope. -/
  | stmD (g : BitVec 4) (d s : BitVec 5) (off : BitVec 12)
  /-- STM_W (R160): Store 4 bytes to mortar memory. -/
  | stmW (g : BitVec 4) (d s : BitVec 5) (off : BitVec 12)
  /-- STM_H (R160): Store 2 bytes to mortar memory. -/
  | stmH (g : BitVec 4) (d s : BitVec 5) (off : BitVec 12)
  /-- STM_B (R160): Store 1 byte to mortar memory. -/
  | stmB (g : BitVec 4) (d s : BitVec 5) (off : BitVec 12)
  /-- STM_X_D (R160): Indexed 8-byte mortar store. -/
  | stmXD (g : BitVec 4) (d s t : BitVec 5)
  /-- STM_X_W (R160): Indexed 4-byte mortar store. -/
  | stmXW (g : BitVec 4) (d s t : BitVec 5)
  /-- STM_X_H (R160): Indexed 2-byte mortar store. -/
  | stmXH (g : BitVec 4) (d s t : BitVec 5)
  /-- STM_X_B (R160): Indexed 1-byte mortar store. -/
  | stmXB (g : BitVec 4) (d s t : BitVec 5)
  /-- ATOM_ADD (R162): Atomic 8-byte fetch-and-add. -/
  | atomAdd (g : BitVec 4) (d s t : BitVec 5)
  /-- ATOM_ADD_W (R162): Atomic 4-byte fetch-and-add. -/
  | atomAddW (g : BitVec 4) (d s t : BitVec 5)
  /-- ATOM_AND (R162): Atomic 8-byte fetch-and-AND. -/
  | atomAnd (g : BitVec 4) (d s t : BitVec 5)
  /-- ATOM_AND_W (R162): Atomic 4-byte fetch-and-AND. -/
  | atomAndW (g : BitVec 4) (d s t : BitVec 5)
  /-- ATOM_OR (R162): Atomic 8-byte fetch-and-OR. -/
  | atomOr (g : BitVec 4) (d s t : BitVec 5)
  /-- ATOM_OR_W (R162): Atomic 4-byte fetch-and-OR. -/
  | atomOrW (g : BitVec 4) (d s t : BitVec 5)
  /-- ATOM_XOR (R162): Atomic 8-byte fetch-and-XOR. -/
  | atomXor (g : BitVec 4) (d s t : BitVec 5)
  /-- ATOM_XOR_W (R162): Atomic 4-byte fetch-and-XOR. -/
  | atomXorW (g : BitVec 4) (d s t : BitVec 5)
  /-- ATOM_MIN (R162): Atomic 8-byte signed minimum. -/
  | atomMin (g : BitVec 4) (d s t : BitVec 5)
  /-- ATOM_MIN_W (R162): Atomic 4-byte signed minimum. -/
  | atomMinW (g : BitVec 4) (d s t : BitVec 5)
  /-- ATOM_MAX (R162): Atomic 8-byte signed maximum. -/
  | atomMax (g : BitVec 4) (d s t : BitVec 5)
  /-- ATOM_MAX_W (R162): Atomic 4-byte signed maximum. -/
  | atomMaxW (g : BitVec 4) (d s t : BitVec 5)
  /-- ATOM_MINU (R162): Atomic 8-byte unsigned minimum. -/
  | atomMinu (g : BitVec 4) (d s t : BitVec 5)
  /-- ATOM_MINU_W (R162): Atomic 4-byte unsigned minimum. -/
  | atomMinuW (g : BitVec 4) (d s t : BitVec 5)
  /-- ATOM_MAXU (R162): Atomic 8-byte unsigned maximum. -/
  | atomMaxu (g : BitVec 4) (d s t : BitVec 5)
  /-- ATOM_MAXU_W (R162): Atomic 4-byte unsigned maximum. -/
  | atomMaxuW (g : BitVec 4) (d s t : BitVec 5)
  /-- ATOM_SWAP (R162): Atomic 8-byte swap. -/
  | atomSwap (g : BitVec 4) (d s t : BitVec 5)
  /-- ATOM_SWAP_W (R162): Atomic 4-byte swap. -/
  | atomSwapW (g : BitVec 4) (d s t : BitVec 5)
  /-- ATOM_CAS (R162): Atomic 8-byte compare-and-swap. -/
  | atomCas (g : BitVec 4) (d s t : BitVec 5)
  /-- ATOM_CAS_W (R162): Atomic 4-byte compare-and-swap. -/
  | atomCasW (g : BitVec 4) (d s t : BitVec 5)
  /-- CADD_D (R163): Combining 8-byte add to a mortar word, returning nothing. -/
  | caddD (g : BitVec 4) (s t : BitVec 5)
  /-- CADD_W (R163): Combining 4-byte add to a mortar word, returning nothing. -/
  | caddW (g : BitVec 4) (s t : BitVec 5)
  /-- LEASE (R164): Hold a mortar line in M state for a number of cycles. -/
  | lease (g : BitVec 4) (s t : BitVec 5)
  /-- UNLEASE (R165): Free a lease slot and report whether the lease held throughout. -/
  | unlease (g : BitVec 4) (d s : BitVec 5)
  /-- SNAP (R166): Register a snapshot range at a nesting level and return its token. -/
  | snap (g : BitVec 4) (d s t : BitVec 5)
  /-- ACCEPT (R167): End a snapshot level, discarding or passing on its shadows. -/
  | accept (g : BitVec 4) (s : BitVec 5)
  /-- REJECT (R168): Roll a snapshot back by restoring its shadowed lines. -/
  | reject (g : BitVec 4) (s : BitVec 5)
  /-- LDH (R169): Move a handle from a tagged word into a handle register. -/
  | ldh (g : BitVec 4) (h : BitVec 6) (s : BitVec 5) (off : BitVec 6)
  /-- LDHD (R169): Split a handle in a tagged word between the word and a register. -/
  | ldhd (g : BitVec 4) (h : BitVec 6) (s : BitVec 5) (off : BitVec 6)
  /-- STH (R169): Move a handle from a register into an untagged word. -/
  | sth (g : BitVec 4) (h : BitVec 6) (s : BitVec 5) (off : BitVec 6)
  /-- DUP (R170): Duplicate a handle by halving its weight, or refill at e = 0. -/
  | dup (g : BitVec 4) (h j : BitVec 6)
  /-- DROP (R171): Invalidate a handle register and queue its weight for return. -/
  | drop (g : BitVec 4) (h : BitVec 6)
  /-- TNEW (R173): Create a zeroed tile, sealed or open, from a shape word. -/
  | tnew (g : BitVec 4) (h j : BitVec 6) (s : BitVec 5)
  /-- TDESC (R181): Read one 64-bit word of a tile's descriptor. -/
  | tdesc (g : BitVec 4) (h : BitVec 6) (s t : BitVec 5)
  /-- TGET (R181): Read one element of a tile. -/
  | tget (g : BitVec 4) (h : BitVec 6) (s t : BitVec 5)
  /-- TSET (R177): Update one element of a tile, in place or by copy. -/
  | tset (g : BitVec 4) (h : BitVec 6) (s t : BitVec 5)
  /-- TSETV (R177): Update a run of tile elements from a region through the copy engine. -/
  | tsetv (g : BitVec 4) (h : BitVec 6) (s t : BitVec 5)
  /-- TSEAL (R176): Seal an open tile, optionally first writing a region into it. -/
  | tseal (g : BitVec 4) (h : BitVec 6) (s : BitVec 5)
  /-- TOPEN (R175): Open a tile for writing, in place or as a copy. -/
  | topen (g : BitVec 4) (h : BitVec 6)
  /-- TMOVE (R182): Move a tile's storage to another tier or slice. -/
  | tmove (g : BitVec 4) (h : BitVec 6) (s : BitVec 5)
  /-- TUNIQ (R172): Report whether a handle is the tile's unique holder. -/
  | tuniq (g : BitVec 4) (h : BitVec 6) (s : BitVec 5)
  /-- KVFIND (R183): Walk the KV radix tree to a position's page and take a split handle. -/
  | kvfind (g : BitVec 4) (h : BitVec 6) (s t : BitVec 5)
  /-- SPLOAD (R185): Load a span entry image into selected dies' span tables. -/
  | spload (g : BitVec 4) (s t : BitVec 5)
  /-- SPINV (R42): Remove translations of an address range and wait for their drain. -/
  | spinv (g : BitVec 4) (d s t : BitVec 5)
  /-- QUIESCE (R187): Stop a context of the issuing core and report how it stopped. -/
  | quiesce (g : BitVec 4) (d s : BitVec 5)
  /-- CTXSAVE (R188): Save a stopped context's task into a save area. -/
  | ctxsave (g : BitVec 4) (s t : BitVec 5)
  /-- CTXLOAD (R188): Restore a saved task into the context it was saved from. -/
  | ctxload (g : BitVec 4) (s t : BitVec 5)
  /-- REJOIN (R189): Announce a recovered core to every home so its directory entries are purged. -/
  | rejoin (g : BitVec 4)
  /-- MFMT (R197): Set the context's matrix format pair. -/
  | mfmt (g : BitVec 4) (s : BitVec 5)
  /-- MMA (R199): Multiply two tiles into a local-store window starting from zero. -/
  | mma (g : BitVec 4) (ha hb : BitVec 6) (s : BitVec 5)
  /-- MMAC (R199): Multiply two tiles and accumulate into a local-store window. -/
  | mmac (g : BitVec 4) (ha hb : BitVec 6) (s : BitVec 5)
  /-- GMMA (R202): Group multiply across bond members with the result at the last rank. -/
  | gmma (g : BitVec 4) (ha hb : BitVec 6) (s : BitVec 5) (hx : BitVec 6)
  /-- GMMA_MC (R202): Group multiply with handles to the result multicast to every member. -/
  | gmmaMc (g : BitVec 4) (ha hb : BitVec 6) (s : BitVec 5) (hx : BitVec 6)
  /-- VADD_VV (R206): Element-wise add of two regions. -/
  | vaddVv (g : BitVec 4) (d s t : BitVec 5) (rm : BitVec 2) (quiet : Bool)
  /-- VADD_VS (R206): Element-wise add of a scalar. -/
  | vaddVs (g : BitVec 4) (d s t : BitVec 5) (rm : BitVec 2) (quiet : Bool)
  /-- VSUB_VV (R206): Element-wise subtract of two regions. -/
  | vsubVv (g : BitVec 4) (d s t : BitVec 5) (rm : BitVec 2) (quiet : Bool)
  /-- VSUB_VS (R206): Element-wise subtract of a scalar. -/
  | vsubVs (g : BitVec 4) (d s t : BitVec 5) (rm : BitVec 2) (quiet : Bool)
  /-- VMUL_VV (R206): Element-wise multiply of two regions. -/
  | vmulVv (g : BitVec 4) (d s t : BitVec 5) (rm : BitVec 2) (quiet : Bool)
  /-- VMUL_VS (R206): Element-wise multiply by a scalar. -/
  | vmulVs (g : BitVec 4) (d s t : BitVec 5) (rm : BitVec 2) (quiet : Bool)
  /-- VFMA_VV (R206): Element-wise fused multiply-add into D. -/
  | vfmaVv (g : BitVec 4) (d s t : BitVec 5) (rm : BitVec 2) (quiet : Bool)
  /-- VFMA_VS (R206): Element-wise fused multiply-add by a scalar. -/
  | vfmaVs (g : BitVec 4) (d s t : BitVec 5) (rm : BitVec 2) (quiet : Bool)
  /-- VFMA_VN (R206): Element-wise D minus the product, rounded once. -/
  | vfmaVn (g : BitVec 4) (d s t : BitVec 5) (rm : BitVec 2) (quiet : Bool)
  /-- VMAX_VV (R207): Element-wise maximum of two regions. -/
  | vmaxVv (g : BitVec 4) (d s t : BitVec 5) (quiet : Bool)
  /-- VMAX_VS (R207): Element-wise maximum with a scalar. -/
  | vmaxVs (g : BitVec 4) (d s t : BitVec 5) (quiet : Bool)
  /-- VMIN_VV (R207): Element-wise minimum of two regions. -/
  | vminVv (g : BitVec 4) (d s t : BitVec 5) (quiet : Bool)
  /-- VMIN_VS (R207): Element-wise minimum with a scalar. -/
  | vminVs (g : BitVec 4) (d s t : BitVec 5) (quiet : Bool)
  /-- VABS (R207): Element-wise absolute value. -/
  | vabs (g : BitVec 4) (d s : BitVec 5) (quiet : Bool)
  /-- VNEG (R207): Element-wise negation. -/
  | vneg (g : BitVec 4) (d s : BitVec 5) (quiet : Bool)
  /-- VCLMP_VS (R207): Clamp elements between scalar bounds. -/
  | vclmpVs (g : BitVec 4) (d s t : BitVec 5) (quiet : Bool)
  /-- VCLMP_VV (R207): Clamp elements to plus or minus the magnitude of T. -/
  | vclmpVv (g : BitVec 4) (d s t : BitVec 5) (quiet : Bool)
  /-- VCVT (R209): Convert a region element by element. -/
  | vcvt (g : BitVec 4) (d s : BitVec 5) (rm : BitVec 2) (sat quiet : Bool)
  /-- VCVT_S (R210): Quantise a region by group scales. -/
  | vcvtS (g : BitVec 4) (d s t : BitVec 5) (rm : BitVec 2) (sat quiet : Bool)
  /-- VEXP (R211): Element-wise e to the x on the special-function unit. -/
  | vexp (g : BitVec 4) (d s : BitVec 5) (quiet : Bool)
  /-- VEXP_B2 (R211): Element-wise 2 to the x on the special-function unit. -/
  | vexpB2 (g : BitVec 4) (d s : BitVec 5) (quiet : Bool)
  /-- VRCP (R211): Element-wise reciprocal. -/
  | vrcp (g : BitVec 4) (d s : BitVec 5) (quiet : Bool)
  /-- VRSQ (R211): Element-wise reciprocal square root. -/
  | vrsq (g : BitVec 4) (d s : BitVec 5) (quiet : Bool)
  /-- VSUM_F (R212): Floating sum of a region rounded once. -/
  | vsumF (g : BitVec 4) (d s : BitVec 5) (quiet : Bool)
  /-- VSUM_I (R212): Integer sum of a region modulo its width. -/
  | vsumI (g : BitVec 4) (d s : BitVec 5) (quiet : Bool)
  /-- VRMAX (R212): Maximum element of a region. -/
  | vrmax (g : BitVec 4) (d s : BitVec 5) (quiet : Bool)
  /-- VSEL (R214): Merge S into D where the mask is nonzero. -/
  | vsel (g : BitVec 4) (d s t : BitVec 5) (quiet : Bool)
  /-- VCMP_EQ_VV (R213): Element-wise equality test into D. -/
  | vcmpEqVv (g : BitVec 4) (d s t : BitVec 5) (quiet : Bool)
  /-- VCMP_EQ_VS (R213): Element-wise equality test against a scalar. -/
  | vcmpEqVs (g : BitVec 4) (d s t : BitVec 5) (quiet : Bool)
  /-- VCMP_NE_VV (R213): Element-wise inequality test. -/
  | vcmpNeVv (g : BitVec 4) (d s t : BitVec 5) (quiet : Bool)
  /-- VCMP_NE_VS (R213): Element-wise inequality test against a scalar. -/
  | vcmpNeVs (g : BitVec 4) (d s t : BitVec 5) (quiet : Bool)
  /-- VCMP_LT_VV (R213): Element-wise less-than test. -/
  | vcmpLtVv (g : BitVec 4) (d s t : BitVec 5) (quiet : Bool)
  /-- VCMP_LT_VS (R213): Element-wise less-than test against a scalar. -/
  | vcmpLtVs (g : BitVec 4) (d s t : BitVec 5) (quiet : Bool)
  /-- VCMP_LE_VV (R213): Element-wise less-or-equal test. -/
  | vcmpLeVv (g : BitVec 4) (d s t : BitVec 5) (quiet : Bool)
  /-- VCMP_LE_VS (R213): Element-wise less-or-equal test against a scalar. -/
  | vcmpLeVs (g : BitVec 4) (d s t : BitVec 5) (quiet : Bool)
  /-- VCMP_GT_VV (R213): Element-wise greater-than test. -/
  | vcmpGtVv (g : BitVec 4) (d s t : BitVec 5) (quiet : Bool)
  /-- VCMP_GT_VS (R213): Element-wise greater-than test against a scalar. -/
  | vcmpGtVs (g : BitVec 4) (d s t : BitVec 5) (quiet : Bool)
  /-- VCMP_GE_VV (R213): Element-wise greater-or-equal test. -/
  | vcmpGeVv (g : BitVec 4) (d s t : BitVec 5) (quiet : Bool)
  /-- VCMP_GE_VS (R213): Element-wise greater-or-equal test against a scalar. -/
  | vcmpGeVs (g : BitVec 4) (d s t : BitVec 5) (quiet : Bool)
  /-- VTOPK_MAX (R215): Select the indices of the k highest elements. -/
  | vtopkMax (g : BitVec 4) (d s t : BitVec 5) (quiet : Bool)
  /-- VTOPK_MIN (R215): Select the indices of the k lowest elements. -/
  | vtopkMin (g : BitVec 4) (d s t : BitVec 5) (quiet : Bool)
  /-- VGATH (R216): Gather elements of S through an index region. -/
  | vgath (g : BitVec 4) (d s t : BitVec 5) (quiet : Bool)
  /-- VSCAT (R216): Scatter elements of S through an index region. -/
  | vscat (g : BitVec 4) (d s t : BitVec 5) (quiet : Bool)
  /-- VIOTA (R217): Write start plus index times step into D. -/
  | viota (g : BitVec 4) (d s t : BitVec 5) (quiet : Bool)
  /-- VFILL (R217): Fill D with one scalar value. -/
  | vfill (g : BitVec 4) (d s : BitVec 5) (quiet : Bool)
  /-- VBFLY (R219): Radix-2 complex butterflies with twiddles. -/
  | vbfly (g : BitVec 4) (d s t : BitVec 5) (quiet : Bool)
  /-- VBFLY_CJ (R219): Radix-2 butterflies with conjugated twiddles. -/
  | vbflyCj (g : BitVec 4) (d s t : BitVec 5) (quiet : Bool)
  /-- VTWID (R220): Write correctly rounded twiddle factors. -/
  | vtwid (g : BitVec 4) (d s t : BitVec 5) (quiet : Bool)
  /-- VCMUL (R218): Complex element-wise multiply. -/
  | vcmul (g : BitVec 4) (d s t : BitVec 5) (rm : BitVec 2) (quiet : Bool)
  /-- VCMUL_CJ (R218): Complex multiply by the conjugate of T. -/
  | vcmulCj (g : BitVec 4) (d s t : BitVec 5) (rm : BitVec 2) (quiet : Bool)
  /-- VIADD_VV (R208): Integer element-wise add, wrapping. -/
  | viaddVv (g : BitVec 4) (d s t : BitVec 5) (quiet : Bool)
  /-- VIADD_VS (R208): Integer add of a scalar, wrapping. -/
  | viaddVs (g : BitVec 4) (d s t : BitVec 5) (quiet : Bool)
  /-- VIADD_VV_SAT (R208): Integer element-wise add, saturating. -/
  | viaddVvSat (g : BitVec 4) (d s t : BitVec 5) (quiet : Bool)
  /-- VIADD_VS_SAT (R208): Integer add of a scalar, saturating. -/
  | viaddVsSat (g : BitVec 4) (d s t : BitVec 5) (quiet : Bool)
  /-- VIMUL_VV (R208): Integer element-wise multiply. -/
  | vimulVv (g : BitVec 4) (d s t : BitVec 5) (quiet : Bool)
  /-- VIMUL_VS (R208): Integer multiply by a scalar. -/
  | vimulVs (g : BitVec 4) (d s t : BitVec 5) (quiet : Bool)
  /-- VAND_VV (R208): Element-wise AND. -/
  | vandVv (g : BitVec 4) (d s t : BitVec 5) (quiet : Bool)
  /-- VAND_VS (R208): Element-wise AND with a scalar. -/
  | vandVs (g : BitVec 4) (d s t : BitVec 5) (quiet : Bool)
  /-- VOR_VV (R208): Element-wise OR. -/
  | vorVv (g : BitVec 4) (d s t : BitVec 5) (quiet : Bool)
  /-- VOR_VS (R208): Element-wise OR with a scalar. -/
  | vorVs (g : BitVec 4) (d s t : BitVec 5) (quiet : Bool)
  /-- VXOR_VV (R208): Element-wise exclusive OR. -/
  | vxorVv (g : BitVec 4) (d s t : BitVec 5) (quiet : Bool)
  /-- VXOR_VS (R208): Element-wise exclusive OR with a scalar. -/
  | vxorVs (g : BitVec 4) (d s t : BitVec 5) (quiet : Bool)
  /-- VSHL_VV (R208): Element-wise shift left. -/
  | vshlVv (g : BitVec 4) (d s t : BitVec 5) (quiet : Bool)
  /-- VSHL_VS (R208): Element-wise shift left by a scalar. -/
  | vshlVs (g : BitVec 4) (d s t : BitVec 5) (quiet : Bool)
  /-- VSHR_VV (R208): Element-wise logical shift right. -/
  | vshrVv (g : BitVec 4) (d s t : BitVec 5) (quiet : Bool)
  /-- VSHR_VS (R208): Element-wise logical shift right by a scalar. -/
  | vshrVs (g : BitVec 4) (d s t : BitVec 5) (quiet : Bool)
  /-- VSHR_AR_VV (R208): Element-wise arithmetic shift right. -/
  | vshrArVv (g : BitVec 4) (d s t : BitVec 5) (quiet : Bool)
  /-- VSHR_AR_VS (R208): Element-wise arithmetic shift right by a scalar. -/
  | vshrArVs (g : BitVec 4) (d s t : BitVec 5) (quiet : Bool)
  /-- VFLG (R222): Read the context's vector lane flags into D. -/
  | vflg (g : BitVec 4) (d : BitVec 5) (quiet : Bool)
  /-- VFLG_CLR (R222): Read and clear the context's vector lane flags. -/
  | vflgClr (g : BitVec 4) (d : BitVec 5) (quiet : Bool)
  /-- VMASKW (R221): Mask elements whose token positions lie outside a window. -/
  | vmaskw (g : BitVec 4) (d s t : BitVec 5) (quiet : Bool)
  /-- CPY_LL (R224): Copy from the local store to the local store. -/
  | cpyLl (g : BitVec 4) (d s t : BitVec 5)
  /-- CPY_LV (R224): Copy from the local store to a virtual range. -/
  | cpyLv (g : BitVec 4) (d s t : BitVec 5)
  /-- CPY_LN (R225): Copy from the local store into a new slice tile. -/
  | cpyLn (g : BitVec 4) (d s t : BitVec 5) (hx : BitVec 6)
  /-- CPY_VL (R224): Copy from a virtual range to the local store. -/
  | cpyVl (g : BitVec 4) (d s t : BitVec 5)
  /-- CPY_VV (R224): Copy from a virtual range to a virtual range. -/
  | cpyVv (g : BitVec 4) (d s t : BitVec 5)
  /-- CPY_VN (R225): Copy from a virtual range into a new slice tile. -/
  | cpyVn (g : BitVec 4) (d s t : BitVec 5) (hx : BitVec 6)
  /-- CPY_HL (R224): Copy from a tile's storage to the local store. -/
  | cpyHl (g : BitVec 4) (d s t : BitVec 5) (hx : BitVec 6)
  /-- CPY_HV (R224): Copy from a tile's storage to a virtual range. -/
  | cpyHv (g : BitVec 4) (d s t : BitVec 5) (hx : BitVec 6)
  /-- CPY_HN (R225): Copy from a tile's storage into a new slice tile. -/
  | cpyHn (g : BitVec 4) (d s t : BitVec 5) (hx : BitVec 6)
  /-- CPYR_L (R226): Copy from the local store into another context's window and signal its flag. -/
  | cpyrL (g : BitVec 4) (d s t : BitVec 5)
  /-- CPYR_V (R226): Copy from a virtual range into another context's window and signal. -/
  | cpyrV (g : BitVec 4) (d s t : BitVec 5)
  /-- CPYR_H (R226): Copy from a tile into another context's window and signal. -/
  | cpyrH (g : BitVec 4) (d s t : BitVec 5) (hx : BitVec 6)
  /-- MIGR (R227): Move a tile's storage to a target with a deadline. -/
  | migr (g : BitVec 4) (s t : BitVec 5) (hx : BitVec 6)
  deriving DecidableEq, Repr

end Sys2Proof
end

