-- ==== Sys2Proof/Machine/State.lean ====
section
/-! DEFINITION. The state of a PQ-9 package: everything the spec gives the machine, as plain data.

INVENTORY.md lists each field with its rule and its reset value.  Large files are sparse tables (Tab): what a table does not
list holds the value named in the field's comment.  Fields marked "model's own" are not the spec's (notes/assumptions). -/

namespace Sys2Proof.Machine

/-! ### Traps -/

/-- The trap causes of R316; `Cause.code` in Ops gives each its code. -/
inductive Cause where
  | illegalOp | bundleConflict | stallShort | pcAlign | privOp | privSr | srUndef | swTrap | loopBad | loopDepth | flagRange
  | doubleFault | misalign | spanMiss | spanBad | pageClass | peerAbsent | peerDenied | remoteDenied | rpostDenied
  | memUncorr | spinvSnap | rejoinState | ctxRunning | launchAlign | launchQueue | leaseBad | leaseRemote | leaseDepth
  | snapBad | snapOverlap | snapDepth | snapNoreg | snapOrder | snapFull | feTimeout | kvMiss | handleInvalid | handleLive
  | handleClobber | handleUntagged | tileOpen | tileState | tileShape | tileIndex | tileNospace | tileTarget | tileRemote
  | openDepth | sliceFull | formatInvalid | formatMismatch | formatPair | regionBad | regionAlign | regionOverlap
  | indexRange | twidBad | gmmaBad | freezeTimeout | copyAlign | copyBad | copyDestDenied
  deriving DecidableEq, Repr

/-- The kinds of trap of R317. -/
inductive TrapKind where
  | precise | engine | deferred
  deriving DecidableEq, Repr

/-- The engines, in the order of the record's engine field (R320). -/
inductive Engine where
  | matrix | vector | sfu | copy
  deriving DecidableEq, Repr

/-- What a trap's record reports (R320), and the cycle in which it was detected (R317). `engine` is none for precise and deferred
traps. -/
structure TrapInfo where
  cause : Cause
  kind : TrapKind
  engine : Option Engine
  slot : Nat
  imm : BitVec 15
  seq : BitVec 32
  pc : Word
  addr : Word
  cancelled : Nat
  progress : Nat
  cycle : Nat
  deriving DecidableEq, Repr

/-! ### Registers of a context -/

/-- A register, predicate, handle or counting flag as an operand or destination (R104). -/
inductive Reg where
  | a (n : Nat) | b (n : Nat) | h (n : Nat) | p (n : Nat) | q (n : Nat)
  deriving DecidableEq, Repr

/-- A valid handle (R48): an invalid register or an untagged word holds none. -/
structure Handle where
  fresh : Bool
  e : BitVec 5
  tile : BitVec 40
  deriving DecidableEq, Repr

/-- The register files of R79. Not listed: 0 for a, b and q, invalid for h, 0 for p (p0 and p8 to p15 are never listed). -/
structure Regs where
  a : Tab Word
  b : Tab Word
  h : Tab Handle
  p : Tab Bool
  q : Tab (BitVec 16)
  deriving DecidableEq, Repr

/-- A loop record (R116); `stg` is the number of stages minus one. -/
structure LoopRec where
  head : Word
  last : Word
  stg : BitVec 3
  n : BitVec 32
  mask : BitVec 8
  drain : Bool
  deriving DecidableEq, Repr

/-- Occupied lease slots (R269). -/
inductive LeaseState where
  | acquiring | held | expired
  deriving DecidableEq, Repr

/-- A lease slot (R164): the physical line, and the cycle at which a held lease runs out. -/
structure LeaseSlot where
  line : Nat
  state : LeaseState
  cycles : Nat
  until_ : Nat
  deriving DecidableEq, Repr

/-- A drop waiting in a drop queue (R55): `bundle` is the bundle number of the drop, `left` once its weight has left the core. -/
structure Drop where
  tile : BitVec 40
  e : BitVec 5
  bundle : Nat
  left : Bool
  deriving DecidableEq, Repr

/-- A fixed-latency or cross-cluster result not yet readable (R97, R98). -/
structure Busy where
  reg : Reg
  ready : Nat
  cross : Bool
  deriving DecidableEq, Repr

/-- A load from this package whose result has not arrived (variable result, R97, R262): `pa` is none once it is performed; `pc`, `bundle`
and `va` are its bundle and address; `acq` marks an acquire (R278), `refused` one whose trap is pending (R32, R289). -/
structure PendLoad where
  dst : Reg
  pc : Word
  va : Word
  pa : Option Nat
  size : Nat
  signed : Bool
  bundle : Nat
  acq : Bool
  refused : Bool
  deriving DecidableEq, Repr

/-- The kinds of remote access (R37, R289). -/
inductive RemoteOp where
  | load | store | atomic | cadd | sth | ldh | ldhd
  deriving DecidableEq, Repr

/-- An access through a REMOTE window that has not been answered (R289): its bundle, its address, its result register if it has one;
`acq` marks an acquire (R278), `refused` one whose trap is pending. -/
structure RemoteAcc where
  op : RemoteOp
  pc : Word
  va : Word
  dst : Option Reg
  size : Nat
  signed : Bool
  bundle : Nat
  acq : Bool
  refused : Bool
  deriving DecidableEq, Repr

/-- What a held bundle has asked and the answers that have come (R104 step 4, R180). `asked` is the kind of the question on its way
and the tile it names (0 descriptor, 1 uniqueness, 2 allocation, 3 refill, 4 the bytes of a REMOTE range, 5 descriptor
with half of the scale handle for a copy, which comes as nine words, 11 whether an access
through a REMOTE window passes the peer's checks (R157), 6 and 7 the drain and the acknowledgement of a SPINV, 8 the
purges of a REJOIN, 9 the stop of a QUIESCE, 12 and 13 a save area in a REMOTE window with the context that it saves or restores: a form of the
kinds 6 to 9, 12 and 13 has issued and its context takes no trap until it completes); the answers are the
descriptor with what the form asked of it, the uniqueness answer, the refill, the tile allocated (index 0 where the home refused),
the code of the peer's check (0 where it passes), the blocks read by their package and address (R183, R185), `block` being the one on its way and `va` the virtual address of what was asked
of a peer, the line whose shadow the pool refused (R161), the line whose lease was acquired (R269). `line` is the line that the held bundle has
requested and whose access it has yet to make (R262). `kept` is the package and address of a word that its home keeps for the bundle from the check
on (R157). -/
structure Replies where
  asked : Option (Nat × BitVec 40)
  desc : Option (List Word)
  unique : Option Bool
  refill : Bool
  tile : Option (BitVec 40)
  probe : Option Nat
  kept : Option Nat
  block : Nat
  va : Word
  got : List (Nat × List Word)
  full : Option Nat
  leased : Option Nat
  line : Option Nat
  deriving DecidableEq, Repr

/-- A full/empty wait of the next bundle (R159): the cycle in which it began, the slot, the window offset, whether it waits for a full granule. -/
structure FeWait where
  since : Nat
  slot : Nat
  addr : Word
  full : Bool
  deriving DecidableEq, Repr

/-- What a context is doing: no task; a task whose start waits for an unfreeze (R89, R304); issuing; after HALT; ended issue without a task (a
halted firmware context). -/
inductive Run where
  | idle | starting | running | ending | halted
  deriving DecidableEq, Repr

/-- A stop in progress (R324): requested, issue stopped, the markers returned (matrix, vector, copy), stopped at a loop head. -/
structure Stop where
  asked : Bool
  issued : Bool
  matrix : Bool
  vector : Bool
  copy : Bool
  atHead : Bool
  deriving DecidableEq, Repr

/-- The task a context runs (R298, R303): its launch, its task slot, its residency lease. -/
structure Task where
  launch : Nat
  lease : List (Nat × Nat)
  deriving DecidableEq, Repr

/-- One hardware context (R73, R79). -/
structure Ctx where
  regs : Regs
  pc : Word
  run : Run
  task : Option Task
  rank : BitVec 10
  nranks : BitVec 11
  argp : Word
  asid : BitVec 12
  lsbase : BitVec 8
  lslen : BitVec 9
  fflags : BitVec 5
  check : Bool
  nfmt : Tab (BitVec 16)
  tvecRec : BitVec 14
  tvecHandler : BitVec 36
  gstat : Word
  gtimeout : BitVec 32
  pair : Option (BitVec 16 × BitVec 16)
  loops : List LoopRec                 -- innermost first
  vflags : Tab (BitVec 5)              -- not listed: 0
  openSet : List (BitVec 40)
  leases : List LeaseSlot
  barGen : Tab Bool                    -- generation at the last BARJ; not listed: 0
  cmdNo : BitVec 32
  handler : Bool
  handlerDepth : Nat
  pending : List TrapInfo              -- oldest first
  readyAt : Nat                        -- stall (R96): the next bundle does not issue before this cycle
  yielded : Bool                       -- YIELD in force for one choice (R126)
  busy : List Busy
  loads : List PendLoad
  remote : List RemoteAcc
  rposts : List Nat                    -- the targets of its RPOSTs not yet acknowledged (R130, R132): peer, context, core as R10 lays them out
  drops : List Drop
  reply : Replies
  late : List (Nat × BitVec 40)        -- questions of bundles that a trap has ended, whose answers are still to come (model's own)
  refills : List (Nat × Nat × BitVec 40) -- DUPs whose refill reply is outstanding (R51, R170): both registers, the tile
  shadowWait : Option Nat              -- the line whose shadow its held bundle waits for (R161)
  stop : Stop
  faulted : Option Cause               -- the cause by which the task ends (R123, R323)
  discarded : Bool                     -- the task is discarded (R323)
  feWait : List FeWait                 -- the full/empty waits of its next bundle (R159)
  blocked : Bool                       -- a block of its next bundle has been detected (R86)
  lateFlags : List (BitVec 5 × Nat)    -- floating-point flags and the cycle in which they are set (R149)
  bundle : Nat                         -- model's own: bundles issued
  deriving DecidableEq, Repr

/-! ### Engine commands -/

/-- A region descriptor as resolved at issue (R75, R17): `win` is the window's first byte in the local store. -/
structure Region where
  win : Nat
  base : Nat
  stride : Int
  count : Nat
  fword : BitVec 16
  elem : Elem
  keep : Bool
  fe : Bool
  deriving DecidableEq, Repr

/-- The comparisons of CMP and CMPI (R145) and, without the unsigned ones, of VCMP (R213). -/
inductive Cond where
  | eq | ne | lt | le | gt | ge | ltu | leu | gtu | geu
  deriving DecidableEq, Repr

/-- What a vector or special-function command computes (R205). -/
inductive VOp where
  | add | sub | mul | fma (negProduct : Bool) | max | min | abs | neg | clampS | clampV | cvt | cvtS
  | exp (base2 : Bool) | rcp | rsq | sumF | sumI | rmax | sel | cmp (c : Cond) | topk (lowest : Bool)
  | gath | scat | iota | fill | bfly (cj : Bool) | twid | cmul (cj : Bool) | iadd (sat : Bool) | imul
  | band | bor | bxor | shl | shr | sar | flg (clr : Bool) | maskw
  deriving DecidableEq, Repr

/-- A vector command with its operands latched at issue; `x` and `y` are B[s] and B[t] (R191). -/
structure VCmd where
  op : VOp
  rm : BitVec 2
  sat : Bool
  quiet : Bool
  d : Region
  s : Option Region
  t : Option Region
  x : Word
  y : Word
  deriving DecidableEq, Repr

/-- Source of a copy (R68). -/
inductive CopySrc where
  | ls (off : Nat)
  | va (addr : Nat)
  | tile (t : BitVec 40) (off : Nat)
  deriving DecidableEq, Repr

/-- Destination of a copy (R68): a window offset, a virtual address, a new tile for a handle register, or the window of another
context with its flag (CPYR). -/
inductive CopyDst where
  | ls (off : Nat)
  | va (addr : Nat)
  | newTile (shape : Word) (h : Nat) (t : Option (BitVec 40))
  | remote (word : Word)
  deriving DecidableEq, Repr

/-- Where a chunk reads or writes, as translated at its start (R40, R65): a byte of the local store, a physical address of this
package or of a peer, a byte of the storage of a tile homed elsewhere, another context's window. -/
inductive Place where
  | ls (o : Nat)
  | pa (a : Nat)
  | far (peer a : Nat)
  | farTile (t : BitVec 40) (off : Nat)
  | window
  deriving DecidableEq, Repr

/-- A chunk in progress (R72), or the part of one that lies in one frame: what it has read, with poison marks by byte, and whether its
bytes are on their way to another core or package. -/
structure Chunk where
  start : Nat
  len : Nat
  src : Place
  dst : Place
  got : Option (List (Byte × Bool))
  sent : Bool
  deriving DecidableEq, Repr

/-- A translation that a copy keeps (R40): the bytes of the command that it covers, first and last plus one, where the first of them lies,
and whether the window is STAGED. -/
structure Kept where
  first : Nat
  upto : Nat
  place : Place
  staged : Bool
  deriving DecidableEq, Repr

/-- A copy command (R72): `started` is the first byte not yet in a chunk, `inFlight` the chunks in progress, `landed` the bytes of
completed chunks, `cut` set by a marker (R325). -/
structure CopyCmd where
  fn : Nat
  src : CopySrc
  dst : CopyDst
  dWord : Word
  sWord : Word
  len : Nat
  started : Nat
  inFlight : List Chunk
  landed : Nat
  cut : Bool
  old : Tab (Byte × Bool)              -- by source offset: unread source bytes before the command's own writes to them (R224)
  srcKept : Option Kept                -- the translations kept until the chunk or the frame ends (R40)
  dstKept : Option Kept
  carry : List Byte                    -- landed bytes that are not written yet: of a granule not complete (R70), of a chunk of a CPYR (R294)
  deriving DecidableEq, Repr

/-- What an update writes (R175, R177). -/
inductive UpdWrite where
  | opened
  | elem (n : Nat) (v : Word)
  | region (n : Nat) (r : Region)
  deriving DecidableEq, Repr

/-- A group multiply (R202): the handle register, the group descriptor and the timeout in force at issue; the cycle of its take, whether
the agreement table holds its announcement, and the output blocks of its product (R236, R231). -/
structure Gmma where
  mc : Bool
  fmtA : BitVec 16
  fmtB : BitVec 16
  tileA : BitVec 40
  tileB : BitVec 40
  hx : Nat
  desc : Word
  timeout : Nat
  takenAt : Nat
  entered : Bool
  blocks : Nat
  deriving DecidableEq, Repr

/-- What an engine command does. -/
inductive CmdOp where
  | vec (v : VCmd)
  | mma (acc : Bool) (fmtA fmtB : BitVec 16) (tileA tileB : BitVec 40) (d : Region) (row0 col0 rows cols : Nat)
  | gmma (g : Gmma)
  | copy (c : CopyCmd)
  | move (tile : BitVec 40) (target : Word) (deadline : Nat) (issued : Nat) (migr : Bool) (dest : Option (Nat × Nat))
  | seal (h : Nat) (hd : Handle) (r : Region)
  | update (h : Nat) (token : Handle) (copy : Option Handle) (read : Bool) (w : UpdWrite)
  deriving DecidableEq, Repr

/-- A queued or running command (R83, R318). `serial` orders the core's commands; `engine` is none for an update that its issuing
slot carries out. -/
structure Cmd where
  serial : Nat
  ctx : Nat
  engine : Option Engine
  seq : BitVec 32
  pc : Word
  bundle : Nat
  win : Nat
  winLen : Nat
  op : CmdOp
  running : Bool
  progress : Nat
  fetched : Bool                       -- the operands of the next block have arrived (R66)
  steps : Nat                          -- of the next block: the positions of K whose operands have arrived
  panel : Nat                          -- positions of K of the B panels read into the stash, those of earlier block columns included (R232)
  feWait : Option (Nat × Nat)          -- the cycle in which it first found a source granule empty, and the granule (R77)
  deriving DecidableEq, Repr

/-! ### A core -/

/-- A barrier (R82). -/
structure Barrier where
  count : Nat
  gen : Bool
  deriving DecidableEq, Repr

/-- Span-entry modes (R35), page classes (R36). -/
inductive SpanMode where
  | localWin | remote | staged
  deriving DecidableEq, Repr

inductive PageClass where
  | tile | mortar | code
  deriving DecidableEq, Repr

/-- A present frame slot (R36). -/
structure Slot where
  cls : PageClass
  tier : Nat
  die : Nat
  frame : Nat
  deriving DecidableEq, Repr

/-- A span entry (R35); a slot that is not listed is absent. -/
structure Span where
  valid : Bool
  mode : SpanMode
  peer : BitVec 14
  asid : BitVec 12
  slots : Tab Slot
  deriving DecidableEq, Repr

/-- A frame-buffer entry (R40). -/
structure FrameEntry where
  asid : BitVec 12
  span : Nat
  slot : Nat
  mode : SpanMode
  peer : BitVec 14
  place : Slot
  deriving DecidableEq, Repr

/-- L1 line states (R258, R262). A line that is not listed is in I. -/
inductive LineState where
  | M | E | S | U | ISD | IMAD | SMA | IUA | MIA | SIA | IIA
  deriving DecidableEq, Repr

/-- What the answer to an L1's request says: the InvAcks or sums to collect (R260), the halves that the host bridge sends (R265), an exclusive
grant. -/
structure Grant where
  acks : Nat
  halves : Nat
  excl : Bool
  deriving DecidableEq, Repr

/-- A line of a mortar L1: its state; the answer to its request, and the InvAcks or sums and the halves collected; whether an Inv came
before its data; whether a PutU of it is unanswered; its U sums (slot, wide, sum), kept until the home or a requester has merged them; its
snapshot generation (R272). -/
structure L1Line where
  state : LineState
  grant : Option Grant
  got : Nat
  gotHalves : Nat
  lost : Bool
  put : Bool
  sums : List (Nat × Bool × Word)
  sg : BitVec 32
  deriving DecidableEq, Repr

/-- Trace unit of a core (R337): per context the classes, the trigger and the post-count; the state; the ring, newest first. -/
inductive TraceState where
  | armed | counting (left : Nat) | frozen
  deriving DecidableEq, Repr

structure TraceCfg where
  classes : BitVec 3
  trigger : Nat                        -- 0 branch, 1 mask, 2 memory event with a matching address; 3 TIME.dom reaching a value
  arg : Word
  post : Nat
  deriving DecidableEq, Repr

structure TraceRec where
  time : Word
  cls : Nat
  ctx : Nat
  data : BitVec 40
  deriving DecidableEq, Repr

/-- A task whose context has been saved (R57, R328): its context, its task, its window in units of 4 KiB, its bundle count,
the tiles that its cut copies still read with the bundles of those copies, whether it has been discarded. `copies` are the cut copies in
order: their serials, the addresses of their bundles (R320), and where part of a CPYR has arrived the message that ends its arrival, should the rest
not come (R84). -/
structure Saved where
  ctx : Nat
  task : Task
  base : Nat
  len : Nat
  bundle : Nat
  reads : List (BitVec 40 × Nat)
  copies : List (Nat × Word × Option (Nat × Instr))
  discarded : Bool
  deriving DecidableEq, Repr

/-- A CPYR that is arriving in a window of this core (R84): the sender's package, core and command; the bytes of the local store still to be
written, first and last plus one; the number of the first command of this core that comes after it. -/
structure Arrival where
  peer : Nat
  core : Nat
  serial : Nat
  first : Nat
  upto : Nat
  before : Nat
  deriving DecidableEq, Repr

/-- One core (R10, R73, R81 to R89). -/
structure Core where
  ctxs : Tab Ctx                       -- not listed: Ctx.reset
  ls : Tab Byte                        -- not listed: 0
  lsTags : Tab Bool                    -- by 8-byte word; not listed: untagged
  full : Tab Bool                      -- by 16-byte granule; not listed: empty
  barcfg : BitVec 48
  bars : Tab Barrier                   -- not listed: count 0, generation 0
  frames : List FrameEntry             -- at most 16, oldest first
  l1 : Tab L1Line                      -- by line number PA / 128
  heldProbes : List Instr              -- forwards queued at the core (R262, R270), oldest first
  cmds : List Cmd                      -- the three queues and the running commands, oldest first
  nextSerial : Nat
  enginePair : Option (BitVec 16 × BitVec 16)
  arrivals : List Arrival
  strays : List Nat                    -- the numbers of copies that are gone, once for each of their messages that is still unanswered (R42)
  pins : List Nat                      -- the 256-byte blocks pinned by the tile fetch unit, by PA / 256 (R67)
  frozen : Option Nat                  -- the cycle in which the freeze began (R87)
  lastTask : Nat                       -- the task context that issued last (R313)
  sinceFw : Nat                        -- cycles in which a task context issued since ctx3 last issued
  saved : List Saved
  savedDrops : List (Nat × Drop)       -- drops of saved tasks, with 256 * context + window base (R57)
  copyTurn : Nat                       -- the context whose copy command started last (R69)
  fwOld : Option (Bool × BitVec 8)     -- SR_FW.en and fwlen still in force here: a change waits until the core holds no task (R311)
  gated : Bool
  capGated : Bool                      -- gated because the power stays above its cap (R339)
  idleSince : Option Nat               -- the time in ticks since which the core has held no task, as its turn last found it (R339)
  trace : Tab TraceCfg                 -- by context
  traceState : TraceState
  traceBuf : List TraceRec
  deriving DecidableEq, Repr

/-! ### The package -/

/-- A tile descriptor (R46). -/
structure Desc where
  sealed : Bool
  opened : Bool
  isScale : Bool
  moving : Bool
  rows : BitVec 14
  cols : BitVec 14
  layout : BitVec 2
  fword : BitVec 16
  storage : BitVec 45
  blocks : BitVec 32
  pitch : BitVec 32
  total : Word
  returned : Word
  scale : Option Handle
  born : Word
  deriving DecidableEq, Repr

/-- Sharers of a line (R259): up to four cores, or marked courses of the package. -/
inductive Sharers where
  | cores (cs : List Nat)
  | courses (cs : List Nat)
  deriving DecidableEq, Repr

/-- Directory entry (R259). A line that is not listed is in I. -/
inductive DirState where
  | S (sh : Sharers)
  | EM (owner : Nat)
  | U (holders : List Nat)
  deriving DecidableEq, Repr

/-- Bridge state of a line half (R265): HI or DI, HS or DS, HX or DX. -/
inductive HalfState where
  | I | S | X
  deriving DecidableEq, Repr

/-- A live snapshot range register (R271): `owner` as its task field, `base` and `len` in lines. `window` is the base of its task's window, which
tells the task from one that is saved from the same context (R328; model's own). -/
structure Snap where
  gen : BitVec 32
  level : Nat
  owner : Nat
  window : Nat
  base : Nat
  len : Nat
  deriving DecidableEq, Repr

/-- A shadow (R273): its place in the pool of the line's home die, the register whose level it belongs to, the line, its 128 bytes, the
tagged words, the poisoned units. -/
structure Shadow where
  slot : Nat
  reg : Nat
  line : Nat
  bytes : List Byte
  tags : List Bool
  poison : List Bool
  deriving DecidableEq, Repr

/-- A hardware queue slot (R308). -/
structure QSlot where
  base : BitVec 57
  mapped : Bool
  lgsize : BitVec 4
  proc : BitVec 8
  tail : BitVec 24
  head : BitVec 24
  deriving DecidableEq, Repr

/-- A launch packet as read (R298). -/
structure Packet where
  ctxs : Nat
  lsbytes : Nat
  region : Nat
  code : Word
  tvec : Word
  cores : List Nat
  leaseVa : Nat
  nlease : Nat
  args : Word
  record : Nat
  flag : Word
  barcfg : BitVec 48
  tag : Word
  deriving DecidableEq, Repr

inductive LaunchState where
  | waitingResidency | pending | running | ended (status : Nat)
  deriving DecidableEq, Repr

/-- A launch's completion record (R306): not written, on its way to a peer, written or skipped. -/
inductive RecordState where
  | unwritten | sent | done
  deriving DecidableEq, Repr

/-- A launch between acceptance and completion (R302 to R307). -/
structure Launch where
  id : Nat
  parent : Nat                         -- launch identifier of the parent, 0 for none
  proc : Nat
  pkt : Packet
  chain : List Nat                     -- region blocks, its own first (R301)
  asid : BitVec 12
  prio : Nat
  fdom : Bool
  lease : List (Nat × Nat)
  near : Nat                           -- near frames charged (R302)
  state : LaunchState
  live : Nat                           -- tasks not yet ended
  faults : Nat
  status : Nat                         -- status to report (R306)
  record : RecordState
  deriving DecidableEq, Repr

/-- One member's announcement (R235). -/
structure Ann where
  rank : Nat
  mask : Nat
  m : Nat
  n : Nat
  k : Nat
  fmts : Nat
  fn : Nat
  deriving DecidableEq, Repr

inductive AgreeState where
  | gathering | agreed | aborted (cause rank : Nat)
  deriving DecidableEq, Repr

/-- Agreement-table entry (R236) with the chain blocks received and not yet used, and the blocks that its member has sent and the next rank has
not used (R235). `heard` is the cycle and the sender of the ABORT that is recorded (R241). -/
structure Agree where
  gid : Nat
  seq : Nat
  anns : List Ann
  localRank : Option Nat
  state : AgreeState
  blocks : List (List Word)
  ahead : Nat
  heard : Option (Nat × Nat)
  result : Option (BitVec 40)
  deriving DecidableEq, Repr

/-- An ABORT that has come for a key without an entry, which a full table could not keep (R241): its cause, the rank that it names, its sender, the
cycle. -/
structure Heard where
  gid : Nat
  seq : Nat
  cause : Nat
  rank : Nat
  sender : Nat
  cycle : Nat
  deriving DecidableEq, Repr

/-- What a flit carries (R291): its type, and the number that its payload stands for: of a data flit with which a message ends the place of the
message in `State.outbox` plus one, of a control flit twice the package and whether it can be reached, else 0. -/
structure Load where
  kind : Nat
  payload : Nat
  deriving DecidableEq, Repr

/-- A flit as it goes out (R291): the slot counter, what it carries, the sequence number, the acknowledged sequence, NAK. -/
structure Flit where
  ctr : Word
  load : Load
  seq : BitVec 12
  ack : BitVec 12
  nak : Bool
  deriving DecidableEq, Repr

/-- A fabric link (R285, R291, R292, R336). -/
structure Link where
  trained : Bool
  disabled : Bool
  farPeer : Nat
  farPort : Nat
  retrains : Nat
  txSeq : BitVec 12
  rxSeq : BitVec 12
  txCtr : Word
  rxCtr : Word
  replay : List (BitVec 12 × Load)     -- flits sent and not acknowledged, by sequence number, oldest first
  resend : Nat                         -- how many of the youngest of them are to be sent again
  queue : List Load                    -- the flits that wait for a slot, oldest first
  arriving : List Instr                -- messages that the far end's flits bring and that have not arrived yet, in their order
  badRun : Nat
  nakOut : Option (BitVec 12)
  keyEpoch : Nat
  txKey : Nat
  rxKey : Nat
  salt : BitVec 32
  last : Option Flit                   -- the flit in the slot transmitted last
  deriving DecidableEq, Repr

/-- Requests that a router has made one (R290): their kind (0 ATOM.add, 1 CADD, 2 weight returns), the address or the tile, the width, and of
each the package, core, context, result register and addend. -/
structure Combination where
  kind : Nat
  key : Nat
  wide : Bool
  reqs : List (Nat × Nat × Nat × Nat × Word)
  deriving DecidableEq, Repr

/-- A firmware bank (R334): `image` is none for the image that the part came with. -/
structure Bank where
  valid : Bool
  version : Nat
  rollback : Nat
  image : Option (List Byte)
  deriving DecidableEq, Repr

/-- The algorithms of attestation, each negotiated as a vendor-defined one (R335). -/
inductive SpdmAlgorithm where
  | mlDsa44 | sha3 | mlKem768
  deriving DecidableEq, Repr

/-- One admin completion (R332). -/
structure Completion where
  id : Nat
  status : Nat
  result : Word
  deriving DecidableEq, Repr

/-- How a slot left the bundle in issue (model's own): it took effect; it raised a precise trap; it holds the bundle at step 4 of
R104; it blocks the bundle at step 5. A bundle that the scoreboard holds for a result of fixed latency is stalled (R98). -/
inductive Status where
  | ok | trapped | held | blocked | stalled
  deriving DecidableEq, Repr

/-- The bundle in issue (model's own): who issues, the slot, the header's scope, whether an access to the local store follows in slot 3, whether an
earlier acquire of the context is unperformed and whether any earlier access is (R278), the operands latched at step 1 of R102, the bytes
tags and full bits of the local store as they stood before the bundle (R103), how the slot ended, the precise trap it raised, and what
takes effect after the bundle: a control transfer, a return from the handler, a system-register write that only later bundles see
(R136); the trace events of its slots, in order (R338). -/
structure Issue where
  core : Nat
  ctx : Nat
  slot : Nat
  scope : BitVec 3
  followed : Bool
  acquiring : Bool
  accessing : Bool
  regs : Regs
  mask : BitVec 8
  ls : Tab Byte
  tags : Tab Bool
  full : Tab Bool
  status : Status
  trap : Option TrapInfo
  target : Option Word
  eret : Bool
  wrsr : Option (BitVec 12 × Word)
  notes : List (Nat × Word)
  deriving DecidableEq, Repr

/-- The whole package. -/
structure State where
  peer : BitVec 14
  cycle : Nat
  ticks : Nat                          -- TIME.dom in parts of 1/360360 tick
  mhz : Nat
  cores : Tab Core                     -- not listed: Core.reset
  courseBars : Tab Barrier             -- by 8 * course of the package + unit
  mem : List Host.Cell                 -- by physical address; not listed: 0
  tags : Tab Bool                      -- by PA / 8
  poison : Tab Bool                    -- by PA / 32
  spans : Tab Span                     -- by 4096 * die + index; not listed: all zero, V = 0
  tiles : Tab Desc                     -- by 2^24 * die + index; not listed: L = 0
  oldBlocks : List (Nat × Nat)         -- storage moved away from but still read: first and last byte (R65)
  slips : Tab (BitVec 8 × Nat)         -- SR_SLIP by die: core and count
  ecc : Tab (BitVec 32)                -- error counters: 2 * (4 * tier + die), +1 for uncorrected
  dir : Tab DirState                   -- by line
  halves : Tab HalfState               -- by 2 * line + half
  incOwn : Tab Bool                    -- incarnation bit of an agent
  incHome : Tab Bool                   -- the bit a home expects: 128 * agent + slice
  snaps : Tab Snap                     -- live registers
  snapGen : BitVec 32
  shadows : List Shadow
  homeWait : List Instr                -- messages that wait at their home, oldest first (R263, R270; model's own)
  homeServes : Bool                    -- model's own: the event that runs now is one that has waited
  reserves : List (Nat × Nat)          -- model's own: lines that homes keep for a context of a peer between a check and its access (R157)
  refillAsked : List (BitVec 40)       -- refills of tiles homed elsewhere that homes have asked for (R51)
  refillHeld : List (BitVec 40)        -- refills that have come for homes and are not used yet
  scaleUses : Tab Nat                  -- by tile: the tiles of any package that hold it as their scale (R46); not listed: 0
  entryAge : List Nat                  -- lines with a directory entry, oldest entry first (R256)
  leasemax : BitVec 10
  fwLen : BitVec 8
  fwEn : Bool
  fwShare : BitVec 7
  slots : Tab QSlot
  partition : Tab Bool
  exports : Tab Word
  cabling : Tab Word
  population : Tab Bool
  disabledPeers : Tab Bool
  disabledCores : Tab Bool             -- cores of the package that are disabled (R299); not listed: enabled
  resTail : BitVec 16
  resHead : BitVec 16
  resRing : Tab (Nat × Nat × Nat × Nat)  -- launch, asid, die mask, address
  resHeld : List (Nat × Nat × Nat × Nat) -- residency requests held while the ring is full (R309), oldest first
  launches : List Launch
  nextLaunch : Nat
  slotTurn : Nat                       -- the queue slot that the round of reads comes to next (R308)
  frontAsked : Option Nat              -- the bytes of a peer that the front end has asked for, by package and address (R299; model's own)
  frontGot : List (Nat × List Word)    -- those that it has read for the packet at hand, no words where the peer refused them
  agree : List Agree
  heard : List Heard                   -- the ABORTs of this cycle that the table has no place for (R241; model's own)
  links : Tab Link
  timeLocked : Bool
  timeJoined : Bool                    -- it has taken the step of a package that joins the domain (R293)
  timeOffset : Int                     -- estimate, in parts of 1/360360 tick; positive while the time source is ahead
  offered : BitVec 128
  accepted : Option (BitVec 128)
  featuresTried : Bool                 -- a FEATURES has been answered since the reset (R331)
  adminBase : Nat                      -- host address of the admin ring (R332)
  adminTail : BitVec 24
  adminHead : BitVec 24
  completions : List Completion
  msix : Tab Bool
  powerCap : Nat
  overCap : Bool
  banks : Tab Bank
  bank : Nat
  nextBank : Nat
  fusedRollback : Nat
  resets : Nat
  refusedFlags : BitVec 32
  skippedRecords : BitVec 32
  doubleFaults : BitVec 32
  badDoorbells : BitVec 32
  hostMem : Tab Byte                   -- host buffers written by admin commands (R332)
  mailbox : List Byte                  -- the latest SPDM answer (R335)
  spdm : List Nat                      -- codes of the SPDM requests answered since the last GET_VERSION (R335)
  algorithms : List SpdmAlgorithm      -- what has been negotiated since then (R335)
  combined : List Combination          -- what this router has combined and no reply has come for (R290)
  outbox : List (Nat × Instr)          -- model's own: messages to other packages, as the event each causes there; oldest first
  routed : Nat                         -- model's own: how many of them have taken their route (R288)
  turn : Nat                           -- model's own: the core examined next
  eventNext : Bool                     -- model's own: the next step takes an event of the agenda, when there is one
  iss : Issue                          -- model's own
  agenda : List Instr                  -- model's own: the events that come next, oldest first
  freeUse : Nat                        -- model's own: free values used so far (Config)
  deriving DecidableEq, Repr

/-! ### How a step can stop -/

/-- Why the machine stops. -/
inductive Fault where
  /-- An access to a physical address that names no frame (R30). Raised by LAUNCH and LAUNCH_PACKET_READ for a ring whose base firmware
  has set there; no translation of R39 gives such an address, because SPLOAD rejects it (R37). Safe. -/
  | noFrame (pa : Nat)
  deriving DecidableEq, Repr

/-- Why a step has no meaning. -/
inductive Refusal where
  /-- An instruction that has no meaning yet, by its mnemonic. Raised by Dispatch only. Safe. -/
  | notModelled (mnemonic : String)
  deriving DecidableEq, Repr

/-! ### Reset -/

def Regs.reset : Regs := ⟨[], [], [], [], []⟩

def Stop.none : Stop := ⟨false, false, false, false, false, false⟩

def Replies.none : Replies where
  asked := .none
  desc := .none
  unique := .none
  refill := false
  tile := .none
  probe := .none
  kept := .none
  block := 0
  va := 0
  got := []
  full := .none
  leased := .none
  line := .none

/-- A context after a device reset (R340) and, with the values of R304, at task start. No rule gives the vector flags a reset value: they are 0 (log
entry 109). -/
def Ctx.reset : Ctx where
  regs := Regs.reset
  pc := 0
  run := .idle
  task := none
  rank := 0
  nranks := 0
  argp := 0
  asid := 0
  lsbase := 0
  lslen := 0
  fflags := 0
  check := false
  nfmt := []
  tvecRec := 0
  tvecHandler := 0
  gstat := 0
  gtimeout := 0x01000000
  pair := none
  loops := []
  vflags := []
  openSet := []
  leases := []
  barGen := []
  cmdNo := 0
  handler := false
  handlerDepth := 0
  pending := []
  readyAt := 0
  yielded := false
  busy := []
  loads := []
  remote := []
  rposts := []
  drops := []
  reply := Replies.none
  late := []
  refills := []
  shadowWait := none
  stop := Stop.none
  faulted := none
  discarded := false
  feWait := []
  blocked := false
  lateFlags := []
  bundle := 0

/-- The firmware context after reset: firmware boots again (R340). Its address is not the spec's (log entry 3). -/
def Ctx.boot : Ctx := { Ctx.reset with run := .running }

/-- A core after reset: ctx3 is a firmware context, because SR_FW.en resets to 1 (R311, R312). -/
def Core.reset : Core where
  ctxs := [(3, Ctx.boot)]
  ls := []
  lsTags := []
  full := []
  barcfg := 0
  bars := []
  frames := []
  l1 := []
  heldProbes := []
  cmds := []
  nextSerial := 0
  enginePair := none
  arrivals := []
  strays := []
  pins := []
  frozen := none
  lastTask := 0
  sinceFw := 0
  saved := []
  savedDrops := []
  copyTurn := 0
  fwOld := none
  gated := false
  capGated := false
  idleSince := none
  trace := []
  traceState := .armed
  traceBuf := []

def Issue.reset : Issue where
  core := 0
  ctx := 3
  slot := 0
  scope := 1
  followed := false
  acquiring := false
  accessing := false
  regs := Regs.reset
  mask := 0
  ls := []
  tags := []
  full := []
  status := .ok
  trap := none
  target := none
  eret := false
  wrsr := none
  notes := []

/-- The machine right after reset (R6, R340). The values the spec does not give are those of the assumption log. -/
def State.reset : State where
  peer := 0
  cycle := 0
  ticks := 0
  mhz := 1750
  cores := []
  courseBars := []
  mem := []
  tags := []
  poison := []
  spans := []
  tiles := []
  oldBlocks := []
  slips := []
  ecc := []
  dir := []
  halves := []
  incOwn := []
  incHome := []
  snaps := []
  snapGen := 0
  shadows := []
  homeWait := []
  homeServes := false
  reserves := []
  refillAsked := []
  refillHeld := []
  scaleUses := []
  entryAge := []
  leasemax := 0x200
  fwLen := 0x10
  fwEn := true
  fwShare := 16
  slots := []
  partition := []
  exports := []
  cabling := []
  population := []
  disabledPeers := []
  disabledCores := []
  resTail := 0
  resHead := 0
  resRing := []
  resHeld := []
  launches := []
  nextLaunch := 1
  slotTurn := 0
  frontAsked := none
  frontGot := []
  agree := []
  heard := []
  links := []
  timeLocked := false
  timeJoined := false
  timeOffset := 0
  offered := 0x1F
  accepted := none
  featuresTried := false
  adminBase := 0
  adminTail := 0
  adminHead := 0
  completions := []
  msix := []
  powerCap := 1900
  overCap := false
  banks := [(0, ⟨true, 0, 0, none⟩)]
  bank := 0
  nextBank := 0
  fusedRollback := 0
  resets := 0
  refusedFlags := 0
  skippedRecords := 0
  doubleFaults := 0
  badDoorbells := 0
  hostMem := []
  mailbox := []
  spdm := []
  algorithms := []
  combined := []
  outbox := []
  routed := 0
  turn := 0
  eventNext := false
  iss := Issue.reset
  agenda := []
  freeUse := 0

end Sys2Proof.Machine
end

