-- ==== Sys2Proof/Machine/Access.lean ====
section
/-! DEFINITION. Reading and writing the fields of the state: cores, contexts, the operands and results of the bundle in issue. -/

namespace Sys2Proof.Machine

/-- The 8-bit code of a trap cause (R316). -/
def Cause.code : Cause → BitVec 8
  | .illegalOp => 0x01 | .bundleConflict => 0x02 | .stallShort => 0x03 | .pcAlign => 0x04 | .privOp => 0x05 | .privSr => 0x06
  | .srUndef => 0x07 | .swTrap => 0x08 | .loopBad => 0x09 | .loopDepth => 0x0A | .flagRange => 0x0B | .doubleFault => 0x0C
  | .misalign => 0x10 | .spanMiss => 0x11 | .spanBad => 0x12 | .pageClass => 0x13 | .peerAbsent => 0x14 | .peerDenied => 0x15
  | .remoteDenied => 0x16 | .rpostDenied => 0x17 | .memUncorr => 0x18 | .spinvSnap => 0x19 | .rejoinState => 0x1A
  | .ctxRunning => 0x1B | .launchAlign => 0x1C | .launchQueue => 0x1D | .leaseBad => 0x20 | .leaseRemote => 0x21
  | .leaseDepth => 0x22 | .snapBad => 0x23 | .snapOverlap => 0x24 | .snapDepth => 0x25 | .snapNoreg => 0x26
  | .snapOrder => 0x27 | .snapFull => 0x28 | .feTimeout => 0x29 | .kvMiss => 0x2A | .handleInvalid => 0x30
  | .handleLive => 0x31 | .handleClobber => 0x32 | .handleUntagged => 0x33 | .tileOpen => 0x34 | .tileState => 0x35
  | .tileShape => 0x36 | .tileIndex => 0x37 | .tileNospace => 0x38 | .tileTarget => 0x39 | .tileRemote => 0x3A
  | .openDepth => 0x3B | .sliceFull => 0x3C | .formatInvalid => 0x40 | .formatMismatch => 0x41 | .formatPair => 0x42
  | .regionBad => 0x43 | .regionAlign => 0x44 | .regionOverlap => 0x45 | .indexRange => 0x46 | .twidBad => 0x47
  | .gmmaBad => 0x48 | .freezeTimeout => 0x49 | .copyAlign => 0x4A | .copyBad => 0x4B | .copyDestDenied => 0x4C

/-! ### Cores and contexts -/

def State.core (s : State) (c : Nat) : Core := s.cores.get Core.reset c

def State.modCore (s : State) (c : Nat) (f : Core → Core) : State := { s with cores := s.cores.put c (f (s.core c)) }

def Core.ctx (k : Core) (x : Nat) : Ctx := k.ctxs.get Ctx.reset x

def Core.modCtx (k : Core) (x : Nat) (f : Ctx → Ctx) : Core := { k with ctxs := k.ctxs.put x (f (k.ctx x)) }

def State.ctx (s : State) (c x : Nat) : Ctx := (s.core c).ctx x

def State.modCtx (s : State) (c x : Nat) (f : Ctx → Ctx) : State := s.modCore c (fun k => k.modCtx x f)

/-- The core and the context of the bundle in issue. -/
def State.myCore (s : State) : Core := s.core s.iss.core
def State.me (s : State) : Ctx := s.ctx s.iss.core s.iss.ctx
def State.modMyCore (s : State) (f : Core → Core) : State := s.modCore s.iss.core f
def State.modMe (s : State) (f : Ctx → Ctx) : State := s.modCtx s.iss.core s.iss.ctx f

/-- Die, course within the package and seat of a core (R10). -/
def dieOf (core : Nat) : Nat := core / 64 % 4
def courseOf (core : Nat) : Nat := core / 8 % 32

/-- SR_FW.en and SR_FW.fwlen as they stand on a core (R311). -/
def State.fwOn (s : State) (c : Nat) : Bool × BitVec 8 := (s.core c).fwOld.getD (s.fwEn, s.fwLen)

/-- A context is a firmware context: ctx3 of every core while SR_FW.en = 1, of core 0 alone otherwise (R312). -/
def State.isFirmware (s : State) (c x : Nat) : Bool := x == 3 && ((s.fwOn c).1 || c == 0)

/-- SR_COREID of a context (R10). -/
def State.coreId (s : State) (c x : Nat) : Word :=
  BitVec.ofNat 64 (s.peer.toNat * 2 ^ 24 + x % 4 * 256 + c % 256)

/-- TIME.dom: whole ticks of the time-stamp (R135). -/
def State.timeDom (s : State) : Word := BitVec.ofNat 64 (s.ticks / 360360)

/-- The package is the time source (R293): no enabled package of the domain has a lower number. -/
def State.timeSource (s : State) : Bool :=
  !((List.range s.peer.toNat).any fun p => s.population.get false p && !s.disabledPeers.get false p)

/-- An estimated offset, in parts of 1/360360 tick, is within 4 ns: the package is locked (R293). -/
def lockedAt (offset : Int) : Bool := decide (offset.natAbs ≤ 4 * 360360)

/-- `n` cycles pass: the time-stamp advances by 8/k ns a cycle at a clock of k steps of 125 MHz, k from 7 to 14 (R4, R339); `ticks`
counts in parts of 1/360360 ns, so every such clock divides exactly. A package whose estimated offset is not zero corrects its rate by at
most 1 in 1,024 (R293); by how much is not given: a free value. -/
def State.elapse (s : State) (n : Nat) : State :=
  let base := n * (2882880 / (s.mhz / 125))
  if s.timeOffset = 0 then { s with cycle := s.cycle + n, ticks := s.ticks + base }
  else
    let adj := Nat.min (Config.freeNat s.freeUse % (base / 1024 + 1)) s.timeOffset.natAbs
    let (ticks, offset) : Nat × Int :=
      if 0 < s.timeOffset then (s.ticks + base + adj, s.timeOffset - (adj : Int)) else (s.ticks + base - adj, s.timeOffset + (adj : Int))
    { s with
      cycle := s.cycle + n, ticks := ticks, timeOffset := offset, timeLocked := s.timeLocked || (s.timeJoined && lockedAt offset)
      freeUse := s.freeUse + 1 }

/-- The stage mask that p8 to p15 read (R116). -/
def Ctx.mask (x : Ctx) : BitVec 8 := match x.loops with
  | [] => 0
  | l :: _ => l.mask

/-- The number of a home as the sender of a message to an L1; its incarnation bit never changes (R257, R267). -/
def homeAgent : Nat := 257

/-! ### Operands latched at the start of the bundle (R102 step 1) -/

def State.opA (s : State) (n : BitVec 5) : Word := if n = 0 then 0 else s.iss.regs.a.get 0 n.toNat
def State.opB (s : State) (n : BitVec 5) : Word := if n = 0 then 0 else s.iss.regs.b.get 0 n.toNat

/-- A register of the slot's cluster: the a file in slots 0 and 1, the b file in slots 2 and 3 (R92, R112). -/
def State.opX (s : State) (n : BitVec 5) : Word := if s.iss.slot < 2 then s.opA n else s.opB n

/-- A predicate: p0 is true, p8 to p15 read the stage mask (R79, R116). -/
def State.opP (s : State) (n : BitVec 4) : Bool :=
  if n = 0 then true else if n.toNat < 8 then s.iss.regs.p.get false n.toNat else s.iss.mask.getLsbD (n.toNat - 8)

def State.opH (s : State) (n : BitVec 6) : Option Handle := s.iss.regs.h.look n.toNat

def State.opQ (s : State) (n : BitVec 4) : Nat := (s.iss.regs.q.get 0 n.toNat).toNat

/-! ### Results (R102 step 2) -/

/-- Record a result that is readable `lat` cycles from now (R97): latency 1 is never observed. -/
def Ctx.mark (x : Ctx) (r : Reg) (ready lat : Nat) (cross : Bool) : Ctx :=
  { x with busy := (if lat ≤ 1 then [] else [⟨r, ready, cross⟩]) ++ x.busy.filter (fun b => b.reg != r) }

def Ctx.setA (x : Ctx) (n : Nat) (v : Word) : Ctx := { x with regs := { x.regs with a := x.regs.a.set 0 n v } }
def Ctx.setB (x : Ctx) (n : Nat) (v : Word) : Ctx := { x with regs := { x.regs with b := x.regs.b.set 0 n v } }
def Ctx.setP (x : Ctx) (n : Nat) (v : Bool) : Ctx := { x with regs := { x.regs with p := x.regs.p.set false n v } }
def Ctx.setQ (x : Ctx) (n v : Nat) : Ctx := { x with regs := { x.regs with q := x.regs.q.set 0 n (BitVec.ofNat 16 v) } }
def Ctx.setH (x : Ctx) (n : Nat) (v : Option Handle) : Ctx :=
  { x with regs := { x.regs with h := match v with | none => x.regs.h.del n | some hd => x.regs.h.put n hd } }

/-- Write an a register; a write to a0 is discarded (R79). -/
def State.wrA (s : State) (n : BitVec 5) (v : Word) (lat : Nat) (cross : Bool := false) : State :=
  if n = 0 then s else s.modMe fun x => (x.setA n.toNat v).mark (.a n.toNat) (s.cycle + lat) lat cross

/-- Write a b register; a write to b0 is discarded (R79). -/
def State.wrB (s : State) (n : BitVec 5) (v : Word) (lat : Nat) (cross : Bool := false) : State :=
  if n = 0 then s else s.modMe fun x => (x.setB n.toNat v).mark (.b n.toNat) (s.cycle + lat) lat cross

/-- Write a register of the slot's cluster. -/
def State.wrX (s : State) (n : BitVec 5) (v : Word) (lat : Nat) : State :=
  if s.iss.slot < 2 then s.wrA n v lat else s.wrB n v lat

/-- Write a predicate p1 to p7; the decoder admits no other destination (R79, R100). -/
def State.wrP (s : State) (n : BitVec 3) (v : Bool) (lat : Nat) : State :=
  if n = 0 then s else s.modMe fun x => (x.setP n.toNat v).mark (.p n.toNat) (s.cycle + lat) lat false

def State.wrH (s : State) (n : BitVec 6) (v : Option Handle) : State := s.modMe fun x => x.setH n.toNat v

def State.wrQ (s : State) (n : BitVec 4) (v : Nat) : State := s.modMe fun x => x.setQ n.toNat v

/-- An increment of a counting flag saturates at 0xFFFF (R79). -/
def satAdd16 (q v : Nat) : Nat := min (q + v) 0xFFFF

/-- Flags of a floating-point form: they are set in SR_FFLAGS, by OR, when its result becomes readable, `lat` cycles from now (R149). -/
def State.raise (s : State) (f : BitVec 5) (lat : Nat) : State :=
  s.modMe fun x => { x with lateFlags := x.lateFlags ++ [(f, s.cycle + lat)] }

/-- The flags whose cycle has come are set. -/
def Ctx.setFlags (x : Ctx) (cycle : Nat) : Ctx :=
  { x with
    fflags := x.lateFlags.foldl (fun f e => if e.2 ≤ cycle then f ||| e.1 else f) x.fflags
    lateFlags := x.lateFlags.filter fun e => decide (cycle < e.2) }

/-- Append events to the agenda. -/
def State.post (s : State) (es : List Instr) : State := { s with agenda := s.agenda ++ es }

/-- Send an event to another package. -/
def State.send (s : State) (peer : Nat) (e : Instr) : State := { s with outbox := s.outbox ++ [(peer, e)] }

/-- Deliver an event to a package: to the agenda when it is this one, to the fabric otherwise. -/
def State.deliver (s : State) (peer : Nat) (e : Instr) : State :=
  if peer = s.peer.toNat then s.post [e] else s.send peer e

/-! ### Handles (R45, R48) -/

def Handle.toWord (h : Handle) : Word :=
  BitVec.ofNat 64 (2 ^ 63 + (if h.fresh then 2 ^ 62 else 0) + h.e.toNat * 2 ^ 40 + h.tile.toNat)

def Handle.ofWord (w : Word) : Handle := ⟨w.getLsbD 62, BitVec.ofNat 5 (bits w 40 5), BitVec.ofNat 40 (bits w 0 40)⟩

/-- The weight 2^e of a handle (R47). -/
def weight (e : BitVec 5) : Nat := 2 ^ e.toNat

/-- Home package and home die of a tile identifier, and its key in this package's tile tables (R45). -/
def homePeer (t : BitVec 40) : Nat := t.toNat / 2 ^ 26
def homeDie (t : BitVec 40) : Nat := t.toNat / 2 ^ 24 % 4
def tileKey (t : BitVec 40) : Nat := t.toNat % 2 ^ 26

def State.isHome (s : State) (t : BitVec 40) : Bool := homePeer t == s.peer.toNat

def State.tileId (s : State) (key : Nat) : BitVec 40 := BitVec.ofNat 40 (s.peer.toNat * 2 ^ 26 + key)

/-- Descriptor of a tile homed here; none when it is free (L = 0) or homed elsewhere. -/
def State.desc (s : State) (t : BitVec 40) : Option Desc := if s.isHome t then s.tiles.look (tileKey t) else none

def State.setDesc (s : State) (t : BitVec 40) (d : Desc) : State := { s with tiles := s.tiles.put (tileKey t) d }

def State.modDesc (s : State) (t : BitVec 40) (f : Desc → Desc) : State :=
  match s.desc t with
  | none => s
  | some d => s.setDesc t (f d)

end Sys2Proof.Machine
end

