-- ==== Sys2Proof/Machine/Mem.lean ====
section
/-! DEFINITION. Memory: physical addresses, bytes, tags and poison marks; the local store; translation and page classes. -/

namespace Sys2Proof.Machine

/-- What a meaning does instead of going on (R104): a precise trap with its address field (for SW_TRAP, its code), a hold at step 4
until a reply, or a block at step 5; a hold or a block names the state to wait in, whose requests are on their way. -/
inductive Brk where
  | trap (c : Cause) (addr : Word)
  | hold (s : State)
  | block (s : State)
  deriving Repr

abbrev Eff (α : Type) := Except Brk α

/-- Raise a precise trap. -/
def trapIf (b : Bool) (c : Cause) (addr : Word := 0) : Eff Unit := if b then .error (.trap c addr) else .ok ()

/-- Block while a condition holds. -/
def blockIf (b : Bool) (s : State) : Eff Unit := if b then .error (.block s) else .ok ()

/-- Hold the bundle at step 4 while a condition holds. -/
def holdIf (b : Bool) (s : State) : Eff Unit := if b then .error (.hold s) else .ok ()

/-! ### Physical addresses (R30) -/

def paTier (pa : Nat) : Nat := pa / 2 ^ 43 % 4
def paDie (pa : Nat) : Nat := pa / 2 ^ 41 % 4
def paFrame (pa : Nat) : Nat := pa / 2 ^ 21 % 2 ^ 20
def mkPa (tier die frame off : Nat) : Nat := tier * 2 ^ 43 + die * 2 ^ 41 + frame * 2 ^ 21 + off

/-- The frame exists (R30). -/
def frameExists (tier die frame : Nat) : Bool :=
  match tier with
  | 0 => die == 0 && frame < 262144
  | 1 => frame < 17166
  | 2 => frame < 64
  | _ => die == 0 && frame < 1048576

/-- The frame is reserved for the device (R30). -/
def frameReserved (tier frame : Nat) : Bool :=
  (tier == 0 && 262080 ≤ frame) || (tier == 1 && 16640 ≤ frame)

/-- A physical address that names an existing frame. -/
def paExists (pa : Nat) : Bool := pa < 2 ^ 45 && frameExists (paTier pa) (paDie pa) (paFrame pa)

/-- The hub control space, frame 262,143 of far memory (R309). -/
def isHubSpace (pa : Nat) : Bool := paTier pa == 0 && paFrame pa == 262143

/-! ### Bytes, tags and marks -/

/-- Little-endian value of bytes, lowest address first (R3). -/
def ofBytes : List Byte → Nat
  | [] => 0
  | b :: r => b.toNat + 256 * ofBytes r

/-- The `n` little-endian bytes of a value. -/
def toBytes : Nat → Nat → List Byte
  | 0, _ => []
  | n + 1, v => BitVec.ofNat 8 v :: toBytes n (v / 256)

def lineOf (pa : Nat) : Nat := pa / 128

/-- The slice that homes a line (R256). -/
def homeSlice (line : Nat) : Nat :=
  let pa := line * 128
  let h := if paTier pa = 1 then paDie pa else pa / 2 ^ 17 % 4
  32 * h + ((pa / 2 ^ 7 % 32) ^^^ (pa / 2 ^ 12 % 32))

/-- Home die of a line, in whose pool its shadows lie (R273). -/
def lineDie (line : Nat) : Nat := homeSlice line / 32

/-- A byte of a die's shadow pool, by its offset in the pool's eight frames (R273): the shadows of a frame, then their tag bits, two bytes
each. A place that holds no shadow shows 0 (log entry 80). -/
def State.poolByte (s : State) (die off : Nat) : Byte :=
  let o := off % 2 ^ 21
  let byTags := decide (2064384 ≤ o)
  let slot := 16128 * (off / 2 ^ 21) + if byTags then (o - 2064384) / 2 else o / 128
  match if o < 2096640 then s.shadows.find? (fun h => h.slot == slot && lineDie h.line == die) else none with
  | none => 0
  | some h =>
    if byTags then BitVec.ofNat 8 ((List.range 8).foldl (fun n k => n + if h.tags.getD (8 * (o % 2) + k) false then 2 ^ k else 0) 0)
    else h.bytes.getD (o % 128) 0

/-- A descriptor's 64-bit word `k` (R46). -/
def Desc.word (d : Desc) (k : Nat) : Word :=
  match k with
  | 0 => BitVec.ofNat 64 (d.fword.toNat * 2 ^ 48 + d.layout.toNat * 2 ^ 46 + d.cols.toNat * 2 ^ 32 + d.rows.toNat * 2 ^ 18
      + (if d.moving then 16 else 0) + (if d.isScale then 8 else 0) + (if d.opened then 4 else 0) + (if d.sealed then 2 else 0) + 1)
  | 1 => d.storage.setWidth 64
  | 2 => d.total
  | 3 => d.returned
  | 4 => match d.scale with | none => 0 | some h => h.toWord
  | 5 => BitVec.ofNat 64 (d.pitch.toNat * 2 ^ 32 + d.blocks.toNat)
  | 6 => d.born
  | _ => 0

/-- The canonical form of memory: addresses strictly rising, no entry equal to 0, which a byte that is not listed reads as (log entry 1). -/
def Memory.wf (m : List Host.Cell) : Bool := Tab.wf (0 : Byte) m

/-- The frames that show the tile table (R46), and those that show the shadow pool (R273). -/
def isTileTable (pa : Nat) : Bool := paTier pa == 1 && decide (16640 ≤ paFrame pa) && decide (paFrame pa < 17152)
def isShadowPool (pa : Nat) : Bool := paTier pa == 1 && decide (17152 ≤ paFrame pa) && decide (paFrame pa < 17160)

/-- A byte of a die's tile table, by its offset in the table's frames. -/
def State.tableByte (s : State) (die off : Nat) : Byte :=
  match s.tiles.look (die * 2 ^ 24 + off / 64) with
  | none => 0
  | some d => BitVec.ofNat 8 ((d.word (off % 64 / 8)).toNat / 256 ^ (off % 8))

/-- The byte at a physical address. The tile table's frames show the descriptors (R46), the pool's frames the shadows (R273); a byte
nothing has written reads 0 (log entry 1). -/
def State.byte (s : State) (pa : Nat) : Byte :=
  if isTileTable pa then s.tableByte (paDie pa) ((paFrame pa - 16640) * 2 ^ 21 + pa % 2 ^ 21)
  else if isShadowPool pa then s.poolByte (paDie pa) ((paFrame pa - 17152) * 2 ^ 21 + pa % 2 ^ 21)
  else Tab.get s.mem 0 pa

def State.setByte (s : State) (pa : Nat) (v : Byte) : State := { s with mem := Tab.set s.mem 0 pa v }

def State.readBytes (s : State) (pa n : Nat) : List Byte := (List.range n).map fun i => s.byte (pa + i)

def State.writeBytes (s : State) : Nat → List Byte → State
  | _, [] => s
  | pa, b :: r => (s.setByte pa b).writeBytes (pa + 1) r

def State.readNat (s : State) (pa n : Nat) : Nat := ofBytes (s.readBytes pa n)

def State.writeNat (s : State) (pa n v : Nat) : State := s.writeBytes pa (toBytes n v)

def State.tag (s : State) (pa : Nat) : Bool := s.tags.get false (pa / 8)

def State.setTag (s : State) (pa : Nat) (t : Bool) : State := { s with tags := s.tags.set false (pa / 8) t }

/-- Some word of the range is tagged. -/
def State.anyTag (s : State) (pa n : Nat) : Bool := s.tags.any fun e => e.2 && decide (pa / 8 ≤ e.1 ∧ e.1 * 8 < pa + n)

def State.poisoned (s : State) (pa n : Nat) : Bool := s.poison.any fun e => e.2 && decide (pa / 32 ≤ e.1 ∧ e.1 * 32 < pa + n)

def State.setPoison (s : State) (unit : Nat) (m : Bool) : State := { s with poison := s.poison.set false unit m }

/-- Write a range as one write: a unit that the write covers wholly loses its mark (R32). -/
def State.writeRange (s : State) (pa : Nat) (bs : List Byte) : State :=
  let s' := s.writeBytes pa bs
  { s' with poison := s'.poison.filter fun e => !decide (pa ≤ e.1 * 32 ∧ e.1 * 32 + 32 ≤ pa + bs.length) }

/-- A tagged handle word in memory (R48, R54). -/
def State.writeHandle (s : State) (pa : Nat) (h : Handle) : State := (s.writeNat pa 8 h.toWord.toNat).setTag pa true

def State.readHandle (s : State) (pa : Nat) : Handle := Handle.ofWord (BitVec.ofNat 64 (s.readNat pa 8))

/-- Zero and untag a word. -/
def State.clearWord (s : State) (pa : Nat) : State := (s.writeNat pa 8 0).setTag pa false

/-! ### The local store (R73, R74) -/

def Ctx.winBase (x : Ctx) : Nat := x.lsbase.toNat * 4096
def Ctx.winLen (x : Ctx) : Nat := x.lslen.toNat * 4096

def Core.lsByte (k : Core) (o : Nat) : Byte := k.ls.get 0 o

def Core.lsRead (k : Core) (o n : Nat) : Nat := ofBytes ((List.range n).map fun i => k.lsByte (o + i))

def Core.lsSet (k : Core) (o : Nat) (v : Byte) : Core := { k with ls := k.ls.set 0 o v }

def Core.lsWriteBytes (k : Core) : Nat → List Byte → Core
  | _, [] => k
  | o, b :: r => (k.lsSet o b).lsWriteBytes (o + 1) r

def Core.lsWrite (k : Core) (o n v : Nat) : Core := k.lsWriteBytes o (toBytes n v)

def Core.lsTag (k : Core) (o : Nat) : Bool := k.lsTags.get false (o / 8)

def Core.lsSetTag (k : Core) (o : Nat) (t : Bool) : Core := { k with lsTags := k.lsTags.set false (o / 8) t }

def Core.lsAnyTag (k : Core) (o n : Nat) : Bool := k.lsTags.any fun e => e.2 && decide (o / 8 ≤ e.1 ∧ e.1 * 8 < o + n)

/-- The full bit of the granule that holds a byte. -/
def Core.isFull (k : Core) (o : Nat) : Bool := k.full.get false (o / 16)

def Core.setFull (k : Core) (o : Nat) (f : Bool) : Core := { k with full := k.full.set false (o / 16) f }

/-- Set the full bits of every granule a range touches. -/
def Core.fillRange (k : Core) (o n : Nat) : Core :=
  if n = 0 then k else (List.range ((o + n - 1) / 16 - o / 16 + 1)).foldl (fun k i => k.setFull ((o / 16 + i) * 16) true) k

/-- Clear a window: every byte zero, untagged, empty (R74). -/
def Core.clearWindow (k : Core) (base len : Nat) : Core :=
  { k with
    ls := k.ls.filter fun e => !decide (base ≤ e.1 ∧ e.1 < base + len)
    lsTags := k.lsTags.filter fun e => !decide (base ≤ e.1 * 8 ∧ e.1 * 8 < base + len)
    full := k.full.filter fun e => !decide (base ≤ e.1 * 16 ∧ e.1 * 16 < base + len) }

/-! ### Translation (R33, R34, R39, R40, R342) -/

/-- A peer that is absent to this package (R342): its own number never is. -/
def State.peerAbsent (s : State) (p : Nat) : Bool :=
  p != s.peer.toNat &&
    (decide (Config.lastBond < p / 8) || !s.population.get false p || s.disabledPeers.get false p)

/-- A peer of the same tenant (R289); the package itself is of its own tenant. -/
def State.peerAllowed (s : State) (p : Nat) : Bool := p == s.peer.toNat || s.partition.get false p

/-- What an access does, for the class check of R33. -/
inductive Access where
  | fetch | load | store | copyRead | copyWrite | unlease
  deriving DecidableEq, Repr

/-- R33's table. UNLEASE is not checked (R165). -/
def Access.allowed : Access → PageClass → Bool
  | .fetch, .code => true
  | .load, .mortar => true
  | .load, .code => true
  | .store, .mortar => true
  | .copyRead, _ => true
  | .copyWrite, .mortar => true
  | .unlease, _ => true
  | _, _ => false

/-- The result of a translation. -/
structure Xlat where
  mode : SpanMode
  peer : BitVec 14
  cls : PageClass
  pa : Nat
  deriving DecidableEq, Repr

/-- The address lies in the context's residency lease; a firmware context holds none and is not bound (R303, R312). -/
def State.leased (s : State) (c x : Nat) (va : Nat) : Bool :=
  s.isFirmware c x ||
    (match (s.ctx c x).task with
      | none => false
      | some t => t.lease.any fun e => decide (e.1 ≤ va ∧ va < e.1 + e.2))

/-- The frame-buffer entry for an address: a hit in the core's frame buffer, or else the die's span table (R39, R40). -/
def State.lookup (s : State) (c x : Nat) (va : Nat) : Except Cause FrameEntry :=
  if 2 ^ 40 ≤ va then .error .spanMiss else
  let asid := (s.ctx c x).asid
  let sp := va / 2 ^ 28 % 4096
  let sl := va / 2 ^ 21 % 128
  let hit := (s.core c).frames.find? fun f => f.asid == asid && f.span == sp && f.slot == sl
  let ent : Option (SpanMode × BitVec 14 × Option Slot) :=
    match hit with
    | some f => some (f.mode, f.peer, some f.place)
    | none =>
      match s.spans.look (4096 * dieOf c + sp) with
      | none => none
      | some e => if e.valid && e.asid == asid then some (e.mode, e.peer, e.slots.look sl) else none
  match ent with
  | none => .error .spanMiss
  | some (mode, peer, slot) =>
    if !s.leased c x va then .error .spanMiss
    else if mode ≠ .localWin ∧ s.peerAbsent peer.toNat then .error .peerAbsent
    else if mode ≠ .localWin ∧ !s.peerAllowed peer.toNat then .error .peerDenied
    else match slot with
      | none => .error .spanMiss
      | some f => .ok ⟨asid, sp, sl, mode, peer, f⟩

/-- Translate and check the class (R33, R39). -/
def State.translate (s : State) (c x : Nat) (a : Access) (va : Nat) : Except Cause (Xlat × FrameEntry) :=
  match s.lookup c x va with
  | .error e => .error e
  | .ok f =>
    if a.allowed f.place.cls then .ok (⟨f.mode, f.peer, f.place.cls, mkPa f.place.tier f.place.die f.place.frame (va % 2 ^ 21)⟩, f)
    else .error .pageClass

/-- Keep a translation in the core's frame buffer; the oldest of 16 entries makes room (R40, log entry 10). -/
def Core.keepFrame (k : Core) (f : FrameEntry) : Core :=
  if k.frames.contains f then k
  else { k with frames := (if 16 ≤ k.frames.length then k.frames.drop 1 else k.frames) ++ [f] }

/-- A scalar access's translation, precise at the bundle, with the frame buffer it leaves. -/
def xlate (a : Access) (va : Word) (s : State) : Eff (Xlat × State) :=
  match s.translate s.iss.core s.iss.ctx a va.toNat with
  | .error c => .error (.trap c va)
  | .ok (t, f) => .ok (t, s.modMyCore fun k => k.keepFrame f)

end Sys2Proof.Machine
end

