-- ==== Sys2Proof/Machine/Weight.lean ====
section
/-! DEFINITION. Tiles as values: elements in storage (R20, R173), weight and its events (R47 to R60), allocation (R45, R63, R173),
drops (R55). -/

namespace Sys2Proof.Machine

/-! ### Elements in bytes (R20, R75): positions count half bytes -/

def elemAt (f : Nat → Byte) (x : Elem) (pos : Nat) : Nat :=
  if x.nibbles = 1 then (f (pos / 2)).toNat / 16 ^ (pos % 2) % 16
  else ofBytes ((List.range (x.nibbles / 2)).map fun k => f (pos / 2 + k)) % 2 ^ x.width

/-- The bytes that hold an element of value `v` once it is written, with their addresses. -/
def elemBytes (f : Nat → Byte) (x : Elem) (pos v : Nat) : List (Nat × Byte) :=
  if x.nibbles = 1 then
    let old := (f (pos / 2)).toNat
    [(pos / 2, BitVec.ofNat 8 (if pos % 2 = 0 then old / 16 * 16 + v % 16 else v % 16 * 16 + old % 16))]
  else
    let bs := toBytes (x.nibbles / 2) (v % 2 ^ x.width)
    (List.range bs.length).map fun k => (pos / 2 + k, bs.getD k 0)

/-! ### Geometry of a tile (R173) -/

/-- The element format of a tile; creation admits none that R16 calls invalid. -/
def Desc.elem (d : Desc) : Option Elem := elemOf d.fword

def roundUp (n k : Nat) : Nat := (n + k - 1) / k * k

/-- Pitch and total bytes for a layout, rows and columns minus one, and an element size in half bytes. -/
def geometry (layout rows cols nib : Nat) : Nat × Nat :=
  match layout with
  | 0 => let p := roundUp (((cols + 1) * nib + 1) / 2) 16; (p, (rows + 1) * p)
  | 1 => let p := roundUp (((rows + 1) * nib + 1) / 2) 16; (p, (cols + 1) * p)
  | _ => (0, ((rows + 32) / 32) * ((cols + 64) / 64) * (1024 * nib))

/-- Position of element (i, j), in half bytes from the start of the storage. -/
def Desc.pos (d : Desc) (nib i j : Nat) : Nat :=
  match d.layout.toNat with
  | 0 => 2 * (i * d.pitch.toNat) + j * nib
  | 1 => 2 * (j * d.pitch.toNat) + i * nib
  | _ => (i / 32 * ((d.cols.toNat + 64) / 64) + j / 64) * (2048 * nib) + (i % 32 * 64 + j % 64) * nib

/-- Elements of a tile. -/
def Desc.count (d : Desc) : Nat := (d.rows.toNat + 1) * (d.cols.toNat + 1)

def Desc.bytes (d : Desc) : Nat := d.blocks.toNat * 256

/-- Element (i, j) of a tile homed here. -/
def State.tileElem (s : State) (d : Desc) (i j : Nat) : Nat :=
  match d.elem with
  | none => 0
  | some x => elemAt (fun k => s.byte (d.storage.toNat + k)) x (d.pos x.nibbles i j)

/-- Write the element of row-major index `n`. -/
def State.setTileElem (s : State) (d : Desc) (n v : Nat) : State :=
  match d.elem with
  | none => s
  | some x =>
    let i := n / (d.cols.toNat + 1)
    let j := n % (d.cols.toNat + 1)
    (elemBytes (fun k => s.byte (d.storage.toNat + k)) x (d.pos x.nibbles i j) v).foldl
      (fun s e => s.setByte (d.storage.toNat + e.1) e.2) s

/-- The element of row-major index `n` lies in a poisoned unit (R181). -/
def State.elemPoisoned (s : State) (d : Desc) (n : Nat) : Bool :=
  match d.elem with
  | none => false
  | some x =>
    let p := d.pos x.nibbles (n / (d.cols.toNat + 1)) (n % (d.cols.toNat + 1))
    s.poisoned (d.storage.toNat + p / 2) ((x.nibbles + 1) / 2)

/-! ### Weight at the home (R50, R51, R60) -/

/-- Keep `returned` below 2^62 by taking a multiple of 2^32 from both counts (R51). -/
def Desc.normal (d : Desc) : Desc :=
  if 2 ^ 62 ≤ d.returned.toNat then
    let k := BitVec.ofNat 64 (d.returned.toNat / 2 ^ 32 * 2 ^ 32)
    { d with total := d.total - k, returned := d.returned - k }
  else d

/-- The core number that a drop made by a home itself carries: no core waits for its acknowledgement (R55). -/
def noCore : Nat := 256

/-- A drop made by a home: it leaves at once (R55). -/
def State.homeDrop (s : State) (h : Handle) : State :=
  s.deliver (homePeer h.tile) (.dropArrival h.tile h.e s.peer.toNat noCore 0)

/-- Tiles of any package gain or lose a tile homed here as their scale: X says whether there is one (R46). -/
def State.countScale (s : State) (t : BitVec 40) (f : Nat → Nat) : State :=
  let n := f (s.scaleUses.get 0 (tileKey t))
  ({ s with scaleUses := s.scaleUses.set 0 (tileKey t) n }).modDesc t fun d => { d with isScale := decide (0 < n) }

/-- What a descriptor read asks for that tells a home of one tile more scaled with its own (log entry 28). -/
def scaleNotice : Nat := 2 ^ 41

/-- A tile becomes the scale of another: its home counts it. -/
def State.markScale (s : State) (h : Option Handle) : State :=
  match h with
  | none => s
  | some v =>
    if s.isHome v.tile then s.countScale v.tile (· + 1)
    else s.send (homePeer v.tile) (.descriptorRead v.tile s.peer.toNat noCore 0 scaleNotice)

/-- Free a tile (R60): its descriptor and storage return, its scale handle is dropped; the drop of a scale field carries context 1. -/
def State.freeTile (s : State) (t : BitVec 40) (d : Desc) : State :=
  let s := { s with tiles := s.tiles.del (tileKey t), scaleUses := s.scaleUses.del (tileKey t) }
  match d.scale with
  | none => s
  | some h => s.deliver (homePeer h.tile) (.dropArrival h.tile h.e s.peer.toNat noCore 1)

/-- Weight arrives at the home (R51): the tile is freed when all of its weight is back. -/
def State.returnWeight (s : State) (t : BitVec 40) (w : Nat) : State :=
  match s.desc t with
  | none => s
  | some d =>
    let d := ({ d with returned := d.returned + BitVec.ofNat 64 w } : Desc).normal
    if d.returned = d.total then s.freeTile t d else s.setDesc t d

/-- The home's part of a refill (R51): one unit comes back and 2^32 is added to the total. -/
def State.refillHome (s : State) (t : BitVec 40) : State :=
  s.modDesc t fun d => ({ d with total := d.total + 0x100000000, returned := d.returned + 1 } : Desc).normal

/-- The halves of a split (R51): weight e - 1 on both sides, e = 31 after a refill. -/
def splitE (e : BitVec 5) : BitVec 5 := if e = 0 then 31 else e - 1

/-- A tile needs a refill to be split. -/
def Handle.needsRefill (h : Handle) : Bool := h.e == 0

def Handle.split (h : Handle) : Handle := ⟨false, splitE h.e, h.tile⟩

/-- Split a holder that is not a register (a tagged word into its shadow, a scale field). Weight 1 takes a refill: of this home at once,
of another home the one that has come for it (`refillsFor`). -/
def State.splitAway (s : State) (h : Handle) : State :=
  if h.needsRefill then
    (if s.isHome h.tile then s.refillHome h.tile else { s with refillHeld := s.refillHeld.erase h.tile })
  else s

/-- The refills that a home must have been granted before it splits holders: one for each of weight 1 of a tile homed elsewhere (R51). -/
def State.refillsFor (s : State) (hs : List Handle) : List (BitVec 40) :=
  (hs.filter fun h => h.needsRefill && !s.isHome h.tile).map Handle.tile

/-- What a list still lacks of what is there. -/
def lacking (want have_ : List (BitVec 40)) : List (BitVec 40) := have_.foldl List.erase want

/-- Ask for the refills that are neither held nor asked for. -/
def State.askRefills (s : State) (want : List (BitVec 40)) : State :=
  (lacking want (s.refillHeld ++ s.refillAsked)).foldl (fun s t =>
    ({ s with refillAsked := s.refillAsked ++ [t] }).send (homePeer t) (.refillRequest t s.peer.toNat noCore 0)) s

/-- A refill that finds no one to take it goes back: the weight it granted, 2^32 - 1, is returned as drops of its home. -/
def State.returnRefill (s : State) (t : BitVec 40) : State :=
  (List.range 32).foldl (fun s e => s.homeDrop ⟨false, BitVec.ofNat 5 e, t⟩) s

/-- A tagged word of memory holds a tile with weight 1, or with weight 2, which a shadow may split first, or a scale field does with weight 1: a
refill for it may yet be used. -/
def State.weightOne (s : State) (t : BitVec 40) : Bool :=
  (s.tags.any fun e => e.2 && (s.readHandle (8 * e.1)).tile == t && decide ((s.readHandle (8 * e.1)).e.toNat ≤ 1)) ||
  s.tiles.any fun e => e.2.scale.any fun h => h.tile == t && h.needsRefill

/-- Refills that no holder needs any more go back. -/
def State.returnSpare (s : State) : State :=
  let spare := s.refillHeld.filter fun t => !s.weightOne t
  spare.foldl State.returnRefill { s with refillHeld := s.refillHeld.filter s.weightOne }

/-- The unique holder test of a home (R52). -/
def Desc.unique (d : Desc) (e : BitVec 5) : Bool := BitVec.ofNat 64 (weight e) + d.returned == d.total

/-! ### Allocation (R45, R63, R173) -/

/-- What a shape word asks for (R173): open, place, tier, layout, columns and rows minus one, format word. -/
structure Shape where
  opened : Bool
  place : Nat
  tier : Nat
  layout : BitVec 2
  cols : BitVec 14
  rows : BitVec 14
  fword : BitVec 16
  deriving DecidableEq, Repr

def Shape.ofWord (w : Word) : Shape :=
  ⟨w.getLsbD 63, bits w 48 7, bits w 46 2, w.extractLsb' 44 2, w.extractLsb' 30 14, w.extractLsb' 16 14, w.extractLsb' 0 16⟩

/-- The reserved bits and the place of a shape word are as R173 asks. -/
def shapeOk (w : Word) : Bool :=
  let h := Shape.ofWord w
  bits w 55 8 == 0 && h.layout != 3 && h.tier != 3 &&
    (match h.tier with | 0 => h.place == 0 | 1 => h.place / 4 == 0 | _ => true)

/-- First and last-plus-one physical address of the heap that a tier and place name (R63). -/
def heapRange (tier place : Nat) : Nat × Nat :=
  match tier with
  | 0 => (mkPa 0 0 0 0, mkPa 0 0 262080 0)
  | 1 => (mkPa 1 place 0 0, mkPa 1 place 16640 0)
  | _ => (mkPa 2 (place / 32) (place % 32 * 2) 0, mkPa 2 (place / 32) (place % 32 * 2 + 2) 0)

/-- Storage in use: the tiles' own, blocks moved away from and still read, blocks that moves in progress have taken, and the frames mapped as mortar or code memory, whose
class is not tile (R33; log entry 9). -/
def State.usedRuns (s : State) : List (Nat × Nat) :=
  s.tiles.map (fun e => (e.2.storage.toNat, e.2.storage.toNat + e.2.bytes)) ++
  s.oldBlocks ++
  (s.cores.flatMap fun e => e.2.cmds.filterMap fun c => match c.op with | .move _ _ _ _ _ d => d | _ => none) ++
  (s.spans.map fun e => (e.2.slots.filter fun f => e.2.valid && e.2.mode == .localWin && f.2.cls != .tile).map fun f =>
    (mkPa f.2.tier f.2.die f.2.frame 0, mkPa f.2.tier f.2.die f.2.frame 0 + 2 ^ 21)).flatten

def overlaps (a b : Nat × Nat) : Bool := decide (a.1 < b.2 ∧ b.1 < a.2)

/-- A run of `len` bytes from `base` may be taken. -/
def State.runFree (s : State) (range : Nat × Nat) (len base : Nat) : Bool :=
  base % 256 == 0 && decide (range.1 ≤ base ∧ base + len ≤ range.2) && !(s.usedRuns.any (overlaps (base, base + len)))

/-- A free run: the spec leaves the choice open (R63); the free value decides where it names one, else the lowest. -/
def State.findRun (s : State) (range : Nat × Nat) (len : Nat) : Option Nat :=
  let pick := Config.freeNat s.freeUse
  let cands := range.1 :: s.usedRuns.map fun r => roundUp r.2 256
  match cands.filter (s.runFree range len) with
  | [] => none
  | c :: r => if s.runFree range len pick then some pick else some (r.foldl Nat.min c)

/-- A free descriptor index of a die (R45), never 0: the free value where it names one, else the lowest. -/
def State.findIndex (s : State) (die : Nat) : Option Nat :=
  let pick := Config.freeNat (s.freeUse + 1)
  let ok (i : Nat) := decide (1 ≤ i ∧ i < 2 ^ 24) && (s.tiles.look (die * 2 ^ 24 + i)).isNone
  match (List.range (s.tiles.length + 1)).find? fun k => ok (k + 1) with
  | none => none
  | some k => if ok pick then some pick else some (k + 1)

/-- Allocate a descriptor on a die and storage for a shape: every byte zero, untagged and unmarked (R60), total 2^31 (R51).
The failure is SLICE_FULL for a slice without room and TILE_NOSPACE otherwise. -/
def State.allocate (s : State) (die : Nat) (h : Shape) : Except Cause (State × BitVec 40) :=
  match elemOf h.fword with
  | none => .error .formatInvalid
  | some x =>
    let g := geometry h.layout.toNat h.rows.toNat h.cols.toNat x.nibbles
    let blocks := (g.2 + 255) / 256
    match s.findIndex die with
    | none => .error .tileNospace
    | some i =>
      match s.findRun (heapRange h.tier h.place) (blocks * 256) with
      | none => .error (if h.tier = 2 then .sliceFull else .tileNospace)
      | some base =>
        let key := die * 2 ^ 24 + i
        let d : Desc :=
          { sealed := !h.opened, opened := h.opened, isScale := false, moving := false, rows := h.rows, cols := h.cols,
            layout := h.layout, fword := h.fword, storage := BitVec.ofNat 45 base, blocks := BitVec.ofNat 32 blocks,
            pitch := BitVec.ofNat 32 g.1, total := 0x80000000, returned := 0, scale := none, born := s.timeDom }
        let len := blocks * 256
        .ok ({ s with
                tiles := s.tiles.put key d
                mem := s.mem.filter fun e => !decide (base ≤ e.1 ∧ e.1 < base + len)
                tags := s.tags.filter fun e => !decide (base ≤ e.1 * 8 ∧ e.1 * 8 < base + len)
                poison := s.poison.filter fun e => !decide (base ≤ e.1 * 32 ∧ e.1 * 32 < base + len)
                freeUse := s.freeUse + 2 }, s.tileId key)

/-- Give a reserved tile back: its descriptor returns with L = 0 (R56, R59). -/
def State.unreserve (s : State) (t : BitVec 40) : State :=
  match s.desc t with
  | none => s
  | some d => s.freeTile t d

/-- The fresh handle of a new tile (R51). -/
def freshHandle (t : BitVec 40) : Handle := ⟨true, 31, t⟩

/-! ### Drops (R55) -/

/-- Room for one more drop in a context's queue. -/
def Ctx.dropRoom (x : Ctx) : Bool := decide (x.drops.length < Config.dropQueue)

/-- Queue the drop of a handle. -/
def Ctx.addDrop (x : Ctx) (h : Handle) : Ctx := { x with drops := x.drops ++ [⟨h.tile, h.e, x.bundle, false⟩] }

/-- The open set (R174). -/
def Ctx.isOpen (x : Ctx) (t : BitVec 40) : Bool := x.openSet.contains t

def Ctx.closeTile (x : Ctx) (t : BitVec 40) : Ctx := { x with openSet := x.openSet.filter (· != t) }

end Sys2Proof.Machine
end

