-- ==== Sys2Proof/Machine/Cmds.lean ====
section
/-! DEFINITION. Engine queues (R83), extents and their overlap (R75, R84), numbering, faults and cancellation of commands (R56, R192,
R318), the messages of an aborted group multiply (R235, R240). -/

namespace Sys2Proof.Machine

/-! ### Extents -/

/-- Position of element `i` of a region, in half bytes of the local store (R75). -/
def Region.pos (r : Region) (i : Nat) : Nat :=
  (((2 * (r.win + r.base) : Nat) : Int) + i * r.stride * (r.elem.nibbles : Nat)).toNat

/-- Extent of a region: first byte and last byte plus one (R75). -/
def Region.extent (r : Region) : Nat × Nat :=
  let a := r.pos 0
  let b := r.pos (r.count - 1)
  (Nat.min a b / 2, (Nat.max a b + r.elem.nibbles - 1) / 2 + 1)

/-- What a command still touches in the local store: extent, and whether it writes there (R84). A copy reads and writes in order: of its
endpoints the part counts that it has not read or written yet. -/
def Cmd.touches (c : Cmd) : List ((Nat × Nat) × Bool) :=
  match c.op with
  | .vec v =>
    (match v.op with
      | .topk _ => (v.d.extent, true) :: (v.s.toList.map fun r => (r.extent, false)) ++ v.t.toList.map fun r => (r.extent, true)
      | _ => (v.d.extent, true) :: (v.s.toList ++ v.t.toList).map fun r => (r.extent, false))
  | .mma _ _ _ _ _ d .. => [(d.extent, true)]
  | .copy k =>
    (match k.src with | .ls o => [((c.win + o + k.landed, c.win + o + k.len), false)] | _ => []) ++
    (match k.dst with | .ls o => [((c.win + o + k.landed - k.carry.length, c.win + o + k.len), true)] | _ => [])
  | .seal _ _ r => [(r.extent, false)]
  | .update _ _ _ _ (.region _ r) => [(r.extent, false)]
  | _ => []

/-- The later command waits for the earlier one (R84). -/
def touchConflict (a b : List ((Nat × Nat) × Bool)) : Bool := a.any fun x => b.any fun y => (x.2 || y.2) && overlaps x.1 y.1

/-- A command names a tile and has not finished reading it (R55). -/
def Cmd.names (c : Cmd) (t : BitVec 40) : Bool :=
  match c.op with
  | .mma _ _ _ a b .. => a == t || b == t
  | .gmma g => (g.tileA == t || g.tileB == t) && !(g.entered && c.progress == g.blocks)
  | .copy k => (match k.src with | .tile u _ => u == t | _ => false)
  | .move u .. => u == t
  | .seal _ h _ => h.tile == t
  | .update _ h cp read _ => h.tile == t && !(cp.isSome && read)
  | .vec _ => false

/-- The handle register a command in flight is to write (R49). -/
def Cmd.dest (c : Cmd) : Option Nat :=
  match c.op with
  | .gmma g => some g.hx
  | .copy k => (match k.dst with | .newTile _ h _ => some h | _ => none)
  | .seal h .. => some h
  | .update h .. => some h
  | _ => none

/-! ### Queues -/

/-- The queue a command stands in (R83): matrix, vector (with the special-function unit) or copy. -/
def Cmd.queue (c : Cmd) : Option Engine :=
  match c.engine with
  | some .sfu => some .vector
  | e => e

def queueDepth : Engine → Nat
  | .matrix => Config.matrixDepth
  | .vector => Config.vectorDepth
  | .sfu => Config.vectorDepth
  | .copy => Config.copyDepth

/-- A command takes a queue entry until the engine takes it; a GMMA keeps its entry (R83, R202). -/
def Cmd.inQueue (c : Cmd) : Bool := !c.running || (match c.op with | .gmma _ => true | _ => false)

/-- A queue entry is open to the context in issue (R83): one entry of each queue is kept for a firmware ctx3. -/
def State.queueOpen (s : State) (q : Engine) : Bool :=
  let used := (s.myCore.cmds.filter fun c => c.queue == some q && c.inQueue).length
  let kept := if s.isFirmware s.iss.core 3 && s.iss.ctx != 3 then 1 else 0
  decide (used + kept < queueDepth q)

/-- The engine commands of a context that are not finished. -/
def State.cmdsOf (s : State) (c x : Nat) : List Cmd := (s.core c).cmds.filter fun k => k.ctx == x

/-- Queue a command of the context in issue; `numbered` for the forms that take a command number (R318). -/
def State.enqueue (s : State) (eng : Option Engine) (op : CmdOp) (numbered : Bool := true) : State :=
  let me := s.me
  let cmd : Cmd :=
    { serial := s.myCore.nextSerial, ctx := s.iss.ctx, engine := eng, seq := if numbered then me.cmdNo else 0, pc := me.pc,
      bundle := me.bundle, win := me.winBase, winLen := me.winLen, op := op, running := false, progress := 0, fetched := false,
      steps := 0, panel := 0, feWait := none }
  let s := s.modMyCore fun k => { k with cmds := k.cmds ++ [cmd], nextSerial := k.nextSerial + 1 }
  if numbered then s.modMe fun x => { x with cmdNo := x.cmdNo + 1 } else s

/-- What an arriving CPYR is still to write. -/
def Arrival.touches (a : Arrival) : List ((Nat × Nat) × Bool) := [((a.first, a.upto), true)]

/-- A scalar access of the context in issue waits for its earlier commands (R84), not for one of its own bundle, whose commands
follow its accesses (R102), and for the rest of a CPYR that arrives there. -/
def State.lsWaits (s : State) (lo n : Nat) (write : Bool) : Bool :=
  (s.cmdsOf s.iss.core s.iss.ctx).any (fun c => c.bundle != s.me.bundle && touchConflict c.touches [((lo, lo + n), write)]) ||
  s.myCore.arrivals.any fun a => touchConflict a.touches [((lo, lo + n), write)]

/-- A copy that a quiesce marker cuts (R325): into a local store, a virtual range or another window. -/
def CmdOp.cuttable (o : CmdOp) : Bool :=
  match o with
  | .copy k => (match k.dst with | .newTile .. => false | _ => true)
  | _ => false

/-- A copy that has been cut (R325): its chunks have drained and it starts no more. Whole chunks are cut, not their parts. -/
def Cmd.wasCut (c : Cmd) : Bool :=
  match c.op with
  | .copy k => k.cut && k.inFlight.isEmpty && k.started % Config.chunk == 0 && decide (k.started < k.len)
  | _ => false

/-- The copies of a context are cut by the marker that now stands behind them. -/
def Core.cutCopies (k : Core) (x : Nat) : Core :=
  let cut (c : Cmd) : Cmd := match c.op with
    | .copy q => if c.op.cuttable then { c with op := .copy { q with cut := true } } else c
    | _ => c
  { k with cmds := k.cmds.map fun c => if c.ctx = x then cut c else c }

/-- Every access that its context has made before a command is performed (R282): one whose trap is pending will not be. -/
def Ctx.forkReady (x : Ctx) (bundle : Nat) : Bool :=
  !(x.loads.any (fun l => l.pa.isSome && !l.refused && decide (l.bundle ≤ bundle)) ||
    x.remote.any fun l => !l.refused && decide (l.bundle ≤ bundle))

/-- A command may start (R83, R84): nothing earlier on the core overlaps it, neither a command nor an arriving CPYR, nothing earlier of its
context in its queue waits, cut copies apart, and the accesses that come before it are performed. -/
def Core.eligible (k : Core) (c : Cmd) : Bool :=
  !c.running && !(k.cmds.any fun e => decide (e.serial < c.serial) &&
    (touchConflict e.touches c.touches || (e.ctx == c.ctx && e.queue == c.queue && !e.running && !e.wasCut))) &&
  !(k.arrivals.any fun a => decide (a.before ≤ c.serial) && touchConflict a.touches c.touches) &&
  (k.ctx c.ctx).forkReady c.bundle

def State.modCmd (s : State) (core serial : Nat) (f : Cmd → Cmd) : State :=
  s.modCore core fun k => { k with cmds := k.cmds.map fun c => if c.serial = serial then f c else c }

/-- The core goes on after a freeze (R87): its counts stood still for as long as the freeze lasted. -/
def State.unfreeze (s : State) (core : Nat) : State :=
  match (s.core core).frozen with
  | none => s
  | some t0 =>
    let d := s.cycle - t0
    let late (t : Nat) : Nat := if t0 < t then t + d else t
    let ctx (x : Ctx) : Ctx := { x with
      readyAt := late x.readyAt
      busy := x.busy.map fun b => { b with ready := late b.ready }
      lateFlags := x.lateFlags.map fun f => (f.1, late f.2)
      feWait := x.feWait.map fun w => { w with since := w.since + d } }
    s.modCore core fun k => { k with
      frozen := none
      ctxs := k.ctxs.map fun e => (e.1, ctx e.2)
      cmds := k.cmds.map fun c => { c with feWait := c.feWait.map fun w => (w.1 + d, w.2) } }

/-! ### Fields of the destination word of a CPYR (R226) -/

def destOffset (w : Word) : Nat := bits w 44 20
def destFlag (w : Word) : Nat := bits w 40 4
def destPeer (w : Word) : Nat := bits w 24 14
def destCtx (w : Word) : Nat := bits w 8 2
def destCore (w : Word) : Nat := bits w 0 8

/-- What tells the destination of a CPYR that its rest does not come: an arrival without bytes (R84). None for another copy, or one that has not
begun. -/
def CopyCmd.arrivalEnd (k : CopyCmd) (peer core serial : Nat) : Option (Nat × Instr) :=
  match k.dst with
  | .remote w =>
    if k.started = 0 then none
    else some (destPeer w, .cpyrArrival peer core serial (destCore w) (destCtx w) ⟨destOffset w, k.len⟩ (destOffset w) (destFlag w) [])
  | _ => none

/-- Address of a byte of a virtual endpoint, window offset of a local one; 0 for a tile. -/
def CopyCmd.srcAddr (k : CopyCmd) (i : Nat) : Word := match k.src with | .va a => BitVec.ofNat 64 (a + i) | .ls o => BitVec.ofNat 64 (o + i) | _ => 0
def CopyCmd.dstAddr (k : CopyCmd) (i : Nat) : Word :=
  match k.dst with | .va a => BitVec.ofNat 64 (a + i) | .ls o => BitVec.ofNat 64 (o + i) | .remote w => BitVec.ofNat 64 (destOffset w + i) | _ => 0

/-- The address that a refused chunk of a copy reports (R320): of its destination where another package or another window writes it, else of its
source. -/
def Cmd.farVa (c : Cmd) : Word :=
  match c.op with
  | .copy k => match k.inFlight with
    | [] => 0
    | q :: _ => if q.dst = .window then k.dstAddr (q.start - k.carry.length) else if q.sent then k.dstAddr q.start else k.srcAddr q.start
  | _ => 0

/-- A command leaves its core; with the running matrix command go its pins and a freeze that waits for its operands. -/
def State.removeCmd (s : State) (core serial : Nat) : State :=
  let matrix := (s.core core).cmds.any fun c => c.serial == serial && c.running && c.engine == some .matrix
  let s := if matrix = true then (s.unfreeze core).modCore core fun k => { k with pins := [] } else s
  s.modCore core fun k => { k with cmds := k.cmds.filter fun c => c.serial != serial }

def State.findCmd (s : State) (core serial : Nat) : Option Cmd := (s.core core).cmds.find? fun c => c.serial == serial

/-- Write a handle register of a context. -/
def State.putH (s : State) (core x h : Nat) (v : Option Handle) : State := s.modCtx core x fun c => c.setH h v

/-! ### Group multiply: descriptor fields and messages (R202, R235) -/

def Gmma.mask (g : Gmma) : Nat := bits g.desc 56 8
def Gmma.rank (g : Gmma) : Nat := bits g.desc 53 3
def Gmma.gid (g : Gmma) : Nat := bits g.desc 32 16
def Gmma.seq (g : Gmma) : Nat := bits g.desc 0 32
def Gmma.size (g : Gmma) : Nat := 2 ^ bits g.desc 51 2
def popcount8 (m : Nat) : Nat := ((List.range 8).filter fun k => m.testBit k).length

/-- Package of a member of this bond. -/
def State.memberPeer (s : State) (m : Nat) : Nat := s.peer.toNat / 8 * 8 + m

/-- Member number of a rank: the (r + 1)-th set bit of the mask. -/
def memberOf (mask r : Nat) : Nat := ((List.range 8).filter fun k => mask.testBit k).getD r 0

/-- Send an event to every other member that can be reached. -/
def State.sendMembers (s : State) (mask : Nat) (e : Instr) : State :=
  ((List.range 8).filter fun m => mask.testBit m && s.memberPeer m != s.peer.toNat && !s.peerAbsent (s.memberPeer m)
      && s.peerAllowed (s.memberPeer m)).foldl (fun s m => s.send (s.memberPeer m) e) s

def Agree.matches (a : Agree) (gid seq : Nat) : Bool := a.gid == gid && a.seq == seq

/-- Mark an agreement entry aborted (R236, R240): its blocks are discarded and a reserved result tile returns. -/
def State.abortEntry (s : State) (gid seq cause rank : Nat) : State :=
  match s.agree.find? fun a => a.matches gid seq with
  | none => s
  | some a =>
    let s := match a.result with | none => s | some t => s.unreserve t
    { s with agree := s.agree.map fun b =>
        if b.matches gid seq then { b with state := .aborted cause rank, blocks := [], ahead := 0, heard := none, result := none } else b }

/-- SR_GSTAT after a group multiply completes (R242). -/
def gstatWord (status cause rank gid seq : Nat) : Word :=
  BitVec.ofNat 64 (status * 2 ^ 62 + cause * 2 ^ 59 + rank * 2 ^ 56 + gid * 2 ^ 32 + seq)

/-- A group multiply completes as ABORTED (R241): its handle register stays invalid. -/
def State.gmmaAborted (s : State) (core : Nat) (c : Cmd) (g : Gmma) (cause rank : Nat) : State :=
  (s.removeCmd core c.serial).modCtx core c.ctx fun x => { x with gstat := gstatWord 2 cause rank g.gid g.seq }

/-- The group multiplies of this package, with their cores, that the engines have taken under a key, those that wait for room in the table
too. -/
def State.gmmasOf (s : State) (gid seq : Nat) : List (Nat × Cmd × Gmma) :=
  s.cores.flatMap fun e => e.2.cmds.filterMap fun c => match c.op with
    | .gmma g => if c.running && g.gid == gid && g.seq == seq then some (e.1, c, g) else none
    | _ => none

/-- The member has sent its last CHAIN block (R240). -/
def sentLast (c : Cmd) (g : Gmma) : Bool := g.entered && decide (g.rank + 1 < g.size) && c.progress == g.blocks

/-- Abort a group multiply at this package: the entry, and the commands under its key. -/
def State.abortHere (s : State) (gid seq cause rank : Nat) : State :=
  ((s.abortEntry gid seq cause rank).gmmasOf gid seq).foldl (fun s e => s.gmmaAborted e.1 e.2.1 e.2.2 cause rank)
    (s.abortEntry gid seq cause rank)

/-- This member aborts a group multiply and tells the others (R240): at most once, and never after its last CHAIN block. -/
def State.abortGmma (s : State) (g : Gmma) (cause rank : Nat) : State :=
  let already := s.agree.any fun a => a.matches g.gid g.seq && (match a.state with | .aborted .. => true | _ => false)
  if already || (s.gmmasOf g.gid g.seq).any fun e => sentLast e.2.1 e.2.2 then s
  else (s.abortHere g.gid g.seq cause rank).sendMembers g.mask (.abort g.gid g.seq cause rank g.rank)

/-- The ABORT of a command that ends by fault or is cancelled. -/
def State.abortFor (s : State) (c : Cmd) (cause : Nat) : State :=
  match c.op with
  | .gmma g => if sentLast c g then s else s.abortGmma g cause g.rank
  | _ => s

/-! ### Faults and cancellation (R56, R192, R318) -/

/-- A trap becomes pending (R317); one that finds its task already ended by fault or discarded is lost. After HALT it decides how
the task ends instead (R123, TASK_END). -/
def Ctx.pend (x : Ctx) (t : TrapInfo) : Ctx :=
  if x.faulted.isSome || x.discarded then x else { x with pending := x.pending ++ [t] }

/-- The place is not this core's local store or this package's memory. -/
def Place.isFar (p : Place) : Bool := match p with | .ls _ => false | .pa _ => false | _ => true

/-- Messages of a command that have not been answered: of pieces that another core or package reads or writes (R42). -/
def Cmd.travelling (c : Cmd) : Nat :=
  match c.op with
  | .copy k => (k.inFlight.filter fun q => q.sent || (q.src.isFar && q.got.isNone)).length
  | _ => 0

/-- A command goes before its messages are answered: the core remembers how many are on their way (R42). -/
def State.strand (s : State) (core serial : Nat) : State :=
  let n := match s.findCmd core serial with | some c => c.travelling | none => 0
  if n = 0 then s else s.modCore core fun k => { k with strays := k.strays ++ List.replicate n serial }

/-- A message of a command that is gone has been answered. -/
def State.unstray (s : State) (core serial : Nat) : State := s.modCore core fun k => { k with strays := k.strays.erase serial }

/-- The number by which the answer to a piece of a copy knows it: that of the command, and in the low 33 bits one more than where the piece starts. The
core's own event of a piece has 0 there. -/
def pieceNo (serial start : Nat) : Nat := 2 ^ 33 * serial + (start + 1)
def ownNo (serial : Nat) : Nat := 2 ^ 33 * serial
def numberOf (n : Nat) : Nat := n / 2 ^ 33
def startOf (n : Nat) : Nat := n % 2 ^ 33 - 1

/-- What a command that will not complete leaves (R56): nothing it reserved, and its handle register as R56 gives. -/
def State.undo (s : State) (core : Nat) (c : Cmd) : State :=
  match c.op with
  | .copy k => (match k.dst with
    | .newTile _ _ (some t) => s.unreserve t
    | _ => match k.arrivalEnd s.peer.toNat core c.serial with | some (p, e) => s.deliver p e | none => s)
  | .seal h hd _ => s.putH core c.ctx h (some hd)
  | .update h tok none _ _ => s.putH core c.ctx h (some tok)
  | .update h tok (some cp) read _ =>
    if read then s.putH core c.ctx h (some cp)
    else (s.unreserve cp.tile).putH core c.ctx h (some tok)
  | .move t .. => if c.running then s.modDesc t fun d => { d with moving := false } else s
  | _ => s

/-- A cancelled command (R56, R318): a group multiply sends ABORT with cause CANCEL. -/
def State.cancelCmd (s : State) (core : Nat) (c : Cmd) : State :=
  (((s.strand core c.serial).removeCmd core c.serial).undo core c).abortFor c 4

/-- One engine for cancellation: the vector engine and the special-function unit count as one (R318). -/
def sameEngine (a b : Option Engine) : Bool :=
  match a, b with
  | some x, some y => (x == .sfu || x == .vector) == (y == .sfu || y == .vector) && ((x == .sfu || x == .vector) || x == y)
  | _, _ => false

/-- An engine fault (R192): the command ends, later commands of its context on the engine are cancelled, the trap is pending. -/
def State.engineFault (s : State) (core : Nat) (c : Cmd) (cause : Cause) (addr : Word) : State :=
  let later := (s.core core).cmds.filter fun k => k.ctx == c.ctx && sameEngine k.engine c.engine && decide (c.serial < k.serial)
  let s := (((s.strand core c.serial).removeCmd core c.serial).undo core c).abortFor c 3
  let s := later.foldl (fun s k => s.cancelCmd core k) s
  s.modCtx core c.ctx fun x => x.pend
    { cause := cause, kind := .engine, engine := c.engine, slot := 0, imm := 0, seq := c.seq, pc := c.pc, addr := addr,
      cancelled := later.length, progress := c.progress, cycle := s.cycle }

/-- Every command of a context is cancelled (R323). -/
def State.cancelAll (s : State) (core x : Nat) : State := (s.cmdsOf core x).foldl (fun s k => s.cancelCmd core k) s

end Sys2Proof.Machine
end

