-- ==== Sys2Proof/Machine/Mortar.lean ====
section
/-! DEFINITION. Mortar memory: lines, L1s and homes (R256 to R267), leases (R268 to R270), snapshots and shadows (R271 to R275).

A line's bytes are held once, in `State.mem`; what an L1 holds is its state, its U sums and its sg.  The protocol's messages are the
events of the agenda, handled in order; a message that its home cannot carry out yet waits in `State.homeWait`, and later messages for
its lines wait behind it (R257, R263; log entry 81). -/

namespace Sys2Proof.Machine

def State.l1 (s : State) (c line : Nat) : Option L1Line := (s.core c).l1.look line

def State.setL1 (s : State) (c line : Nat) (l : L1Line) : State := s.modCore c fun k => { k with l1 := k.l1.put line l }

def State.dropL1 (s : State) (c line : Nat) : State := s.modCore c fun k => { k with l1 := k.l1.del line }

/-- A fresh entry of an L1 in a state. -/
def L1Line.new (st : LineState) : L1Line := ⟨st, none, 0, 0, false, false, [], 0⟩

def L1Line.stable (l : L1Line) : Bool :=
  match l.state with
  | .M => true | .E => true | .S => true | .U => true | _ => false

def L1Line.owned (l : L1Line) : Bool := l.state == .M || l.state == .E

/-- The incarnation bit that an agent's messages carry (R257, R267). -/
def State.inc (s : State) (agent : Nat) : Bool := s.incOwn.get false agent

/-- A message about a line is discarded where it carries an agent's old bit and comes after the flip at the line's home (R267). -/
def State.incOk (s : State) (agent line : Nat) (inc : Bool) : Bool :=
  inc == s.inc agent || s.incHome.get false (128 * agent + homeSlice line) == inc

/-! ### Leases (R164, R269, R270) -/

def LeaseSlot.live (l : LeaseSlot) : Bool := l.state == .held

def Ctx.slotOn (x : Ctx) (line : Nat) : Option LeaseSlot := x.leases.find? fun l => l.line == line

/-- A context other than the named one holds a live lease on the line on that core. -/
def State.leasedByOther (s : State) (c x line : Nat) : Bool :=
  [0, 1, 2, 3].any fun y => y != x && (s.ctx c y).leases.any fun l => l.live && l.line == line

/-- Some context of the core holds a live lease on the line. -/
def State.leasedOn (s : State) (c line : Nat) : Bool :=
  [0, 1, 2, 3].any fun y => (s.ctx c y).leases.any fun l => l.live && l.line == line

/-- Some context of the package holds a live lease on the line. -/
def State.leasedAny (s : State) (line : Nat) : Bool := s.cores.any fun e => s.leasedOn e.1 line

/-- A probe of a line. -/
def probes (line : Nat) : Instr → Bool
  | .fwdGets _ _ l => l == line | .fwdGetm _ _ l => l == line | .inv _ _ l _ => l == line | .recall _ _ l => l == line
  | _ => false

/-- A probe of the line waits at the core. -/
def State.probeHeld (s : State) (c line : Nat) : Bool := (s.core c).heldProbes.any (probes line)

/-- Serve the probes that waited for a line (R262, R269): they come before every later message, in order of arrival. -/
def State.releaseProbes (s : State) (c line : Nat) : State :=
  let held := (s.core c).heldProbes.filter (probes line)
  let s := s.modCore c fun k => { k with heldProbes := k.heldProbes.filter fun e => !probes line e }
  { s with agenda := held ++ s.agenda }

/-- A lease slot after its lease is ended (R269): a live one expires, an ACQUIRING one is freed. -/
def LeaseSlot.ended (l : LeaseSlot) : Option LeaseSlot :=
  match l.state with
  | .held => some { l with state := .expired }
  | .acquiring => none
  | .expired => some l

/-- End the leases of a context that meet a condition (R269). -/
def State.endLeases (s : State) (c x : Nat) (sel : Nat → Bool) : State :=
  let ls := (s.ctx c x).leases
  let lines := (ls.filter fun l => sel l.line).map LeaseSlot.line
  let left := ls.filterMap fun l => if sel l.line = true then l.ended else some l
  let s := s.modCtx c x fun k => { k with leases := left }
  lines.foldl (fun s l => s.releaseProbes c l) s

/-! ### Room in an L1 (R262, R266, R269) -/

/-- A privileged form that has issued blocks its context until it completes (R184): SPINV, REJOIN, QUIESCE, CTXSAVE, CTXLOAD. -/
def Ctx.midway (x : Ctx) : Bool := match x.reply.asked with | some (k, _) => [6, 7, 8, 9, 12, 13].contains k | none => false

/-- The pending traps that a boundary may take: a context that is being stopped keeps its engine faults (R326). -/
def Ctx.takeable (x : Ctx) : List TrapInfo := if x.stop.asked then x.pending.filter fun t => t.kind == .deferred else x.pending

/-- A pending trap is taken at the boundary (R317), outside the handler. -/
def Ctx.takesPending (x : Ctx) : Bool := !x.takeable.isEmpty && !x.handler && !x.stop.issued && !x.midway

/-- A held bundle of the core has yet to meet the line that it asked for. -/
def State.lineWanted (s : State) (c line : Nat) : Bool :=
  [0, 1, 2, 3].any fun x => let k := s.ctx c x
    k.reply.line == some line && k.run == .running && !k.stop.issued && !k.takesPending

/-- Give a line up: dirty or owned lines and sums go to the home, a shared line goes silently (R262, R264, R266). -/
def State.giveUp (s : State) (c line : Nat) (l : L1Line) : State :=
  match l.state with
  | .M => (s.setL1 c line { l with state := .MIA }).post [.putm c line (s.inc c)]
  | .E => (s.setL1 c line { l with state := .MIA }).post [.pute c line (s.inc c)]
  | .U => (s.setL1 c line { l with state := .IIA, put := true }).post [.putu c line (s.inc c) 0 l.sums]
  | .S => s.dropL1 c line
  | _ => s

/-- The set of eight ways in which a line lies: 64 KiB hold 512 lines. Which bits of the address choose the set is not given (log entry 41). -/
def l1Set (line : Nat) : Nat := line % 64

/-- The lines that take the ways of a set but for one line; a line that has been given up takes none. -/
def State.waysOf (s : State) (c line : Nat) : List (Nat × L1Line) :=
  (s.core c).l1.filter fun e => l1Set e.1 == l1Set line && e.1 != line &&
    (match e.2.state with | .MIA => false | .SIA => false | .IIA => false | _ => true)

/-- The lines of a set that a fill may evict: at rest, leased by no one (R262), met by whoever asked for them. -/
def State.victims (s : State) (c line : Nat) : List (Nat × L1Line) :=
  (s.waysOf c line).filter fun e => e.2.stable && !s.leasedOn c e.1 && !s.lineWanted c e.1

/-- A way for a line that is about to be requested: where its set is full, one of its lines is evicted, which one by a free value; none
while no line can be. -/
def State.roomFor (s : State) (c line : Nat) : Option State :=
  if (s.waysOf c line).length < 8 then some s
  else match s.victims c line with
    | [] => none
    | v :: r =>
      let e := (v :: r).getD (Config.freeNat s.freeUse % (r.length + 1)) v
      some (({ s with freeUse := s.freeUse + 1 } : State).giveUp c e.1 e.2)

/-! ### Requests of an L1 (R260, R262, R264) -/

/-- The request for a line in a state: the transient state that waits for it, and its message (R262, R264). -/
def requestFor (want : LineState) (shared : Bool) (c line : Nat) (inc : Bool) : LineState × Instr :=
  if want = .S then (.ISD, .gets c line inc)
  else if shared then (.SMA, .upg c line inc)
  else if want = .U then (.IUA, .getu c line inc)
  else (.IMAD, .getm c line inc)

/-- Send the request that takes a line to a state, from the state it is in, for the bundle in issue. A U line gives up its sums
first; they stay with the line until they are merged, and a Recall that waited for them is answered. -/
def State.request (s : State) (c line : Nat) (want : LineState) : State :=
  let inc := s.inc c
  let s := s.modMe fun x => { x with reply := { x.reply with line := some line } }
  let old := (s.l1 c line).getD (L1Line.new .IIA)
  let r := requestFor want (old.state == .S) c line inc
  if old.state = .U then
    ((s.setL1 c line { L1Line.new r.1 with put := true, sums := old.sums }).post [.putu c line inc 0 old.sums, r.2]).releaseProbes c line
  else (s.setL1 c line (L1Line.new r.1)).post [r.2]

/-- Request an absent line once there is room for it. -/
def State.fetchLine (s : State) (c line : Nat) (want : LineState) : State :=
  match s.roomFor c line with
  | none => s
  | some s => s.request c line want

/-! ### Snapshots (R166, R271 to R274) -/

/-- Owner number of a context in a snapshot register (R271): its task slot, or 0x1000 and the core for a firmware context. -/
def State.owner (s : State) (c x : Nat) : Nat := if s.isFirmware c x then 0x1000 + c else 4 * c + x

/-- Window base of a context's task, 0 of a firmware context. -/
def State.ownWindow (s : State) (c x : Nat) : Nat := if s.isFirmware c x then 0 else (s.ctx c x).lsbase.toNat

/-- A snapshot is one of a context's (R166): of the task that it holds, or of the firmware context itself. -/
def State.ownSnap (s : State) (c x : Nat) (k : Snap) : Bool := k.owner == s.owner c x && k.window == s.ownWindow c x

def Snap.covers (k : Snap) (line : Nat) : Bool := decide (k.base ≤ line ∧ line < k.base + k.len)

def Snap.within (k o : Snap) : Bool := decide (o.base ≤ k.base ∧ k.base + k.len ≤ o.base + o.len)

/-- Live registers that contain a line, with their numbers. -/
def State.snapsOn (s : State) (line : Nat) : List (Nat × Snap) := s.snaps.filter fun e => e.2.covers line

/-- The innermost live register that contains a line: the one of highest level (R272). -/
def State.innermost (s : State) (line : Nat) : Option (Nat × Snap) :=
  (s.snapsOn line).foldl (fun b e => match b with
    | none => some e
    | some o => if o.2.level < e.2.level then some e else some o) none

def State.hasShadow (s : State) (reg line : Nat) : Bool := s.shadows.any fun h => h.reg == reg && h.line == line

def State.poolUse (s : State) (die : Nat) : Nat := (s.shadows.filter fun h => lineDie h.line == die).length

/-- The home's value of sg for a line: the generation of the newest level that holds a shadow of it (R272). -/
def State.homeSg (s : State) (line : Nat) : BitVec 32 :=
  (s.snapsOn line).foldl (fun g e => if s.hasShadow e.1 line && decide (g.toNat < e.2.gen.toNat) then e.2.gen else g) 0

/-- Split the handles of a line's tagged words between the line and a shadow (R58). -/
def State.splitWords (s : State) (pa : Nat) : Nat → State
  | 0 => s
  | n + 1 =>
    let s := s.splitWords pa n
    let a := pa + 8 * n
    if s.tag a then
      let h := s.readHandle a
      (s.splitAway h).writeNat a 8 h.split.toWord.toNat
    else s

/-- Merge a U sum into its word, modulo its own width (R264). -/
def State.mergeSum (s : State) (line : Nat) (d : Nat × Bool × Word) : State :=
  let a := line * 128 + 4 * d.1
  let n := if d.2.1 then 8 else 4
  s.writeNat a n ((s.readNat a n + d.2.2.toNat) % 2 ^ (8 * n))

def State.mergeSums (s : State) (line : Nat) (ds : List (Nat × Bool × Word)) : State := ds.foldl (fun s d => s.mergeSum line d) s

/-- The sums of a line that a message on its way to a requester carries (R260). -/
def recalledSums (line : Nat) : Instr → List (Nat × Bool × Word)
  | .putu _ l _ dest sums => if l = line ∧ dest ≠ 0 then sums else []
  | _ => []

/-- Every sum of a line that its home copy lacks: buffered in an L1, or on its way to a requester. -/
def State.openSums (s : State) (line : Nat) : List (Nat × Bool × Word) :=
  (s.cores.flatMap fun e => match e.2.l1.look line with | none => [] | some l => l.sums) ++ s.agenda.flatMap (recalledSums line)

/-- The home copy of a line as it stands with every sum merged, to read from (R264). -/
def State.merged (s : State) (line : Nat) : State := s.mergeSums line (s.openSums line)

/-- Handles held in the tagged words of a range of `n` words. -/
def State.wordHandles (s : State) (pa n : Nat) : List (Nat × Handle) :=
  (List.range n).filterMap fun w => if s.tag (pa + 8 * w) then some (pa + 8 * w, s.readHandle (pa + 8 * w)) else none

/-- A write to the line takes a shadow: for the innermost live level where it holds none, while the pool has room (R272, R273). -/
def State.needsShadow (s : State) (line : Nat) : Bool :=
  match s.innermost line with
  | none => false
  | some (r, _) => !s.hasShadow r line && decide (s.poolUse (lineDie line) < Config.shadowPool)

/-- The refills that a shadow of the line takes before its tagged words are split (R58). -/
def State.shadowRefills (s : State) (line : Nat) : List (BitVec 40) :=
  if s.needsShadow line then s.refillsFor ((s.wordHandles (line * 128) 16).map (·.2)) else []

/-- A place in the pool of a die that holds no shadow: the free value where it names one, else the lowest (log entry 6). -/
def State.freePlace (s : State) (die : Nat) : Nat :=
  let used (n : Nat) : Bool := s.shadows.any fun h => h.slot == n && lineDie h.line == die
  let pick := Config.freeNat s.freeUse
  if pick < Config.shadowPool ∧ used pick = false then pick
  else ((List.range (s.shadows.length + 1)).find? fun n => !used n).getD 0

/-- Take the shadow that a write to the line needs, for the innermost live level that holds none: the generation of that level, or
none when the pool is full (R272, R273). A line in no live range needs none. The shadow holds every CADD made before. -/
def State.takeShadow (s : State) (line : Nat) : State × Option (BitVec 32) :=
  match s.innermost line with
  | none => (s, some 0)
  | some (r, k) =>
    if s.hasShadow r line then (s, some k.gen)
    else if Config.shadowPool ≤ s.poolUse (lineDie line) then (s, none)
    else
      let pa := line * 128
      let s := s.splitWords pa 16
      ({ s with
          shadows := s.shadows ++ [⟨s.freePlace (lineDie line), r, line, (s.merged line).readBytes pa 128,
            (List.range 16).map fun w => s.tag (pa + 8 * w), (List.range 4).map fun u => s.poison.get false (line * 4 + u)⟩]
          freeUse := s.freeUse + 1 }, some k.gen)

/-- Take the shadow of a line where the refills that it takes have come; where they have not, it is left for the write itself. -/
def State.shadowIfReady (s : State) (line : Nat) : State :=
  if (lacking (s.shadowRefills line) s.refillHeld).isEmpty then (s.takeShadow line).1 else s

/-- Handles held in a shadow. -/
def Shadow.handles (h : Shadow) : List Handle :=
  (List.range 16).filterMap fun w =>
    if h.tags.getD w false then some (Handle.ofWord (BitVec.ofNat 64 (ofBytes ((h.bytes.drop (8 * w)).take 8)))) else none

/-- Next live level out that contains the line (R274). -/
def State.outer (s : State) (k : Snap) (line : Nat) : Option (Nat × Snap) :=
  ((s.snapsOn line).filter fun e => e.2.level < k.level).foldl (fun b e => match b with
    | none => some e
    | some o => if o.2.level < e.2.level then some e else some o) none

/-- ACCEPT of a register (R167, R274): each shadow moves out or is discarded with its handles dropped. -/
def State.acceptSnap (s : State) (r : Nat) : State :=
  match s.snaps.look r with
  | none => s
  | some k =>
    let mine := s.shadows.filter fun h => h.reg == r
    let s := { s with shadows := s.shadows.filter fun h => h.reg != r }
    let s := mine.foldl (fun s h => match s.outer k h.line with
      | some (o, _) => if s.hasShadow o h.line then h.handles.foldl State.homeDrop s
                       else { s with shadows := s.shadows ++ [{ h with reg := o }] }
      | none => h.handles.foldl State.homeDrop s) s
    { s with snaps := s.snaps.del r }

/-! ### Directory entries (R256, R259) -/

/-- An entry changes, or is new and the youngest. -/
def State.setDir (s : State) (line : Nat) (d : DirState) : State :=
  { s with dir := s.dir.put line d, entryAge := if s.entryAge.contains line then s.entryAge else s.entryAge ++ [line] }

/-- An entry goes to I. -/
def State.dropDir (s : State) (line : Nat) : State := { s with dir := s.dir.del line, entryAge := s.entryAge.filter (· != line) }

/-- What a home that takes a line leaves of it in an L1 (R263): lines at rest go, a put or a request on its way goes on without its
data; the sums are merged or discarded. -/
def L1Line.taken (l : L1Line) : Option L1Line :=
  match l.state with
  | .M => none
  | .E => none
  | .S => none
  | .U => none
  | .MIA => some { l with state := .IIA, sums := [] }
  | .SIA => some { l with state := .IIA, sums := [] }
  | .SMA => some { l with state := .IMAD, sums := [] }
  | _ => some { l with sums := [] }

/-- Every cached copy of a line goes (R263, R275): its sums with them, and its entry. -/
def State.invalidateLine (s : State) (line : Nat) : State :=
  let left (k : Core) : Core := match k.l1.look line with
    | none => k
    | some l => { k with l1 := match l.taken with | none => k.l1.del line | some l => k.l1.put line l }
  ({ s with cores := s.cores.map fun e => (e.1, left e.2) } : State).dropDir line

/-- The host may have written a half since this package last held it: it has it exclusive, or the half is host memory that the device
does not hold (R265). -/
def State.hostMayWrite (s : State) (line half : Nat) : Bool :=
  match paTier (line * 128), s.halves.get .I (2 * line + half) with
  | 0, .X => true
  | 3, .I => true
  | _, _ => false

/-- The bridge brings a half's bytes from the host: what the host has written is a free value; a tagged word keeps its bytes
(log entry 53). -/
def State.bridgeBytes (s : State) (line half : Nat) : State :=
  if s.hostMayWrite line half then
    let pa := line * 128 + 64 * half
    let bs := Config.freeBytes s.freeUse
    { (List.range 64).foldl (fun s i => if s.tag (pa + i) then s else s.setByte (pa + i) (bs.getD i 0)) s with freeUse := s.freeUse + 1 }
  else s

/-- A line that no part of the host holds: both halves are the device's (R265). -/
def State.bridgeLeaves (s : State) (line : Nat) : State :=
  match paTier (line * 128) with
  | 0 => { s with halves := (s.halves.set .I (2 * line) .I).set .I (2 * line + 1) .I }
  | 3 => { s with halves := (s.halves.set .I (2 * line) .X).set .I (2 * line + 1) .X }
  | _ => s

/-- The host bridge gives up a line that the host caches, or gets one of host memory, with its bytes. -/
def State.bridgeTake (s : State) (line : Nat) : State := ((s.bridgeBytes line 0).bridgeBytes line 1).bridgeLeaves line

/-- REJECT of one register (R168, R275): drop the tagged words of each shadowed line, restore its words, tags and marks. -/
def State.rejectSnap (s : State) (r : Nat) : State :=
  let mine := s.shadows.filter fun h => h.reg == r
  let s := { s with shadows := s.shadows.filter fun h => h.reg != r, snaps := s.snaps.del r }
  mine.foldl (fun s h =>
    let pa := h.line * 128
    let s := (s.wordHandles pa 16).foldl (fun s e => s.homeDrop e.2) s
    let s := (s.invalidateLine h.line).bridgeLeaves h.line
    let s := s.writeBytes pa h.bytes
    let s := (List.range 16).foldl (fun s w => s.setTag (pa + 8 * w) (h.tags.getD w false)) s
    (List.range 4).foldl (fun s u => s.setPoison (h.line * 4 + u) (h.poison.getD u false)) s) s

/-- Live snapshots of an owner, innermost first: of the task with a window, or of a firmware context. -/
def State.snapsOf (s : State) (o window : Nat) : List (Nat × Snap) :=
  let mine := s.snaps.filter fun e => e.2.owner == o && e.2.window == window
  [4, 3, 2, 1].flatMap fun lv => mine.filter fun e => e.2.level == lv

/-- The lines of a snapshot on which another context than the named one holds a lease (R168). -/
def State.rangeLeasedByOther (s : State) (c x : Nat) (k : Snap) : Bool :=
  s.cores.any fun e => [0, 1, 2, 3].any fun y => (e.1 != c || y != x) &&
    (s.ctx e.1 y).leases.any fun l => l.live && k.covers l.line

/-! ### Messages at a home (R257, R263) -/

/-- Lines of a range of bytes. -/
def linesOf (pa n : Nat) : List Nat := if n = 0 then [] else (List.range ((pa + n - 1) / 128 - pa / 128 + 1)).map (pa / 128 + ·)

/-- Bytes that an access by a home reaches: its address and its length. The kinds are those of `RemoteOp.code`, 7 and 8 for reads and writes
of the copy engine (an odd variant reads the storage of a tile), 9 for a block, 10 for the check of a kind in the variant (R157), 11 for the end of
what a check has had kept, 12 and 13 for the save area of CTXSAVE and CTXLOAD (R188). -/
def State.accessRange (s : State) (kind size fn pa : Nat) (x y : Word) (n : Nat) (bytes : List Byte) : Nat × Nat :=
  match kind with
  | 7 => if fn % 2 = 1 then ((match s.desc (x.setWidth 40) with | none => pa | some d => d.storage.toNat + pa), bits y 0 32) else (pa, bits y 0 32)
  | 8 => (pa, bytes.length / 2)
  | 9 => (pa, n)
  | 12 => (pa, 4096)
  | 13 => (pa, 4096)
  | _ => (pa, size)

/-- The lines that a message to a home is about. -/
def State.homeLines (s : State) : Instr → List Nat
  | .gets _ l _ => [l] | .getm _ l _ => [l] | .getu _ l _ => [l] | .upg _ l _ => [l] | .putm _ l _ => [l] | .pute _ l _ => [l]
  | .putu _ l _ _ _ => [l] | .shadow _ _ l => [l] | .hostHalfRequest l _ _ => [l]
  | .homeAccess _ _ _ op pa x y _ n bytes =>
    if op % 16 = 7 ∧ op / 256 % 2 = 1 then []
    else let r := s.accessRange (op % 16) (op / 16 % 16) (op / 256) pa x y n bytes; linesOf r.1 r.2
  | .routerCombine ⟨_, _, kind, key⟩ wide _ => if kind = 2 then [] else linesOf key (if wide then 8 else 4)
  | _ => []

/-- A message of an earlier place in the list waits for one of the lines. -/
def State.waitsFor (s : State) (lines : List Nat) : Bool := s.homeWait.any fun e => (s.homeLines e).any lines.contains

/-! ### Words that a home keeps between a check and its access (R157) -/

/-- A context of a peer, as one number. -/
def keeper (peer core ctx : Nat) : Nat := peer * 1024 + core * 4 + ctx

/-- The homes as one context of a peer meets them: what they keep for it does not stand in its way. -/
def State.keepingFor (s : State) (key : Nat) : State := { s with reserves := s.reserves.filter fun e => e.1 != key }

/-- A home keeps the line of a word for some context. -/
def State.keptLine (s : State) (line : Nat) : Bool := s.reserves.any fun e => e.2 == line

/-- The kinds of access that the check of a form comes before: its own access. -/
def checkedKind (kind : Nat) : Bool := decide (kind < 7)

/-- The access of a form whose check has had the line of its word kept. -/
def State.wasChecked (s : State) : Instr → Bool
  | .homeAccess peer src ctx op pa _ _ _ _ _ => checkedKind (op % 16) && s.reserves.contains (keeper peer src ctx, lineOf pa)
  | _ => false

/-- The lines for which a message waits behind those that came before it (R263): none for a write of the line's holder, which takes its shadow as
usual (R270), and for an access whose line is kept for it. -/
def State.waitLines (s : State) (e : Instr) : List Nat :=
  match e with
  | .shadow .. => []
  | _ => if s.wasChecked e then [] else s.homeLines e

/-! ### The home as a requester (R263) -/

/-- A request of the core's L1 for a line is on its way to the home or waits there. -/
def State.unserved (s : State) (c line : Nat) : Bool :=
  (s.agenda ++ s.homeWait).any fun e => [.gets c line (s.inc c), .getm c line (s.inc c), .getu c line (s.inc c), .upg c line (s.inc c)].contains e

/-- An L1 lets a home take a line: at rest there and met by whoever asked for it, given up, or asked for and not yet granted. -/
def State.restsAt (s : State) (c line : Nat) : Bool :=
  match s.l1 c line with
  | none => true
  | some l => match l.state with
    | .MIA => true
    | .SIA => true
    | .IIA => true
    | .ISD => s.unserved c line
    | .IMAD => s.unserved c line
    | .SMA => s.unserved c line
    | .IUA => s.unserved c line
    | _ => !s.lineWanted c line

/-- The home can take a line now: it rests at every L1, no lease on it is live, and it is kept for no one. -/
def State.lineQuiet (s : State) (line : Nat) : Bool :=
  s.cores.all (fun e => s.restsAt e.1 line) && !s.leasedAny line && !s.keptLine line

/-- The home takes a line for an access of its own: U sums merge, every copy goes, the host's halves come, the entry is left in I
(R263). -/
def State.homeTake (s : State) (line : Nat) : State := ((s.merged line).invalidateLine line).bridgeTake line

/-- The home takes every line of a range to read it. -/
def State.takeRange (s : State) (pa n : Nat) : State := (linesOf pa n).foldl State.homeTake s

/-- The home takes every line of a range to write it, with its shadow; none when a pool is full. -/
def State.takeToWrite (s : State) (pa n : Nat) : Option State :=
  (linesOf pa n).foldl (fun o l => match o with
    | none => none
    | some s => match (s.homeTake l).takeShadow l with
      | (s, some _) => some s
      | (_, none) => none) (some s)

/-- A write of the device itself to mortar memory, at the home (R263). A shadow that its pool has no room for is not taken (log entry 50), and a
tagged word that it writes keeps its tag (log entry 84). -/
def State.deviceWrite (s : State) (pa : Nat) (bs : List Byte) : State :=
  ((linesOf pa bs.length).foldl (fun s l => ((s.homeTake l).takeShadow l).1) s).writeRange pa bs

/-- The lines of a range can be taken by their homes now: they rest, and no access that came to its home before waits for one of them (R263). -/
def State.rangeQuiet (s : State) (pa n : Nat) : Bool := (linesOf pa n).all s.lineQuiet && !s.waitsFor (linesOf pa n)

/-- The refills that the shadows of a range take. -/
def State.rangeRefills (s : State) (pa n : Nat) : List (BitVec 40) := (linesOf pa n).flatMap s.shadowRefills

/-- The homes can write a range now: its lines rest, and the refills that its shadows take have come. -/
def State.writeQuiet (s : State) (pa n : Nat) : Bool := s.rangeQuiet pa n && (lacking (s.rangeRefills pa n) s.refillHeld).isEmpty

/-- Hold until the homes can read, or write, a range. -/
def rangeReady (write : Bool) (pa n : Nat) (s : State) : Eff Unit :=
  if write then holdIf (!s.writeQuiet pa n) (s.askRefills (s.rangeRefills pa n)) else holdIf (!s.rangeQuiet pa n) s

/-! ### Writes of the context in issue (R161) -/

/-- Hold the bundle until no other context of the core leases the line and the L1 owns it. -/
def ownLine (pa : Nat) (s : State) : Eff Unit :=
  let line := lineOf pa
  let c := s.iss.core
  if s.leasedByOther c s.iss.ctx line then .error (.hold s)
  else match s.l1 c line with
  | none => .error (.hold (s.fetchLine c line .M))
  | some l => if l.owned then .ok () else if l.stable then .error (.hold (s.request c line .M)) else .error (.hold s)

/-- Hold the bundle until the home has taken the shadow that a write of the held line needs, or has refused it: SNAP_FULL. -/
def shadowed (va : Word) (pa : Nat) (s : State) : Eff Unit :=
  let line := lineOf pa
  let c := s.iss.core
  match s.l1 c line, s.innermost line with
  | some l, some (_, k) =>
    if k.gen.toNat ≤ l.sg.toNat then .ok ()
    else if s.me.reply.full = some line then .error (.trap .snapFull va)
    else if s.me.shadowWait = some line then .error (.hold s)
    else .error (.hold ((s.modMe fun x => { x with shadowWait := some line }).post [.shadow ⟨c, s.inc c⟩ s.iss.ctx line]))
  | _, _ => .ok ()

/-- Hold the bundle until the line may be written: a lease of another context of the core, the line's state, its shadow. -/
def writeReady (va : Word) (pa : Nat) (s : State) : Eff Unit := do
  ownLine pa s
  shadowed va pa s

/-! ### Room for directory entries (R256) -/

/-- A line whose entry is new takes the place of the oldest entry of a full side array (R256): that entry's line, if one must go. -/
def State.entryToFree (s : State) (line : Nat) : Option Nat :=
  let mine := s.entryAge.filter fun l => homeSlice l == homeSlice line
  if (s.dir.look line).isSome ∨ mine.length < Config.sideEntries then none else mine.head?

/-- The side array has room for an entry of the line, or its oldest entry can be recalled now. -/
def State.entryReady (s : State) (line : Nat) : Bool := match s.entryToFree line with | none => true | some l => s.lineQuiet l

/-- Make room for an entry of the line: the oldest entry's line is recalled from every holder, and the entry freed (R256). -/
def State.makeEntry (s : State) (line : Nat) : State := match s.entryToFree line with | none => s | some l => s.homeTake l

/-- The line as it stands after a write of the owner: E becomes M; the probes that waited for the access are served (R258, R262). -/
def State.wrote (s : State) (pa : Nat) : State :=
  let line := lineOf pa
  let c := s.iss.core
  let s := match s.l1 c line with
    | none => s
    | some l => s.setL1 c line { l with state := .M }
  if s.leasedOn c line then s else s.releaseProbes c line

end Sys2Proof.Machine
end

