-- ==== Sys2Proof/Machine/Ops.lean ====
section
/-! DEFINITION. The operations that every family shares: taking a trap (R316 to R321), returning from one (R322), ending by fault
(R323), settling a slot (R104), control transfers (R90, R115, R119), privilege (R184, R312). -/

namespace Sys2Proof.Machine

/-- What a meaning answers. -/
abbrev Out := Host.Outcome State Fault Refusal

/-! ### The trap record (R320) -/

def TrapKind.code : TrapKind → Nat
  | .precise => 0 | .engine => 1 | .deferred => 2

def engineCode : Option Engine → Nat
  | none => 0 | some .matrix => 1 | some .vector => 2 | some .sfu => 3 | some .copy => 4

/-- SR_LOOP of a context (R120). -/
def Ctx.loopWord (x : Ctx) : Word :=
  match x.loops with
  | [] => 0
  | l :: _ => BitVec.ofNat 64 (x.loops.length * 2 ^ 61 + l.stg.toNat * 2 ^ 58 + (if l.drain then 2 ^ 57 else 0)
      + l.mask.toNat * 2 ^ 32 + l.n.toNat)

/-- Order of the traps detected in one cycle (R317): deferred, then matrix, vector, special-function unit, copy. -/
def TrapInfo.lane (t : TrapInfo) : Nat := match t.kind with | .deferred => 0 | _ => engineCode t.engine

/-- A trap comes before another. -/
def TrapInfo.before (t u : TrapInfo) : Bool := decide (t.cycle < u.cycle) || (t.cycle == u.cycle && decide (t.lane < u.lane))

/-- The trap of a list that is taken first (R317). -/
def firstTrap (ts : List TrapInfo) : Option TrapInfo :=
  ts.foldl (fun b t => match b with | none => some t | some u => if t.before u then some t else some u) none

/-- The pending trap that the next boundary takes. -/
def Ctx.oldest (x : Ctx) : Option TrapInfo := firstTrap x.takeable

/-- The eight words of a trap record. -/
def TrapInfo.words (t : TrapInfo) (resume time loop : Word) : List Word :=
  [BitVec.ofNat 64 (t.seq.toNat * 2 ^ 32 + t.imm.toNat * 2 ^ 16 + engineCode t.engine * 2 ^ 12 + t.slot % 4 * 2 ^ 10
      + t.kind.code * 2 ^ 8 + t.cause.code.toNat),
   resume, t.pc, t.addr,
   (if t.kind = .engine then BitVec.ofNat 64 (t.cancelled % 2 ^ 16 * 2 ^ 32 + t.progress % 2 ^ 32) else 0),
   time, loop, 0]

/-- Write words into the local store of a core, untagged. -/
def Core.putWords (k : Core) : Nat → List Word → Core
  | _, [] => k
  | o, w :: r => ((k.lsWrite o 8 w.toNat).lsSetTag o false).putWords (o + 8) r

/-- Every cause, for the reading of a saved record or of a refusal. -/
def Cause.all : List Cause :=
  [.illegalOp, .bundleConflict, .stallShort, .pcAlign, .privOp, .privSr, .srUndef, .swTrap, .loopBad, .loopDepth, .flagRange,
   .doubleFault, .misalign, .spanMiss, .spanBad, .pageClass, .peerAbsent, .peerDenied, .remoteDenied, .rpostDenied, .memUncorr,
   .spinvSnap, .rejoinState, .ctxRunning, .launchAlign, .launchQueue, .leaseBad, .leaseRemote, .leaseDepth, .snapBad, .snapOverlap,
   .snapDepth, .snapNoreg, .snapOrder, .snapFull, .feTimeout, .kvMiss, .handleInvalid, .handleLive, .handleClobber,
   .handleUntagged, .tileOpen, .tileState, .tileShape, .tileIndex, .tileNospace, .tileTarget, .tileRemote, .openDepth, .sliceFull] ++
  [.formatInvalid, .formatMismatch, .formatPair, .regionBad, .regionAlign, .regionOverlap, .indexRange, .twidBad, .gmmaBad,
   .freezeTimeout, .copyAlign, .copyBad, .copyDestDenied]

def Cause.ofCode (n : Nat) : Option Cause := Cause.all.find? fun c => c.code.toNat == n

/-- The cause that a refusal carries, REMOTE_DENIED where it names none. -/
def refusalCause (n : Nat) : Cause := (Cause.ofCode n).getD .remoteDenied

/-! ### Ending by fault (R323) -/

/-- A question whose answer comes to its context, and is not taken once its bundle is gone; that of a refill is given back (R51). -/
def answered (q : Nat × BitVec 40) : Bool := [0, 1, 2, 4, 5, 11, 12, 13].contains q.1

/-- What a reply that nobody takes holds of weight goes back: half of a scale handle, or the handles of an area (R188). -/
def State.dropHalf (s : State) (ws : List Word) : State :=
  if ws.length = 9 then (if (ws.getD 4 0).getLsbD 63 then s.homeDrop (Handle.ofWord (ws.getD 4 0)) else s)
  else if ws.length = 64 then (ws.filter (·.getLsbD 63)).foldl (fun s w => s.homeDrop (Handle.ofWord w)) s
  else s

/-- The question of a bundle whose answer is still to come: that of a save area stays open until its form is done (R188). -/
def Replies.open (r : Replies) : List (Nat × BitVec 40) :=
  r.asked.toList.filter fun q => answered q && !(q.1 == 12 && r.probe.isSome) && !(q.1 == 13 && r.desc.isSome)

/-- The context that was kept for a task is free again when the form that was to load it goes (R188). -/
def State.freeKept (s : State) (c : Nat) (q : Option (Nat × BitVec 40)) : State :=
  match q with
  | some (13, t) => s.modCtx c t.toNat fun k => { k with run := .idle }
  | _ => s

/-- The home of a peer need keep a word for a context no longer (R157): the kind 11 of an access says so. -/
def State.release (s : State) (c x key : Nat) : State :=
  s.deliver (key / 2 ^ 45) (.remoteAccess s.peer.toNat c x 11 (key % 2 ^ 45) 0 0 0 0 [])

/-- A held bundle gives up the word that its home keeps for it, and the answer of the check with it. -/
def State.letGo (s : State) (c x : Nat) : State :=
  match (s.ctx c x).reply.kept with
  | none => s
  | some k => (s.modCtx c x fun y => { y with reply := { y.reply with kept := none, probe := none } }).release c x k

/-- Give back what a held bundle had been given and forget what it asked (R104): a reserved tile returns, and so does the weight of
a refill, of half a scale handle or of the handles of an area, and a word that is kept for it. -/
def State.forgetReply (s : State) (c x : Nat) : State :=
  let s := s.letGo c x
  let r := (s.ctx c x).reply
  let s := match r.tile with | some t => s.unreserve t | none => s
  let s := match r.asked with | some (3, t) => (if r.refill then s.returnRefill t else s) | _ => s
  let s := match r.desc with
    | some ws => s.dropHalf ws
    | none => s
  (s.freeKept c r.asked).modCtx c x fun k => { k with
    reply := Replies.none, shadowWait := none, feWait := [], blocked := false, late := k.late ++ r.open }

/-- The tasks of a launch: core and context. -/
def State.tasksOf (s : State) (sel : Task → Bool) : List (Nat × Nat) :=
  (s.cores.map fun e => (e.2.ctxs.filter fun p => p.2.task.any sel).map fun p => (e.1, p.1)).flatten

/-- A task is discarded (R323): it issues nothing more, its commands are cancelled, its leases end. The rest is done at TASK_END. -/
def State.discardTask (s : State) (c x : Nat) : State :=
  if (s.ctx c x).task.isNone then s
  else
    let s := ((s.cancelAll c x).endLeases c x fun _ => true).forgetReply c x
    s.modCtx c x fun k => { k with run := .ending, discarded := true, loops := [], pending := [] }

/-- Saved tasks are discarded (R323). -/
def State.discardSaved (s : State) (sel : Task → Bool) : State :=
  { s with cores := s.cores.map fun e =>
    (e.1, { e.2 with saved := e.2.saved.map fun v => if sel v.task = true then { v with discarded := true } else v }) }

/-- The region block that makes a launch's fault domain (R323): the nearest on its chain whose own block sets field 6 (R300). -/
def State.domainOf (s : State) (l : Launch) : Option Nat :=
  if l.fdom then l.chain.find? fun b => (s.byte (b + 8)).getLsbD 6 else none

/-- Discard a fault domain (R323): every task of every launch charged to its subtree, and its pending launches. -/
def State.discardDomain (s : State) (dom id c x : Nat) : State :=
  let hit (l : Launch) := l.chain.contains dom
  let ids := (s.launches.filter hit).map (·.id)
  let s := (s.tasksOf fun t => ids.contains t.launch).foldl (fun s e => if e.1 = c ∧ e.2 = x then s else s.discardTask e.1 e.2) s
  let s := s.discardSaved fun t => ids.contains t.launch
  let s := { s with launches := s.launches.map fun l =>
    if (hit l && l.id != id) = true then
      (match l.state with
        | .running => { l with status := 4 }
        | .ended _ => l
        | _ => { l with status := 4, state := .ended 4 })
    else l }
  s.post ((s.launches.filter fun l => hit l && (match l.state with | .ended _ => true | _ => false)).map fun l => .launchComplete l.id)

/-- What a task's end by fault does to its launch (R323): status FAULTED; after a DOUBLE_FAULT the other tasks of the launch are
discarded, and with a fault domain its whole subtree. -/
def State.faultLaunch (s : State) (c x : Nat) (cause : Cause) : State :=
  match (s.ctx c x).task with
  | none => s
  | some t =>
    let s := { s with launches := s.launches.map fun l => if l.id = t.launch then { l with status := 3 } else l }
    let mine (u : Task) : Bool := u.launch == t.launch
    let s := if cause = .doubleFault then
        ((s.tasksOf mine).foldl (fun s e => if e.1 = c ∧ e.2 = x then s else s.discardTask e.1 e.2) s).discardSaved mine
      else s
    match s.launches.find? fun l => l.id == t.launch with
    | none => s
    | some l => match s.domainOf l with
      | none => s
      | some d => s.discardDomain d t.launch c x

/-- A task ends by fault (R323): it issues nothing more, its commands are cancelled, its launch is faulted. A firmware context,
which holds no task (R312), halts. The dropping of handles and the record follow at TASK_END. -/
def State.endByFault (s : State) (c x : Nat) (cause : Cause) : State :=
  let s := ((s.cancelAll c x).endLeases c x fun _ => true).forgetReply c x
  let s := s.modCtx c x fun k => { k with
    run := if k.task.isSome then .ending else .halted
    faulted := k.faulted.or (some cause), pending := [], busy := [] }
  let s := if cause = .doubleFault then { s with doubleFaults := s.doubleFaults + 1 } else s
  s.faultLaunch c x cause

/-! ### Taking a trap (R321) -/

/-- Handler address of SR_TVEC (R319). -/
def Ctx.handlerVa (x : Ctx) : Word := BitVec.ofNat 64 (x.tvecHandler.toNat * 16)

/-- Window offset of the trap record. -/
def Ctx.recordAt (x : Ctx) : Nat := x.tvecRec.toNat * 64

/-- The record area lies in the window and holds no tagged word. -/
def State.recordOk (s : State) (c x : Nat) : Bool :=
  let k := s.ctx c x
  decide (k.recordAt + 64 ≤ k.winLen) && !(s.core c).lsAnyTag (k.winBase + k.recordAt) 64

/-- The bundle at an address can be fetched (R33, R39, R90). -/
def State.fetchOk (s : State) (c x : Nat) (pc : Word) : Bool :=
  pc.toNat % 16 == 0 && (match s.translate c x .fetch pc.toNat with | .ok _ => true | .error _ => false)

/-- A pass begins: the record with its new mask and count (R118). -/
def LoopRec.pass (l : LoopRec) : LoopRec :=
  let start := decide (0 < l.n.toNat) && !l.drain
  { l with
    mask := ((l.mask <<< 1) ||| (if start then 1 else 0)) &&& BitVec.ofNat 8 (2 ^ (l.stg.toNat + 1) - 1)
    n := if start then l.n - 1 else l.n }

/-- The bundle at an address ends the last pass of a draining loop: at once, or behind loops inside it that share their last bundle with it and end
there too (R119). -/
def endsDrain (pc : Word) : List LoopRec → Bool
  | [] => false
  | l :: r => l.last == pc && l.pass.mask == 0 && (l.drain || endsDrain pc r)

/-- The next bundle is the last before a stop that a draining loop delays: it ends the loop's last pass (R121, R326). -/
def Ctx.lastBeforeStop (x : Ctx) : Bool := x.stop.asked && endsDrain x.pc x.loops

/-- The loops of a context whose stop completes where it stands: none drains any more. -/
def Ctx.drained (x : Ctx) : List LoopRec := x.loops.map fun l => { l with drain := false }

/-- A context enters its handler: the record is written, its granules are full, the handler's first bundle is next (R321). After a precise
trap of the last bundle before a stop, the stop completes there, in handler mode (R326). -/
def State.enterHandler (s : State) (c x : Nat) (t : TrapInfo) (resume : Word) : State :=
  let k := s.ctx c x
  let at_ := k.winBase + k.recordAt
  let ws := t.words resume s.timeDom k.loopWord
  (s.modCore c fun q => (q.putWords at_ ws).fillRange at_ 64).modCtx c x fun k =>
    { k with
      handler := true, handlerDepth := k.loops.length, pc := k.handlerVa
      loops := if t.kind = .precise ∧ k.lastBeforeStop = true then k.drained else k.loops }

/-- A context takes a trap (R321). `resume` is where ERET returns to. -/
def State.takeTrap (s : State) (c x : Nat) (t : TrapInfo) (resume : Word) : State :=
  let s := (s.endLeases c x fun _ => true).forgetReply c x
  let k := s.ctx c x
  if k.handler && t.kind == .precise then s.endByFault c x .doubleFault
  else if k.tvecHandler = 0 then s.endByFault c x t.cause
  else if !s.recordOk c x then s.endByFault c x .doubleFault
  else if !(s.enterHandler c x t resume).fetchOk c x k.handlerVa then (s.enterHandler c x t resume).endByFault c x .doubleFault
  else s.enterHandler c x t resume

/-- A precise trap's report for the bundle in issue (R320): SW_TRAP carries its code instead of an address. -/
def State.preciseInfo (s : State) (c : Cause) (addr : Word) : TrapInfo :=
  { cause := c, kind := .precise, engine := none, slot := s.iss.slot, imm := if c = .swTrap then addr.setWidth 15 else 0, seq := 0,
    pc := s.me.pc, addr := if c = .swTrap then 0 else addr, cancelled := 0, progress := 0, cycle := s.cycle }

/-- Where a precise trap resumes (R320): at its bundle, after it for SW_TRAP. -/
def State.preciseResume (s : State) (c : Cause) : Word := if c = .swTrap then s.me.pc + 16 else s.me.pc

/-- The context in issue takes a precise trap; the issue record says which. -/
def State.trapBundle (s : State) (c : Cause) (addr : Word) : State :=
  let t := s.preciseInfo c addr
  let s' := s.takeTrap s.iss.core s.iss.ctx t (s.preciseResume c)
  { s' with iss := { s.iss with status := .trapped, trap := some t } }

/-- A refusal that returns: a deferred trap (R317). -/
def State.deferred (s : State) (c x : Nat) (cause : Cause) (pc addr : Word) : State :=
  s.modCtx c x fun k => k.pend
    { cause := cause, kind := .deferred, engine := none, slot := 0, imm := 0, seq := 0, pc := pc, addr := addr, cancelled := 0,
      progress := 0, cycle := s.cycle }

/-- The state after a slot has been examined: its effect, the trap it raises, or the wait it begins (R102, R104). -/
def settle (s : State) : Eff State → Out
  | .ok s' => .next s'
  | .error (.trap c a) => .next (s.trapBundle c a)
  | .error (.hold s') => .next { s' with iss := { s'.iss with status := .held } }
  | .error (.block s') => .next { s' with iss := { s'.iss with status := .blocked } }

/-- A slot whose guard reads 0 takes no effect (R91). -/
def guarded (g : BitVec 4) (s : State) (f : State → Eff State) : Out := if s.opP g then settle s (f s) else .next s

/-! ### Order of accesses (R278) -/

/-- Accesses of the context that are not yet performed or acknowledged; one whose trap is pending will not be. -/
def Ctx.accessing (x : Ctx) : Bool := x.loads.any (fun l => l.pa.isSome && !l.refused) || x.remote.any fun l => !l.refused

/-- An acquire of the context is not yet performed. -/
def Ctx.acquiring (x : Ctx) : Bool := x.loads.any (fun l => l.pa.isSome && l.acq && !l.refused) || x.remote.any fun l => l.acq && !l.refused

/-- The scope of the bundle is wider than its context, toward which program order holds anyway: its accesses acquire and release (R276). -/
def State.scoped (s : State) : Bool := s.iss.scope != 0

/-- No access is performed before an earlier acquire of its context (R278, R279): an access waits for it. -/
def afterAcquires (s : State) : Eff Unit := blockIf s.iss.acquiring s

/-- A release is performed after every earlier access of its context. -/
def afterAll (s : State) : Eff Unit := blockIf (s.iss.acquiring || (s.scoped && s.iss.accessing)) s

/-! ### Control transfers (R90, R115, R119) -/

/-- The bundle in issue is the last of the innermost loop's body. -/
def Ctx.atLoopEnd (x : Ctx) : Bool := match x.loops with | [] => false | l :: _ => l.last == x.pc

/-! ### Trace (R337, R338) -/

/-- Record an event and try the trigger: classes 0 branch, 1 mask, 2 memory. A buffer that has its last record takes no more. -/
def Core.note (k : Core) (time : Word) (x cls : Nat) (data : BitVec 40) : Core :=
  match k.trace.look x with
  | none => k
  | some cfg =>
    let put := { k with traceBuf := (⟨time, cls, x, data⟩ :: k.traceBuf).take 4096 }
    let on := cfg.classes.getLsbD cls
    match k.traceState with
    | .frozen => k
    | .counting 0 => k
    | .counting (n + 1) => if on then { put with traceState := .counting n } else k
    | .armed =>
      let k := if on then put else k
      if cfg.trigger = cls ∧ cfg.arg.setWidth 40 = data then { k with traceState := .counting cfg.post } else k

/-- An event of the bundle in issue. Its records are written once the bundle has issued, in slot order (R338). -/
def State.note (s : State) (cls : Nat) (data : Word) : State :=
  { s with iss := { s.iss with notes := s.iss.notes ++ [(cls, data)] } }

/-- The records of the bundle that has issued. -/
def State.flushNotes (s : State) : State :=
  s.modMyCore fun k => s.iss.notes.foldl (fun k e => k.note s.timeDom s.iss.ctx e.1 (e.2.setWidth 40)) k

/-- p0 to p15 of a context as bits 15 to 0 (R338, R327). -/
def Ctx.predicates (x : Ctx) : Nat :=
  1 + ((List.range 7).foldl (fun n k => n + if x.regs.p.get false (k + 1) then 2 ^ (k + 1) else 0) 0) + x.mask.toNat * 256

/-- Record the predicates after the loop engine has changed the stage mask. -/
def State.noteMask (s : State) : State := s.note 1 (BitVec.ofNat 64 s.me.predicates)

/-- A transfer that takes effect after the bundle. Of the two traps LOOP_BAD comes first (log entry 83). -/
def jump (target : Word) (s : State) : Eff State := do
  trapIf s.me.atLoopEnd .loopBad
  trapIf (target.toNat % 16 != 0) .pcAlign
  .ok (({ s with iss := { s.iss with target := some target } }).note 0 target)

/-- Target of BR and CALL: within the 16 MiB block of the bundle (R114). -/
def branchTarget (pc : Word) (off : BitVec 20) : Word := pc.extractLsb' 24 40 ++ (pc.extractLsb' 4 20 + off) ++ 0#4

/-- The resume address in the trap record as it stands (R322). -/
def State.resumeAddr (s : State) : Word :=
  BitVec.ofNat 64 (s.myCore.lsRead (s.me.winBase + s.me.recordAt + 8) 8)

/-- Return from the handler (R125, R322): records pushed since the trap go, handler mode ends, the resume address is next. ERET stands in
slot 0: its trace event comes before those of the later slots (R338). -/
def State.leaveHandler (s : State) : State :=
  let s' := s.modMe fun x => { x with handler := false, loops := x.loops.drop (x.loops.length - x.handlerDepth) }
  { s' with iss := { s'.iss with target := some s.resumeAddr, notes := (0, s.resumeAddr) :: s'.iss.notes } }

/-- A privileged form (R184): PRIV_OP outside a firmware context. -/
def privileged (s : State) : Eff Unit := trapIf (!s.isFirmware s.iss.core s.iss.ctx) .privOp

/-! ### Loops (R116 to R121) -/

/-- begin_pass of the innermost loop (R118): the next address, popped where the loop ends; stopped at the head where it drains. -/
def Ctx.beginPass (x : Ctx) : Ctx :=
  match x.loops with
  | [] => x
  | l :: r =>
    let l' := l.pass
    if l'.mask ≠ 0 then { x with loops := l' :: r, pc := l.head }
    else if 0 < l'.n.toNat then { x with loops := l' :: r, pc := l.head, stop := { x.stop with atHead := true } }
    else { x with loops := r, pc := l.last + 16 }

/-- After the bundle at `pc`: the loops whose bodies end there begin their passes, inner first, while they pop (R119). `fuel` is
the depth of the stack. -/
def Ctx.endBodies (x : Ctx) (pc : Word) : Nat → Ctx
  | 0 => x
  | fuel + 1 =>
    match x.loops with
    | [] => x
    | l :: r =>
      if l.last ≠ pc then x
      else
        let y := x.beginPass
        if y.loops.length = r.length then y.endBodies pc fuel else y

/-! ### Results that arrive later (R97, R289) -/

/-- A variable result reaches its register. -/
def State.deliverResult (s : State) (c x : Nat) (r : Reg) (v : Word) : State :=
  s.modCtx c x fun k =>
    match r with
    | .a n => k.setA n v
    | .b n => if n = 0 then k else k.setB n v
    | .h n => k.setH n (if v = 0 then none else some (Handle.ofWord v))
    | .p n => k.setP n (v.getLsbD 0)
    | .q n => k.setQ n v.toNat

end Sys2Proof.Machine
end

