-- ==== Sys2Proof/Machine/Operands.lean ====
section
/-! DEFINITION. Operand forms: format selectors (R17), regions (R75, R76), local-store addresses (R156, R157), access widths. -/

namespace Sys2Proof.Machine

/-! ### Formats and regions -/

/-- The format word that a selector resolves to in a context (R17). -/
def Ctx.format (x : Ctx) (sel : Nat) : Option (BitVec 16) :=
  if sel < 0x80 then some (BitVec.ofNat 16 sel)
  else if sel < 0x88 then some (x.nfmt.get 0 (sel - 0x80))
  else none

/-- Resolve and check a region descriptor of the context in issue (R75, R76): what fails first is raised precisely. -/
def regionOf (s : State) (w : Word) : Eff Region := do
  let me := s.me
  let count := bits w 36 16
  trapIf (count == 0 || bits w 62 2 != 0) .regionBad
  match me.format (bits w 52 8) with
  | none => .error (.trap .formatInvalid 0)
  | some fw =>
    match elemOf fw with
    | none => .error (.trap .formatInvalid 0)
    | some x =>
      let base := bits w 0 20
      let r : Region := ⟨me.winBase, base, signedOf 16 (bits w 20 16), count, fw, x, w.getLsbD 61, w.getLsbD 60⟩
      trapIf (x.nibbles != 1 && base % (x.nibbles / 2) != 0) .regionAlign (BitVec.ofNat 64 base)
      let a : Int := (2 * base : Nat)
      let b : Int := a + ((count - 1 : Nat) : Int) * r.stride * (x.nibbles : Nat)
      trapIf (decide (min a b < 0) || decide ((2 * me.winLen : Nat) < max a b + (x.nibbles : Nat))) .spanMiss (BitVec.ofNat 64 base)
      .ok r

/-- A local endpoint of a copy (R68): on 16 bytes, inside the window. -/
def localEndpoint (s : State) (off : Word) (len : Nat) : Eff Nat := do
  trapIf (off.toNat % 16 != 0 || len % 16 != 0) .copyAlign off
  trapIf (decide (s.me.winLen < off.toNat + len)) .spanMiss off
  .ok off.toNat

/-- Read element `i` of a region from the local store. -/
def Region.get (r : Region) (k : Core) (i : Nat) : Nat := elemAt k.lsByte r.elem (r.pos i)

/-- Write element `i` of a region; full bits follow R76. -/
def Region.put (r : Region) (k : Core) (i v : Nat) : Core :=
  (elemBytes k.lsByte r.elem (r.pos i) v).foldl (fun k e =>
    let k := k.lsSet e.1 e.2
    if r.keep then k else k.setFull e.1 true) k

/-- The bytes that element `i` touches hold a tagged word (R54). -/
def Region.tagged (r : Region) (k : Core) (i : Nat) : Bool :=
  let p := r.pos i
  k.lsTag (p / 2) || k.lsTag ((p + r.elem.nibbles - 1) / 2)

/-- A source with fe = 1 may be read: every granule that an element touches is full (R77). -/
def Region.ready (r : Region) (k : Core) : Bool :=
  !r.fe || (List.range r.count).all fun i => k.isFull (r.pos i / 2) && k.isFull ((r.pos i + r.elem.nibbles - 1) / 2)

/-! ### Questions to a home (R104 step 4) -/

/-- The questions whose answers can be taken for each other: those that bring words, an acknowledgement or a refusal. -/
def answerBy (kind : Nat) : Nat := if [0, 4, 5, 11, 12, 13].contains kind then 0 else kind

/-- Ask a home once, by an event to its package, and hold until the answer arrives. Where one to an earlier question is still to come by the same
event, hold until it has come. -/
def ask (kind : Nat) (t : BitVec 40) (peer : Nat) (s : State) (e : Instr) : Brk :=
  if (s.me.reply.asked.toList ++ s.me.late).any (fun q => answerBy q.1 == answerBy kind) = true then .hold s
  else .hold ((s.modMe fun x => { x with reply := { x.reply with asked := some (kind, t) } }).deliver peer e)

/-- A question that has served leaves the context free to ask another. -/
def State.asked (s : State) : State := s.modMe fun x => { x with reply := { x.reply with asked := none, refill := false } }

/-- The refill that splits a holder of weight 1 (R51): hold until the home has replied; the split takes it. A refill of another tile, which the
holder had before, goes back; where no holder takes it any more, `commit` gives it back. -/
def needRefill (h : Handle) (s : State) : Eff State :=
  if !h.needsRefill then .ok s
  else match s.me.reply.asked with
  | some (3, t) =>
    if !s.me.reply.refill then .error (.hold s)
    else if t = h.tile then .ok s.asked
    else .error (.hold (s.returnRefill t).asked)
  | _ => .error (ask 3 h.tile (homePeer h.tile) s (.refillRequest h.tile s.peer.toNat s.iss.core s.iss.ctx))

/-! ### Bytes in a REMOTE window (R138, R183, R185) -/

/-- Where a byte of another package lies: its package and its address there. -/
def Xlat.key (x : Xlat) : Nat := x.peer.toNat * 2 ^ 45 + x.pa

/-- What a peer has answered about the word or the block that the bundle asks for now: an answer about another, which its translation named before,
serves no more. -/
def Xlat.answer (x : Xlat) (s : State) : Option Nat := if s.me.reply.block = x.key then s.me.reply.probe else none

/-- The bundle turns to a word or a block of a peer: what is kept of another for it is given up. -/
def Xlat.turn (x : Xlat) (va : Word) (s : State) : State :=
  (s.letGo s.iss.core s.iss.ctx).modMe fun k => { k with reply := { k.reply with block := x.key, va := va, probe := none } }

/-- A block of bytes in a REMOTE window: asked of the peer once, and kept while its bundle is held. A refusal, or a poisoned unit, is a precise
trap. -/
def farBlock (va : Word) (x : Xlat) (n : Nat) (s : State) : Eff (List Byte) :=
  match s.me.reply.got.find? fun b => b.1 == x.key with
  | some b => .ok (b.2.flatMap fun w => toBytes 8 w.toNat)
  | none => match x.answer s with
    | some c => .error (.trap (refusalCause c) va)
    | none => .error (ask 4 (BitVec.ofNat 40 x.pa) x.peer.toNat (x.turn va s)
        (.remoteAccess s.peer.toNat s.iss.core s.iss.ctx (9 + 16 * 8) x.pa 0 0 s.me.pc n []))

/-- A range of bytes at home or in a REMOTE window, read for a bundle (R39, R33): of this package once its homes can take it. -/
def readBlock (va : Word) (x : Xlat) (n : Nat) (s : State) : Eff (List Byte × State) :=
  if x.mode = .localWin then do
    rangeReady false x.pa n s
    trapIf (s.poisoned x.pa n) .memUncorr va
    let s := s.takeRange x.pa n
    .ok (s.readBytes x.pa n, s)
  else (farBlock va x n s).map fun bs => (bs, s)

/-! ### Scalar accesses (R156, R157) -/

/-- A window offset that passes the checks 1 and 2 of R157, as a byte of the local store. -/
def lsAddr (s : State) (ea : Word) (size : Nat) : Eff Nat := do
  trapIf (ea.toNat % size != 0) .misalign ea
  trapIf (decide (s.me.winLen < ea.toNat + size)) .spanMiss ea
  .ok (s.me.winBase + ea.toNat)

/-- Effective address of the offset forms (R156). -/
def offsetEa (base : Word) (off : BitVec 12) (size : Nat) : Word := base + off.signExtend 64 * BitVec.ofNat 64 size

/-- Effective address of LDH, LDHD and STH (R156). -/
def handleEa (base : Word) (off : BitVec 6) : Word := base + off.signExtend 64 * 8

/-- What a load of `size` bytes makes of them (R158). -/
def widen (signed : Bool) (size v : Nat) : Word := extend signed (8 * size) (BitVec.ofNat 64 v)

end Sys2Proof.Machine
end

