-- ==== Sys2Proof/Machine/Flags.lean ====
section
/-! DEFINITION. Every flag computation: the scalar flags (R27, R28, R149 to R153), the lane flags of the vector engines (R29, R196). -/

namespace Sys2Proof.Machine

/-- Read the low 32 bits of a register as FP32 (R149). -/
def f32 (w : Word) : Num := fp32.decode (w.toNat % 2 ^ 32)

/-- Result and flags of a rounding scalar form in FP32 (R150), zero-extended. -/
def finish32 (rm : Rm) (v : Num × Flags) : Word × Flags :=
  let r := fp32.finish rm v
  (BitVec.ofNat 64 r.1, r.2)

/-- NV of the forms that quiet comparisons and minima raise: a signalling NaN operand (R151, R152). -/
def flagSignalling (a b : Num) : Flags := flagIf (a.signalling || b.signalling) flagNV

/-- NV of the ordered comparisons: any NaN operand (R152). -/
def flagAnyNan (a b : Num) : Flags := flagIf (a.isNan || b.isNan) flagNV

/-- OR flags into a vector lane (R29): element `i` goes to lane `i` mod 256. -/
def Ctx.raiseLane (x : Ctx) (i : Nat) (f : Flags) : Ctx :=
  if f = 0 then x else { x with vflags := x.vflags.set 0 (i % 256) (x.vflags.get 0 (i % 256) ||| f) }

/-- OR the flags of a whole command into the lanes, unless it is quiet. -/
def Ctx.raiseLanes (x : Ctx) (quiet : Bool) (fs : List (Nat × Flags)) : Ctx :=
  if quiet then x else fs.foldl (fun x e => x.raiseLane e.1 e.2) x

end Sys2Proof.Machine
end

