-- ==== Sys2Proof/Machine/Sysreg.lean ====
section
/-! DEFINITION. The system registers (R137): which exist, who may write them, their values and the effect of a write (R136). -/

namespace Sys2Proof.Machine

/-- A number of R137. -/
def srKnown (n : Nat) : Bool :=
  decide (n ≤ 0x00A) || decide (0x010 ≤ n ∧ n ≤ 0x017) || [0x020, 0x028, 0x029, 0x030, 0x040, 0x048, 0x050, 0x051].contains n

/-- Writable by any context. -/
def srAny (n : Nat) : Bool := n == 0x008 || n == 0x009 || decide (0x010 ≤ n ∧ n ≤ 0x017) || n == 0x029

/-- Writable by a firmware context besides. -/
def srFirmware (n : Nat) : Bool := [0x005, 0x006, 0x007, 0x020, 0x030, 0x040, 0x050, 0x051].contains n

/-- SR_TVEC (R319). -/
def Ctx.tvec (x : Ctx) : Word := BitVec.ofNat 64 (x.tvecRec.toNat * 2 ^ 50 + x.tvecHandler.toNat * 16)

/-- SR_LSBASE and SR_LSLEN (R74). -/
def Ctx.lsbaseWord (x : Ctx) : Word := BitVec.ofNat 64 (x.lsbase.toNat * 4096)
def Ctx.lslenWord (x : Ctx) : Word := BitVec.ofNat 64 (x.lslen.toNat * 4096)

/-- SR_SLIP of a die (R41). -/
def State.slipWord (s : State) (die : Nat) : Word :=
  let e := s.slips.get (0, 0) die
  BitVec.ofNat 64 (e.1.toNat * 2 ^ 48 + e.2 % 2 ^ 48)

/-- SR[n] as a context of a core reads it; 0 for a number that R137 does not list. -/
def State.readSr (s : State) (c x n : Nat) : Word :=
  let k := s.ctx c x
  if 0x010 ≤ n ∧ n ≤ 0x017 then (k.nfmt.get 0 (n - 0x010)).setWidth 64
  else match n with
  | 0x000 => Config.devid
  | 0x001 => s.coreId c x
  | 0x002 => k.rank.setWidth 64
  | 0x003 => k.nranks.setWidth 64
  | 0x004 => k.argp
  | 0x005 => k.asid.setWidth 64
  | 0x006 => k.lsbaseWord
  | 0x007 => k.lslenWord
  | 0x008 => k.fflags.setWidth 64
  | 0x009 => if k.check then 1 else 0
  | 0x00A => k.loopWord
  | 0x020 => k.tvec
  | 0x028 => k.gstat
  | 0x029 => k.gtimeout.setWidth 64
  | 0x030 => s.leasemax.setWidth 64
  | 0x040 => (s.core c).barcfg.setWidth 64
  | 0x048 => s.slipWord (dieOf c)
  | 0x050 => BitVec.ofNat 64 (s.fwLen.toNat * 256 + if s.fwEn then 1 else 0)
  | 0x051 => s.fwShare.setWidth 64
  | _ => 0

/-! ### The firmware settings (R311, R312) -/

def Core.holdsTask (k : Core) : Bool := k.ctxs.any fun e => e.2.task.isSome

/-- ctx3 of a core other than core 0 becomes a firmware context, which boots, or stops being one: it issues no more, and TASK_END drops its
handles and frees it (log entry 11). One that is still ending boots then. -/
def State.switchFw (s : State) (c : Nat) : State :=
  if c = 0 then s
  else if s.fwEn = false then
    (s.forgetReply c 3).modCtx c 3 fun k => { k with run := .ending, loops := [], pending := [] }
  else if (s.ctx c 3).run = .ending then s
  else s.modCore c fun k => { k with ctxs := k.ctxs.put 3 Ctx.boot }

/-- A write of SR_FW: cores that hold a task keep the old setting until they hold none. -/
def State.setFw (s : State) (en : Bool) (len : BitVec 8) : State :=
  let old := (s.fwEn, s.fwLen)
  let s := { s with
    fwEn := en, fwLen := len
    cores := s.cores.map fun e => (e.1, if e.2.holdsTask = true then { e.2 with fwOld := some (e.2.fwOld.getD old) } else e.2) }
  if en = old.1 then s
  else (List.range 256).foldl (fun s c => if (s.core c).fwOld.isSome then s else s.switchFw c) s

/-- A core that holds no task any more takes the setting in force. -/
def State.settleFw (s : State) (c : Nat) : State :=
  match (s.core c).fwOld with
  | none => s
  | some old =>
    if (s.core c).holdsTask then s
    else
      let s := s.modCore c fun k => { k with fwOld := none }
      if old.1 = s.fwEn then s else s.switchFw c

/-! ### Writes (R136) -/

/-- SR[n] := v for a context of a core that may write it: RW fields take the bits written, the others ignore them. A window written past the
local store (R74) names bytes that no other offset names (log entry 12). -/
def State.writeSr (s : State) (c x n : Nat) (v : Word) : State :=
  if 0x010 ≤ n ∧ n ≤ 0x017 then s.modCtx c x fun k => { k with nfmt := k.nfmt.set 0 (n - 0x010) (v.setWidth 16) }
  else match n with
  | 0x005 => s.modCtx c x fun k => { k with asid := v.setWidth 12 }
  | 0x006 => s.modCtx c x fun k => { k with lsbase := v.extractLsb' 12 8 }
  | 0x007 => s.modCtx c x fun k => { k with lslen := v.extractLsb' 12 9 }
  | 0x008 => s.modCtx c x fun k => { k with fflags := v.setWidth 5 }
  | 0x009 => s.modCtx c x fun k => { k with check := v.getLsbD 0 }
  | 0x020 => s.modCtx c x fun k => { k with tvecRec := v.extractLsb' 50 14, tvecHandler := v.extractLsb' 4 36 }
  | 0x029 => s.modCtx c x fun k => { k with gtimeout := v.setWidth 32 }
  | 0x030 => { s with leasemax := if 512 < bits v 0 10 then 512 else v.setWidth 10 }
  | 0x040 => s.modCore c fun k => { k with barcfg := v.setWidth 48 }
  | 0x050 => s.setFw (v.getLsbD 0) (v.extractLsb' 8 8)
  | 0x051 =>
    let d := bits v 0 7
    { s with fwShare := if d < 2 then 2 else if 64 < d then 64 else BitVec.ofNat 7 d }
  | _ => s

end Sys2Proof.Machine
end

