-- ==== Sys2Proof/Machine/Control.lean ====
section
/-! DEFINITION. The header and the control forms (R93 to R96, R113 to R138). -/

namespace Sys2Proof.Machine

/-! ### Header and NOP -/

/-- The header (R93 to R96): its wait, its scope, its stall count, its change of the flag. -/
def execHdr (_l1 _l2 _l3 : BitVec 6) (stall scope : BitVec 3) (sync : BitVec 2) (q : BitVec 4) (st : State) : Out :=
  settle st do
    let v := st.opQ q
    blockIf ((sync == 1 || sync == 2) && v == 0) st
    let s := { st with iss := { st.iss with scope := scope } }
    let s := s.modMe fun x => { x with readyAt := st.cycle + stall.toNat + 1 }
    .ok (match sync.toNat with
      | 2 => s.wrQ q (v - 1)
      | 3 => s.wrQ q (satAdd16 v 1)
      | _ => s)

/-- NOP has no effect (R122). -/
def execNop (g : BitVec 4) (st : State) : Out := guarded g st fun s => .ok s

/-! ### Transfers (R114, R115) -/

def execBr (g : BitVec 4) (off : BitVec 20) (st : State) : Out :=
  guarded g st fun s => jump (branchTarget s.me.pc off) s

def execBrx (g : BitVec 4) (d s : BitVec 5) (st : State) : Out :=
  guarded g st fun z => (jump (z.opA s) z).map fun y => y.wrA d (z.me.pc + 16) 1

def execCall (g : BitVec 4) (off : BitVec 20) (st : State) : Out :=
  guarded g st fun s => (jump (branchTarget s.me.pc off) s).map fun y => y.wrA 31 (s.me.pc + 16) 1

def execRet (g : BitVec 4) (s : BitVec 5) (st : State) : Out := guarded g st fun z => jump (z.opA s) z

/-! ### Loops (R117 to R119) -/

/-- Write back what the loop engine has decided: the stack, a stop at the head, the next address. -/
def State.setLoops (s : State) (y : Ctx) : State :=
  let s := s.modMe fun k => { k with loops := y.loops, stop := y.stop }
  ({ s with iss := { s.iss with target := some y.pc } }).noteMask

/-- LOOP and LOOPX (R117). A loop of no iterations makes no pass and goes on after its body (R118). -/
def startLoop (stg : BitVec 3) (n : Word) (len : BitVec 7) (s : State) : Eff State := do
  let me := s.me
  let last := me.pc + BitVec.ofNat 64 (16 * len.toNat)
  trapIf (len == 0 || decide (2 ^ 32 - 1 < n.toNat)) .loopBad
  trapIf (decide (4 ≤ me.loops.length)) .loopDepth
  trapIf (match me.loops with | [] => false | l :: _ => decide (l.last.toNat < last.toNat)) .loopBad
  .ok (s.setLoops ({ me with loops := ⟨me.pc + 16, last, stg, n.setWidth 32, 0, false⟩ :: me.loops }).beginPass)

def execLoop (g : BitVec 4) (stg : BitVec 3) (cnt : BitVec 10) (len : BitVec 7) (st : State) : Out :=
  guarded g st fun s => startLoop stg (cnt.setWidth 64) len s

def execLoopx (g : BitVec 4) (stg : BitVec 3) (c : BitVec 5) (len : BitVec 7) (st : State) : Out :=
  guarded g st fun s => startLoop stg (s.opA c) len s

/-- LBRK (R119): the record that ends with the same bundle takes its pass in the same step. -/
def execLbrk (g : BitVec 4) (st : State) : Out :=
  guarded g st fun s => match s.me.loops with
    | [] => .error (.trap .loopBad 0)
    | l :: r => .ok (s.setLoops (({ s.me with loops := r, pc := l.last + 16 }).endBodies s.me.pc r.length))

/-! ### Stopping, trapping, yielding (R122 to R127) -/

/-- HALT (R123): the context issues no more; a firmware context, which holds no task, is then halted. -/
def execHalt (g : BitVec 4) (st : State) : Out :=
  guarded g st fun s => .ok (s.modMe fun k => { k with run := if k.task.isSome then .ending else .halted, loops := [] })

/-- TRAP (R124). -/
def execTrap (g : BitVec 4) (imm : BitVec 15) (st : State) : Out :=
  guarded g st fun _ => .error (.trap .swTrap (imm.setWidth 64))

/-- ERET (R125): the return itself follows the bundle's effects. Outside the handler PRIV_OP comes before LOOP_BAD (log entry 83). -/
def execEret (g : BitVec 4) (st : State) : Out :=
  guarded g st fun s => do
    trapIf (!s.me.handler) .privOp
    trapIf s.me.atLoopEnd .loopBad
    .ok { s with iss := { s.iss with eret := true } }

/-- YIELD (R126). -/
def execYield (g : BitVec 4) (st : State) : Out :=
  guarded g st fun s => .ok (s.modMe fun k => { k with yielded := true })

/-- DRAIN (R127). -/
def execDrain (g : BitVec 4) (st : State) : Out :=
  guarded g st fun s => do
    blockIf (!(s.cmdsOf s.iss.core s.iss.ctx).isEmpty || !s.me.drops.isEmpty || s.me.accessing || !s.me.rposts.isEmpty) s
    .ok s

/-! ### Counting flags (R128 to R132) -/

/-- The amount of a flag form. -/
def flagAmount (s : State) (r : BitVec 5) (imm : BitVec 8) : Word := s.opA r + imm.setWidth 64

/-- WAIT: its amount must fit a flag, its condition must hold. -/
def waitFlag (s : State) (q : BitVec 4) (v : Word) (holds : Nat → Nat → Bool) : Eff State := do
  trapIf (decide (0xFFFF < v.toNat)) .flagRange
  blockIf (!holds (s.opQ q) v.toNat) s
  .ok s

def execWaitGe (g q : BitVec 4) (s : BitVec 5) (imm : BitVec 8) (st : State) : Out :=
  guarded g st fun z => waitFlag z q (flagAmount z s imm) fun f v => decide (v ≤ f)

def execWaitEq (g q : BitVec 4) (s : BitVec 5) (imm : BitVec 8) (st : State) : Out :=
  guarded g st fun z => waitFlag z q (flagAmount z s imm) fun f v => f == v

def execWaitTake (g q : BitVec 4) (s : BitVec 5) (imm : BitVec 8) (st : State) : Out :=
  guarded g st fun z => (waitFlag z q (flagAmount z s imm) fun f v => decide (v ≤ f)).map fun y =>
    y.wrQ q (z.opQ q - (flagAmount z s imm).toNat)

def execPostInc (g q : BitVec 4) (s : BitVec 5) (imm : BitVec 8) (st : State) : Out :=
  guarded g st fun z => .ok (z.wrQ q (satAdd16 (z.opQ q) (flagAmount z s imm).toNat))

def execPostSet (g q : BitVec 4) (s : BitVec 5) (imm : BitVec 8) (st : State) : Out :=
  guarded g st fun z => .ok (z.wrQ q (Nat.min (flagAmount z s imm).toNat 0xFFFF))

/-- The context that a word names with the layout of SR_COREID: package, context, core. -/
def rpostTarget (t : Word) : Nat := bits t 24 14 * 1024 + bits t 8 2 * 256 + bits t 0 8

/-- The sender's checks of a peer (R39, R130, R226). -/
def peerChecks (p : Nat) (s : State) : Eff Unit := do
  trapIf (s.peerAbsent p) .peerAbsent
  trapIf (!s.peerAllowed p) .peerDenied

/-- RPOST (R130, R132): it leaves once the context's earlier accesses are performed and its earlier RPOST to the same context is acknowledged. -/
def execRpost (g q : BitVec 4) (s : BitVec 5) (imm : BitVec 8) (st : State) : Out :=
  guarded g st fun z => do
    let t := z.opA s
    peerChecks (bits t 24 14) z
    blockIf (decide (Config.maxRposts ≤ z.me.rposts.length) || z.me.rposts.contains (rpostTarget t) || z.me.accessing) z
    let y := z.modMe fun k => { k with rposts := k.rposts ++ [rpostTarget t] }
    .ok (y.deliver (bits t 24 14)
      (.rpostArrival z.peer.toNat z.iss.core z.iss.ctx (bits t 0 8) (bits t 8 2) q.toNat imm.toNat z.me.pc))

/-! ### Barriers and fences (R81, R82, R133, R134) -/

/-- The course bit and the participants minus one of a unit in SR_BARCFG. -/
def Core.barCourse (k : Core) (unit : Nat) : Bool := k.barcfg.getLsbD (6 * unit + 5)
def Core.barN (k : Core) (unit : Nat) : Nat := (k.barcfg.extractLsb' (6 * unit) 5).toNat

/-- The barrier that a context of a core uses as unit `k` (R81). -/
def State.barrier (s : State) (c unit : Nat) : Barrier :=
  if (s.core c).barCourse unit then s.courseBars.get ⟨0, false⟩ (8 * courseOf c + unit) else (s.core c).bars.get ⟨0, false⟩ unit

/-- BARJ: the arrival follows the context's earlier accesses; the generation now in force is the one that BARW compares. -/
def execBarj (g : BitVec 4) (k : BitVec 3) (st : State) : Out :=
  guarded g st fun s =>
    let gen := (s.barrier s.iss.core k.toNat).gen
    .ok ((s.modMe fun x => { x with barGen := x.barGen.set false k.toNat gen }).post
      [.barrierArrival s.iss.core s.iss.ctx k.toNat])

def execBarw (g : BitVec 4) (k : BitVec 3) (st : State) : Out :=
  guarded g st fun s => do
    blockIf ((s.barrier s.iss.core k.toNat).gen == s.me.barGen.get false k.toNat) s
    .ok s

/-- FENCE (R134): every access that is not yet performed is waited for. -/
def fence (s : State) : Eff State := do
  blockIf s.me.accessing s
  .ok s

def execFenceFull (g : BitVec 4) (_c : BitVec 3) (st : State) : Out := guarded g st fence
def execFenceAcq (g : BitVec 4) (_c : BitVec 3) (st : State) : Out := guarded g st fence
def execFenceRel (g : BitVec 4) (_c : BitVec 3) (st : State) : Out := guarded g st fence

/-! ### Time and system registers (R135, R136) -/

def execTimeDom (g : BitVec 4) (d : BitVec 5) (st : State) : Out := guarded g st fun s => .ok (s.wrA d s.timeDom 2)

def execTimeCyc (g : BitVec 4) (d : BitVec 5) (st : State) : Out :=
  guarded g st fun s => .ok (s.wrA d (BitVec.ofNat 64 s.cycle) 2)

/-- A GMMA of the context in issue has not completed (R242). -/
def State.gmmaPending (s : State) : Bool :=
  (s.cmdsOf s.iss.core s.iss.ctx).any fun c => match c.op with | .gmma _ => true | _ => false

def execRdsr (g : BitVec 4) (d : BitVec 5) (sr : BitVec 12) (st : State) : Out :=
  guarded g st fun s => do
    trapIf (!srKnown sr.toNat) .srUndef
    blockIf ((sr == 0x028 && s.gmmaPending) || (sr == 0x008 && !s.me.lateFlags.isEmpty)) s
    .ok (s.wrA d (s.readSr s.iss.core s.iss.ctx sr.toNat) 2)

/-- WRSR: SR_FFLAGS is written before this bundle's own flags are raised, the other registers for later bundles. -/
def execWrsr (g : BitVec 4) (d : BitVec 5) (sr : BitVec 12) (st : State) : Out :=
  guarded g st fun s => do
    trapIf (!srKnown sr.toNat) .srUndef
    trapIf (!(srAny sr.toNat || (srFirmware sr.toNat && s.isFirmware s.iss.core s.iss.ctx))) .privSr
    blockIf (sr == 0x008 && !s.me.lateFlags.isEmpty) s
    if sr = 0x008 then .ok (s.writeSr s.iss.core s.iss.ctx 0x008 (s.opA d))
    else .ok { s with iss := { s.iss with wrsr := some (sr, s.opA d) } }

/-! ### LAUNCH (R138) -/

/-- The process whose turn a context runs in; a firmware context has none. -/
def State.procOf (s : State) (c x : Nat) : Option Nat :=
  match (s.ctx c x).task with
  | none => none
  | some t => (s.launches.find? fun l => l.id == t.launch).map (·.proc)

/-- Ring size in entries and full test of a queue slot (R308). -/
def QSlot.size (q : QSlot) : Nat := 2 ^ (q.lgsize.toNat + 4)
def QSlot.fill (q : QSlot) : Nat := (q.tail - q.head).toNat

/-- PA of the ring entry of an index. -/
def QSlot.entry (q : QSlot) (i : Nat) : Nat := q.base.toNat * 128 + 128 * (i % q.size)

def State.qslot (s : State) (n : Nat) : QSlot := s.slots.get ⟨0, false, 0, 0, 0, 0⟩ n

/-- A new tail for a slot, from the host (R330): it takes effect between the current one and a full ring. -/
def State.ringDoorbell (s : State) (slot : Nat) (t : BitVec 24) : State :=
  let q := s.qslot slot
  if (t - q.tail).toNat ≤ q.size - q.fill then { s with slots := s.slots.put slot { q with tail := t } }
  else { s with badDoorbells := s.badDoorbells + 1 }

/-- Offset of a slot's doorbell in the memory BAR (R330). -/
def doorbellOff (slot : Nat) : Nat := 0x1000 + 8 * slot

/-- The new tail that a doorbell write of a slot carries. -/
def doorbellTail (slot : Nat) : Instr → Option (BitVec 24)
  | .doorbell off w => if off = doorbellOff slot then some (w.setWidth 24) else none
  | _ => none

/-- The host's writes of a slot that come in the cycle of a LAUNCH come first (R315; log entry 95). -/
def State.hostFirst (s : State) (slot : Nat) : State :=
  (s.agenda.filterMap (doorbellTail slot)).foldl (fun s t => s.ringDoorbell slot t)
    { s with agenda := s.agenda.filter fun e => (doorbellTail slot e).isNone }

/-- LAUNCH (R138), for a ring whose entries exist. -/
def launchForm (g : BitVec 4) (d s t : BitVec 5) (st : State) : Out :=
  guarded g st fun z => do
    let va := z.opA s
    let n := (z.opA t).toNat
    trapIf (bits va 0 7 != 0) .launchAlign va
    let (x, z) ← xlate .load va z
    trapIf (x.cls != .mortar) .pageClass va
    trapIf (x.mode == .localWin && isHubSpace x.pa) .pageClass va
    blockIf z.me.accessing z
    let (pkt, z) ← readBlock va x 128 z
    trapIf (decide (63 < n) || !(z.qslot n).mapped || z.procOf z.iss.core z.iss.ctx != some (z.qslot n).proc.toNat) .launchQueue
    let z := z.hostFirst n
    let q := z.qslot n
    if q.fill = q.size then .ok (z.wrA d 0 1)
    else do
      let at_ := q.entry q.tail.toNat
      rangeReady true at_ 128 z
      let parent := match z.me.task with | none => 0 | some k => k.launch
      let z := (z.deviceWrite at_ pkt).writeNat (at_ + 104) 8 parent
      .ok (({ z with slots := z.slots.put n { q with tail := q.tail + 1 } }).wrA d 1 1)

/-- A LAUNCH that would write a ring entry at an address that names no frame stops the machine (R30). -/
def execLaunch (g : BitVec 4) (d s t : BitVec 5) (st : State) : Out :=
  let n := (st.opA t).toNat
  let q := (st.hostFirst n).qslot n
  match launchForm g d s t st with
  | .next s' =>
    if st.opP g ∧ s'.iss.status = .ok ∧ (s'.qslot n).tail = q.tail + 1 ∧ paExists (q.entry q.tail.toNat) = false then
      .fault (.noFrame (q.entry q.tail.toNat))
    else .next s'
  | o => o

end Sys2Proof.Machine
end

