-- ==== Sys2Proof/Machine/Hub.lean ====
section
/-! DEFINITION. The hub control space (R308, R309): its words as a firmware context reads and writes them. -/

namespace Sys2Proof.Machine

/-- Words 0 and 1 of a queue slot (R308). -/
def QSlot.word0 (q : QSlot) : Word := BitVec.ofNat 64 (q.base.toNat * 128)
def QSlot.word1 (q : QSlot) : Word :=
  BitVec.ofNat 64 ((if q.mapped then 2 ^ 63 else 0) + q.lgsize.toNat * 2 ^ 59 + q.proc.toNat * 2 ^ 51 + q.tail.toNat * 2 ^ 24 + q.head.toNat)

/-- 64 bits of a map from bit `first` on; bits from 10,000 on do not exist. -/
def mapWord (t : Tab Bool) (first : Nat) : Word :=
  BitVec.ofNat 64 ((List.range 64).foldl (fun n k => n + if first + k < 10000 ∧ t.get false (first + k) = true then 2 ^ k else 0) 0)

def setMapWord (t : Tab Bool) (first : Nat) (v : Word) : Tab Bool :=
  (List.range 64).foldl (fun t k => if first + k < 10000 then t.set false (first + k) (v.getLsbD k) else t) t

/-- The bits of a cabling word and of an export entry that hold something. -/
def cablingBits (v : Word) : Word := BitVec.ofNat 64 (bits v 63 1 * 2 ^ 63 + bits v 4 14 * 16 + bits v 0 4)
def exportBits (v : Word) : Word := BitVec.ofNat 64 (bits v 16 48 * 65536)

/-- The word at an offset of the hub control space; offsets not listed read as zero. What the residency-answer word reads as is not
given (log entry 13). -/
def State.hubRead (s : State) (off : Nat) : Word :=
  if off < 0x400 then (if off % 16 = 0 then (s.qslot (off / 16)).word0 else (s.qslot (off / 16)).word1)
  else if 0x1000 ≤ off ∧ off < 0x1000 + 1256 then mapWord s.partition ((off - 0x1000) * 8)
  else if 0x1800 ≤ off ∧ off < 0x1A00 then s.exports.get 0 ((off - 0x1800) / 8)
  else if 0x2000 ≤ off ∧ off < 0x2060 then s.cabling.get 0 ((off - 0x2000) / 8)
  else if 0x2800 ≤ off ∧ off < 0x2800 + 1256 then mapWord s.population ((off - 0x2800) * 8)
  else if off = 0x3000 then s.resTail.setWidth 64
  else if off = 0x3008 then s.resHead.setWidth 64
  else if off = 0x3010 then BitVec.ofNat 64 (Config.freeNat s.freeUse)
  else if 0x4000 ≤ off ∧ off < 0x5000 then
    let e := s.resRing.get (0, 0, 0, 0) ((off - 0x4000) / 16)
    if off % 16 = 0 then BitVec.ofNat 64 (e.1 % 2 ^ 32 + e.2.1 % 2 ^ 16 * 2 ^ 32 + e.2.2.1 % 16 * 2 ^ 48) else BitVec.ofNat 64 e.2.2.2
  else 0

/-- Residency requests enter the ring while it has room; the others are held (R309). `fuel` is the number of requests. -/
def State.flushResidency (s : State) : Nat → State
  | 0 => s
  | n + 1 =>
    match s.resHeld with
    | [] => s
    | e :: r =>
      if 256 ≤ (s.resTail - s.resHead).toNat then s
      else ({ s with resRing := s.resRing.set (0, 0, 0, 0) (s.resTail.toNat % 256) e, resTail := s.resTail + 1, resHeld := r }).flushResidency n

/-- A write of a hub word. A slot opens only once a feature word is accepted (R331); the residency answer acts as events. -/
def State.hubWrite (s : State) (off : Nat) (v : Word) : State :=
  if off < 0x400 then
    let n := off / 16
    let q := s.qslot n
    if off % 16 = 0 then { s with slots := s.slots.put n { q with base := v.extractLsb' 7 57 } }
    else { s with slots := s.slots.put n { q with
      mapped := v.getLsbD 63 && s.accepted.isSome
      lgsize := if 8 < bits v 59 4 then 8 else v.extractLsb' 59 4
      proc := v.extractLsb' 51 8 } }
  else if 0x1000 ≤ off ∧ off < 0x1000 + 1256 then { s with partition := setMapWord s.partition ((off - 0x1000) * 8) v }
  else if 0x1800 ≤ off ∧ off < 0x1A00 then { s with exports := s.exports.set 0 ((off - 0x1800) / 8) (exportBits v) }
  else if 0x2000 ≤ off ∧ off < 0x2060 then { s with cabling := s.cabling.set 0 ((off - 0x2000) / 8) (cablingBits v) }
  else if 0x2800 ≤ off ∧ off < 0x2800 + 1256 then { s with population := setMapWord s.population ((off - 0x2800) * 8) v }
  else if off = 0x3008 then ({ s with resHead := v.setWidth 16 }).flushResidency s.resHeld.length
  else if off = 0x3010 then
    s.post [if v.getLsbD 63 then .residencyDiscard (bits v 0 32) else .residencyAnswer (bits v 0 32)]
  else s

/-- Offset of a physical address in its frame. -/
def paOff (pa : Nat) : Nat := pa % 2 ^ 21

end Sys2Proof.Machine
end

