-- ==== Sys2Proof/Machine/MortarMem.lean ====
section
/-! DEFINITION. Mortar memory from slot 2 (R160 to R169): loads, stores, atomics, combining adds, leases, snapshots, handles in
memory. -/

namespace Sys2Proof.Machine

/-! ### Translation and the hub control space -/

/-- A mortar access: aligned, translated, of an allowed class (R157). -/
def mortarAddr (a : Access) (ea : Word) (size : Nat) (s : State) : Eff (Xlat × State) := do
  trapIf (ea.toNat % size != 0) .misalign ea
  xlate a ea s

/-- The access reaches the hub control space (R309). -/
def Xlat.hub (x : Xlat) : Bool := x.mode == .localWin && isHubSpace x.pa

/-- A form that may not name the hub control space. -/
def notHub (x : Xlat) (ea : Word) : Eff Unit := trapIf x.hub .pageClass ea

/-! ### REMOTE windows (R37, R289) -/

/-- Kind of a remote access in its message. -/
def RemoteOp.code : RemoteOp → Nat
  | .load => 0 | .store => 1 | .atomic => 2 | .cadd => 3 | .sth => 4 | .ldh => 5 | .ldhd => 6

/-- Number of a register in a result message. -/
def Reg.num : Reg → Nat
  | .a n => n | .b n => n | .h n => n | .p n => n | .q n => n

/-- An access of this kind is an acquire (R278). -/
def RemoteOp.acquires (op : RemoteOp) : Bool := op == .load || op == .atomic || op == .ldh || op == .ldhd

/-- The access of the bundle in issue as its context remembers it. -/
def farAcc (op : RemoteOp) (va : Word) (size : Nat) (signed : Bool) (dst : Option Reg) (s : State) : RemoteAcc :=
  { op := op, pc := s.me.pc, va := va, dst := dst, size := size, signed := signed, bundle := s.me.bundle, acq := op.acquires && s.scoped,
    refused := false }

/-- Send an access to the peer of its window; its result, if any, is variable. By its bundle number the access is known in the answer. -/
def remoteAccess (op : RemoteOp) (va : Word) (x : Xlat) (size : Nat) (signed : Bool) (fn : Nat) (dst : Option Reg) (p q : Word)
    (s : State) : State :=
  (s.modMe fun k => { k with
    remote := k.remote ++ [farAcc op va size signed dst s], reply := { k.reply with kept := none } }).deliver x.peer.toNat
    (.remoteAccess s.peer.toNat s.iss.core s.iss.ctx (op.code + 16 * size + 256 * fn) x.pa p q s.me.pc
      (64 * s.me.bundle + match dst with | some r => r.num | none => 0) [])

/-- A denied access (R289): it goes no further; its trap is deferred, and a reader of its destination waits until then (R317). -/
def deniedAccess (op : RemoteOp) (va : Word) (size : Nat) (signed : Bool) (dst : Option Reg) (s : State) : State :=
  (s.modMe fun k => { k with remote := k.remote ++ [{ farAcc op va size signed dst s with refused := true }] }).deferred s.iss.core s.iss.ctx
    .remoteDenied s.me.pc va

/-- Order of an access through a REMOTE window (R278). -/
def farOrder (op : RemoteOp) (s : State) : Eff Unit := if op = .load then afterAcquires s else afterAll s

/-- An access through a REMOTE window: the bundle is held until the peer has said whether one of the form's own checks refuses it, which is a
precise trap (R157). The home keeps the line of the word from then on, so that the access finds it as the check did. A denial is not precise: the
bundle issues, and its trap is deferred (R289, R317; log entry 27). -/
def farAccess (op : RemoteOp) (va : Word) (x : Xlat) (size : Nat) (signed : Bool) (fn : Nat) (dst : Option Reg) (p q : Word)
    (s : State) : Eff State :=
  match x.answer s with
  | some c =>
    if c = 0 then (farOrder op s).map fun _ => (remoteAccess op va x size signed fn dst p q s).note 2 va
    else if refusalCause c = .remoteDenied then (farOrder op s).map fun _ => (deniedAccess op va size signed dst s).note 2 va
    else .error (.trap (refusalCause c) va)
  | none => .error (ask 11 (BitVec.ofNat 40 x.pa) x.peer.toNat (x.turn va s)
      (.remoteAccess s.peer.toNat s.iss.core s.iss.ctx (10 + 16 * size + 256 * (op.code + 16 * fn)) x.pa p q s.me.pc 0 []))

/-! ### Loads (R160, R262) -/

/-- Hold until the line is readable in the core's L1 and no other context of the core leases it. -/
def readLine (pa : Nat) (s : State) : Eff Unit :=
  let line := lineOf pa
  if s.leasedByOther s.iss.core s.iss.ctx line then .error (.hold s)
  else match s.l1 s.iss.core line with
  | none => .error (.hold (s.fetchLine s.iss.core line .S))
  | some l => if l.stable then (if l.state = LineState.U then .error (.hold (s.request s.iss.core line .S)) else .ok ()) else .error (.hold s)

/-- A load of a local line: at once from a readable line, else when the line arrives. A line on its way to U is waited for. -/
def loadLine (d : BitVec 5) (va : Word) (pa size : Nat) (signed : Bool) (s : State) : Eff State :=
  let line := lineOf pa
  let c := s.iss.core
  let late : PendLoad :=
    { dst := .b d.toNat, pc := s.me.pc, va := va, pa := some pa, size := size, signed := signed, bundle := s.me.bundle, acq := s.scoped,
      refused := false }
  let wait (s : State) : State := s.modMe fun k => { k with loads := k.loads ++ [late] }
  if s.leasedByOther c s.iss.ctx line then .error (.hold s)
  else match s.l1 c line with
  | none => match s.roomFor c line with
    | none => .error (.hold s)
    | some s => .ok ((wait s).request c line .S)
  | some l =>
    match l.state with
    | .U => .ok ((wait s).request c line .S)
    | .ISD => .ok (wait s)
    | .IMAD => .ok (wait s)
    | .SMA => .ok (wait s)
    | .IUA => .error (.hold s)
    | .MIA => .error (.hold s)
    | .SIA => .error (.hold s)
    | .IIA => .error (.hold s)
    | _ => .ok (s.wrB d (widen signed size (s.readNat pa size)) 1)

/-- An acquire whose bundle goes on to the local store in slot 3 is performed first (R102, R278): the bundle is held until it can be. -/
def acquireFirst (pa : Nat) (s : State) : Eff Unit := if s.iss.followed && s.scoped then readLine pa s else .ok ()

def loadM (g : BitVec 4) (d : BitVec 5) (ea : State → Word) (size : Nat) (signed : Bool) (st : State) : Out :=
  guarded g st fun z => do
    let va := ea z
    let (x, z) ← mortarAddr .load va size z
    if x.hub then do
      trapIf (size != 8) .misalign va
      afterAcquires z
      blockIf z.me.accessing z
      .ok (({ z with freeUse := z.freeUse + 1 }).wrB d (z.hubRead (paOff x.pa)) 1)
    else if x.mode ≠ .localWin then
      farAccess .load va x size signed 0 (some (.b d.toNat)) 0 0 z
    else do
      trapIf (z.poisoned x.pa size) .memUncorr va
      afterAcquires z
      acquireFirst x.pa z
      (loadLine d va x.pa size signed z).map fun y => y.note 2 va

/-! ### Stores (R160, R161) -/

/-- A word that holds a handle is not written over (R54). -/
def notTagged (pa : Nat) (va : Word) (s : State) : Eff Unit := trapIf (s.tag pa) .handleClobber va

def storeM (g : BitVec 4) (d : BitVec 5) (ea : State → Word) (size : Nat) (st : State) : Out :=
  guarded g st fun z => do
    let va := ea z
    let (x, z) ← mortarAddr .store va size z
    if x.hub then do
      trapIf (size != 8) .misalign va
      afterAll z
      blockIf z.me.accessing z
      .ok (z.hubWrite (paOff x.pa) (z.opB d))
    else if x.mode ≠ .localWin then
      farAccess .store va x size false 0 none (z.opB d) 0 z
    else do
      ownLine x.pa z
      notTagged x.pa va z
      shadowed va x.pa z
      afterAll z
      .ok (((z.writeNat x.pa size (z.opB d).toNat).wrote x.pa).note 2 va)

/-! ### Atomics (R162) -/

/-- The ten operations of R106 on two values of `w` bits; .cas takes its comparand apart. -/
def atomNew (op w old x cmp : Nat) : Nat :=
  let lt (a b : Nat) : Bool := decide (signedOf w a < signedOf w b)
  match op with
  | 0 => (old + x) % 2 ^ w
  | 1 => old &&& x
  | 2 => old ||| x
  | 3 => old ^^^ x
  | 4 => if lt x old then x else old
  | 5 => if lt old x then x else old
  | 6 => Nat.min old x
  | 7 => Nat.max old x
  | 8 => x
  | _ => if old = cmp then x else old

/-- A .cas whose comparison fails writes nothing. -/
def atomWrites (op old cmp : Nat) : Bool := op != 9 || old == cmp

def atom (op size : Nat) (g : BitVec 4) (d s t : BitVec 5) (st : State) : Out :=
  guarded g st fun z => do
    let va := z.opB s
    let (x, z) ← mortarAddr .store va size z
    notHub x va
    let w := 8 * size
    let v := (z.opB t).toNat % 2 ^ w
    let cmp := (z.opB d).toNat % 2 ^ w
    if x.mode ≠ .localWin then
      farAccess .atomic va x size true op (some (.b d.toNat)) (BitVec.ofNat 64 v) (BitVec.ofNat 64 cmp) z
    else do
      ownLine x.pa z
      trapIf (z.poisoned x.pa size) .memUncorr va
      let old := z.readNat x.pa size
      let r := widen true size old
      if atomWrites op old cmp then do
        notTagged x.pa va z
        shadowed va x.pa z
        afterAll z
        .ok ((((z.writeNat x.pa size (atomNew op w old v cmp)).wrote x.pa).wrB d r 1).note 2 va)
      else do
        afterAll z
        .ok ((z.wrB d r 1).note 2 va)

/-! ### Combining adds (R163, R264) -/

/-- A delta of the other width on the slot or slot pair (R264). -/
def sumsClash (l : L1Line) (slot : Nat) (wide : Bool) : Bool :=
  l.sums.any fun d => d.2.1 != wide && d.1 / 2 == slot / 2

/-- Add to a slot of a U line. -/
def addSum (sums : List (Nat × Bool × Word)) (slot : Nat) (wide : Bool) (v : Word) : List (Nat × Bool × Word) :=
  let v := if wide then v else v &&& 0xFFFFFFFF
  match sums with
  | [] => [(slot, wide, v)]
  | d :: r =>
    if d.1 = slot ∧ d.2.1 = wide then (slot, wide, if wide then d.2.2 + v else (d.2.2 + v) &&& 0xFFFFFFFF) :: r
    else d :: addSum r slot wide v

/-- CADD to a local word, whose line is in M or E (in place), in U (buffered), or is requested. -/
def caddLine (va : Word) (pa size : Nat) (v : Word) (s : State) : Eff State :=
  let line := lineOf pa
  let c := s.iss.core
  let slot := pa % 128 / 4
  if s.leasedByOther c s.iss.ctx line then .error (.hold s)
  else match s.l1 c line with
  | none => .error (.hold (s.fetchLine c line .U))
  | some l =>
    if l.owned then do
      notTagged pa va s
      shadowed va pa s
      afterAll s
      .ok ((s.writeNat pa size ((s.readNat pa size + v.toNat) % 2 ^ (8 * size))).wrote pa)
    else if l.state = LineState.U then
      (if sumsClash l slot (size == 8) then .error (.hold (s.request c line .U))
       else do
        notTagged pa va s
        shadowed va pa s
        afterAll s
        .ok (s.setL1 c line { l with sums := addSum l.sums slot (size == 8) v }))
    else if l.stable then .error (.hold (s.request c line .U))
    else .error (.hold s)

def cadd (size : Nat) (g : BitVec 4) (s t : BitVec 5) (st : State) : Out :=
  guarded g st fun z => do
    let va := z.opB s
    let (x, z) ← mortarAddr .store va size z
    notHub x va
    if x.mode ≠ .localWin then farAccess .cadd va x size false 0 none (z.opB t) 0 z
    else (caddLine va x.pa size (z.opB t) z).map fun y => y.note 2 va

def execCaddD (g : BitVec 4) (s t : BitVec 5) (st : State) : Out := cadd 8 g s t st
def execCaddW (g : BitVec 4) (s t : BitVec 5) (st : State) : Out := cadd 4 g s t st

/-! ### Leases (R164, R165, R269) -/

def Ctx.setLease (x : Ctx) (l : LeaseSlot) : Ctx := { x with leases := x.leases.map fun k => if k.line = l.line then l else k }

/-- A lease that runs for `n` cycles from now. -/
def LeaseSlot.arm (l : LeaseSlot) (n cycle : Nat) : LeaseSlot := { l with state := .held, cycles := n, until_ := cycle + n }

/-- Wait for a lease: ask for the line in M where it is not on its way. -/
def awaitLease (line : Nat) (s : State) : Brk :=
  match s.l1 s.iss.core line with
  | none => .block (s.fetchLine s.iss.core line .M)
  | some l => if l.stable ∧ l.owned = false then .block (s.request s.iss.core line .M) else .block s

def execLease (g : BitVec 4) (s t : BitVec 5) (st : State) : Out :=
  guarded g st fun z => do
    let va := z.opB s
    let n := (z.opB t).toNat
    trapIf (n == 0 || decide (z.leasemax.toNat < n)) .leaseBad
    let (x, z) ← mortarAddr .store va 1 z
    notHub x va
    trapIf (x.mode != .localWin || paTier x.pa == 3) .leaseRemote va
    let line := lineOf x.pa
    match z.me.slotOn line with
    | some l => do
      afterAcquires z
      if z.me.reply.leased = some line then .ok (z.note 2 va)
      else if l.state = .acquiring then .error (awaitLease line z)
      else .ok ((z.modMe fun k => k.setLease (l.arm n z.cycle)).note 2 va)
    | none => do
      trapIf (decide (2 ≤ z.me.leases.length)) .leaseDepth va
      afterAcquires z
      .error (awaitLease line (z.modMe fun k => { k with leases := k.leases ++ [⟨line, .acquiring, n, 0⟩] }))

def execUnlease (g : BitVec 4) (d s : BitVec 5) (st : State) : Out :=
  guarded g st fun z => do
    let va := z.opB s
    let (x, z) ← mortarAddr .unlease va 1 z
    blockIf z.me.accessing z
    let line := lineOf x.pa
    match (if x.mode = .localWin then z.me.slotOn line else none) with
    | none => .ok (z.wrB d 0 1)
    | some l =>
      let live := l.live
      let z := z.modMe fun k => { k with leases := k.leases.filter fun m => m.line != line }
      let z := if live && !z.leasedOn z.iss.core line then z.releaseProbes z.iss.core line else z
      .ok (z.wrB d (if live then 1 else 0) 1)

/-! ### Snapshots (R166 to R168) -/

def Snap.meets (a b : Snap) : Bool := decide (a.base < b.base + b.len ∧ b.base < a.base + a.len)

/-- A register that is free: the free value where it names one, else the lowest (log entry 6). -/
def State.freeSnap (s : State) : Option Nat :=
  let pick := Config.freeNat s.freeUse
  match (List.range Config.snapRegs).find? fun r => (s.snaps.look r).isNone with
  | none => none
  | some r => if decide (pick < Config.snapRegs) && (s.snaps.look pick).isNone then some pick else some r

def snapToken (r level : Nat) : Word := BitVec.ofNat 64 (r * 256 + level)

def execSnap (g : BitVec 4) (d s t : BitVec 5) (st : State) : Out :=
  guarded g st fun z => do
    let va := z.opB s
    let len := (z.opB t).toNat
    trapIf (va.toNat % 128 != 0 || len == 0 || len % 128 != 0 || decide (2 ^ 21 < va.toNat % 2 ^ 21 + len)) .snapBad va
    let (x, z) ← xlate .store va z
    notHub x va
    trapIf (x.mode != .localWin || paTier x.pa == 3) .snapBad va
    let c := z.iss.core
    let y := z.iss.ctx
    let k : Snap := ⟨z.snapGen + 1, 0, z.owner c y, z.ownWindow c y, lineOf x.pa, len / 128⟩
    trapIf (z.snaps.any fun e => !z.ownSnap c y e.2 && k.meets e.2) .snapOverlap va
    trapIf (z.snaps.any fun e => z.ownSnap c y e.2 && k.meets e.2 && !k.within e.2) .snapOverlap va
    let level := 1 + (z.snaps.filter fun e => z.ownSnap c y e.2 && k.within e.2).length
    trapIf (decide (4 < level)) .snapDepth va
    match z.freeSnap with
    | none => .error (.trap .snapNoreg va)
    | some r => do
      blockIf (z.me.accessing || z.reserves.any fun e => k.covers e.2) z
      let y := { z with snaps := z.snaps.put r { k with level := level }, snapGen := z.snapGen + 1, freeUse := z.freeUse + 1 }
      .ok (y.wrB d (snapToken r level) 1)

/-- The live snapshot that a token of the context in issue names. -/
def State.snapNamed (s : State) (w : Word) : Option (Nat × Snap) :=
  s.snaps.find? fun e => s.ownSnap s.iss.core s.iss.ctx e.2 && snapToken e.1 e.2.level == w

/-- The owner's live snapshots within one of its own, innermost first. -/
def State.snapsInside (s : State) (r : Nat) (k : Snap) : List (Nat × Snap) :=
  (s.snapsOf k.owner k.window).filter fun e => e.1 != r && e.2.within k && decide (k.level < e.2.level)

def execAccept (g : BitVec 4) (s : BitVec 5) (st : State) : Out :=
  guarded g st fun z => match z.snapNamed (z.opB s) with
    | none => .error (.trap .snapBad 0)
    | some (r, k) => do
      trapIf (!(z.snapsInside r k).isEmpty) .snapOrder
      blockIf z.me.accessing z
      .ok (z.acceptSnap r)

/-- REJECT waits for the leases of others on the range and for the lines to restore to come to rest (R168, R275). -/
def execReject (g : BitVec 4) (s : BitVec 5) (st : State) : Out :=
  guarded g st fun z => match z.snapNamed (z.opB s) with
    | none => .error (.trap .snapBad 0)
    | some (r, k) => do
      blockIf z.me.accessing z
      let z := z.endLeases z.iss.core z.iss.ctx k.covers
      let regs := (z.snapsInside r k).map (·.1) ++ [r]
      blockIf (z.rangeLeasedByOther z.iss.core z.iss.ctx k) z
      blockIf (z.shadows.any fun h => regs.contains h.reg && !z.lineQuiet h.line) z
      .ok (regs.foldl State.rejectSnap z)

/-! ### Handles in memory (R54, R156, R169) -/

/-- The word that an effective address of LDH, LDHD and STH names. -/
inductive HandleWord where
  | window (o : Nat)
  | mortar (x : Xlat)
  deriving Repr

def handleWord (ea : Word) (s : State) : Eff (HandleWord × State) := do
  if bits ea 62 2 = 3 then do
    trapIf (ea.toNat % 8 != 0) .misalign ea
    trapIf (bits ea 20 42 != 0) .spanMiss ea
    let o ← lsAddr s (BitVec.ofNat 64 (bits ea 0 20)) 8
    .ok (.window o, s)
  else do
    let (x, s) ← mortarAddr .store ea 8 s
    notHub x ea
    .ok (.mortar x, s)

def Core.readHandle (k : Core) (o : Nat) : Handle := Handle.ofWord (BitVec.ofNat 64 (k.lsRead o 8))
def Core.writeHandle (k : Core) (o : Nat) (h : Handle) : Core := (k.lsWrite o 8 h.toWord.toNat).lsSetTag o true
def Core.clearWord (k : Core) (o : Nat) : Core := (k.lsWrite o 8 0).lsSetTag o false

/-- The line of a handle word is held in M, its word is tagged and not poisoned. -/
def taggedLine (va : Word) (pa : Nat) (miss : Cause) (s : State) : Eff Unit := do
  ownLine pa s
  trapIf (!s.tag pa) miss va
  trapIf (s.poisoned pa 8) .memUncorr va

/-- LDH (R169). -/
def execLdh (g : BitVec 4) (h : BitVec 6) (s : BitVec 5) (off : BitVec 6) (st : State) : Out :=
  guarded g st fun z => do
    let ea := handleEa (z.opB s) off
    let (w, z) ← handleWord ea z
    trapIf (z.opH h).isSome .handleLive ea
    match w with
    | .window o => do
      trapIf (!z.myCore.lsTag o) .handleUntagged ea
      afterAcquires z
      blockIf (z.lsWaits o 8 true) z
      .ok ((z.wrH h (some (z.myCore.readHandle o))).modMyCore fun k => k.clearWord o)
    | .mortar x =>
      if x.mode ≠ .localWin then farAccess .ldh ea x 8 false 0 (some (.h h.toNat)) 0 0 z
      else do
        taggedLine ea x.pa .handleUntagged z
        shadowed ea x.pa z
        afterAll z
        .ok ((((z.wrH h (some (z.readHandle x.pa))).clearWord x.pa).wrote x.pa).note 2 ea)

/-- LDHD of a local word: the handle is split between the word and the register; weight 1 is refilled first. -/
def splitWord (h : BitVec 6) (va : Word) (pa : Nat) (miss : Cause) (z : State) : Eff State := do
  taggedLine va pa miss z
  shadowed va pa z
  let v := z.readHandle pa
  let z ← needRefill v z
  afterAll z
  .ok ((((z.wrH h (some v.split)).writeHandle pa v.split).wrote pa).note 2 va)

def execLdhd (g : BitVec 4) (h : BitVec 6) (s : BitVec 5) (off : BitVec 6) (st : State) : Out :=
  guarded g st fun z => do
    let ea := handleEa (z.opB s) off
    let (w, z) ← handleWord ea z
    trapIf (z.opH h).isSome .handleLive ea
    match w with
    | .window o => do
      trapIf (!z.myCore.lsTag o) .handleUntagged ea
      let v := z.myCore.readHandle o
      let z ← needRefill v z
      afterAcquires z
      blockIf (z.lsWaits o 8 true) z
      .ok ((z.wrH h (some v.split)).modMyCore fun k => k.writeHandle o v.split)
    | .mortar x =>
      if x.mode ≠ .localWin then farAccess .ldhd ea x 8 false 0 (some (.h h.toNat)) 0 0 z
      else splitWord h ea x.pa .handleUntagged z

/-- STH (R169): through a REMOTE window the register keeps its handle until the peer has taken it (R289). -/
def execSth (g : BitVec 4) (h : BitVec 6) (s : BitVec 5) (off : BitVec 6) (st : State) : Out :=
  guarded g st fun z => do
    let ea := handleEa (z.opB s) off
    let (w, z) ← handleWord ea z
    match z.opH h with
    | none => .error (.trap .handleInvalid ea)
    | some v => do
      trapIf (z.me.isOpen v.tile) .tileOpen ea
      match w with
      | .window o => do
        trapIf (z.myCore.lsTag o) .handleClobber ea
        afterAcquires z
        blockIf (z.lsWaits o 8 true) z
        .ok ((z.wrH h none).modMyCore fun k => k.writeHandle o v)
      | .mortar x =>
        if x.mode ≠ .localWin then farAccess .sth ea x 8 false 0 (some (.h h.toNat)) v.toWord 0 z
        else do
          ownLine x.pa z
          notTagged x.pa ea z
          shadowed ea x.pa z
          afterAll z
          .ok ((((z.wrH h none).writeHandle x.pa v).wrote x.pa).note 2 ea)

/-! ### The forms: loads, stores and atomics by width -/

def eaOffM (s : BitVec 5) (off : BitVec 12) (size : Nat) (z : State) : Word := offsetEa (z.opB s) off size
def eaIdxM (s t : BitVec 5) (z : State) : Word := z.opB s + z.opB t

def execLdmD (g : BitVec 4) (d s : BitVec 5) (off : BitVec 12) (st : State) : Out :=
  loadM g d (eaOffM s off 8) 8 false st
def execLdmW (g : BitVec 4) (d s : BitVec 5) (off : BitVec 12) (st : State) : Out :=
  loadM g d (eaOffM s off 4) 4 true st
def execLdmWu (g : BitVec 4) (d s : BitVec 5) (off : BitVec 12) (st : State) : Out :=
  loadM g d (eaOffM s off 4) 4 false st
def execLdmH (g : BitVec 4) (d s : BitVec 5) (off : BitVec 12) (st : State) : Out :=
  loadM g d (eaOffM s off 2) 2 true st
def execLdmHu (g : BitVec 4) (d s : BitVec 5) (off : BitVec 12) (st : State) : Out :=
  loadM g d (eaOffM s off 2) 2 false st
def execLdmB (g : BitVec 4) (d s : BitVec 5) (off : BitVec 12) (st : State) : Out :=
  loadM g d (eaOffM s off 1) 1 true st
def execLdmBu (g : BitVec 4) (d s : BitVec 5) (off : BitVec 12) (st : State) : Out :=
  loadM g d (eaOffM s off 1) 1 false st
def execLdmXD (g : BitVec 4) (d s t : BitVec 5) (st : State) : Out :=
  loadM g d (eaIdxM s t) 8 false st
def execLdmXW (g : BitVec 4) (d s t : BitVec 5) (st : State) : Out :=
  loadM g d (eaIdxM s t) 4 true st
def execLdmXWu (g : BitVec 4) (d s t : BitVec 5) (st : State) : Out :=
  loadM g d (eaIdxM s t) 4 false st
def execLdmXH (g : BitVec 4) (d s t : BitVec 5) (st : State) : Out :=
  loadM g d (eaIdxM s t) 2 true st
def execLdmXHu (g : BitVec 4) (d s t : BitVec 5) (st : State) : Out :=
  loadM g d (eaIdxM s t) 2 false st
def execLdmXB (g : BitVec 4) (d s t : BitVec 5) (st : State) : Out :=
  loadM g d (eaIdxM s t) 1 true st
def execLdmXBu (g : BitVec 4) (d s t : BitVec 5) (st : State) : Out :=
  loadM g d (eaIdxM s t) 1 false st
def execStmD (g : BitVec 4) (d s : BitVec 5) (off : BitVec 12) (st : State) : Out :=
  storeM g d (eaOffM s off 8) 8 st
def execStmW (g : BitVec 4) (d s : BitVec 5) (off : BitVec 12) (st : State) : Out :=
  storeM g d (eaOffM s off 4) 4 st
def execStmH (g : BitVec 4) (d s : BitVec 5) (off : BitVec 12) (st : State) : Out :=
  storeM g d (eaOffM s off 2) 2 st
def execStmB (g : BitVec 4) (d s : BitVec 5) (off : BitVec 12) (st : State) : Out :=
  storeM g d (eaOffM s off 1) 1 st
def execStmXD (g : BitVec 4) (d s t : BitVec 5) (st : State) : Out :=
  storeM g d (eaIdxM s t) 8 st
def execStmXW (g : BitVec 4) (d s t : BitVec 5) (st : State) : Out :=
  storeM g d (eaIdxM s t) 4 st
def execStmXH (g : BitVec 4) (d s t : BitVec 5) (st : State) : Out :=
  storeM g d (eaIdxM s t) 2 st
def execStmXB (g : BitVec 4) (d s t : BitVec 5) (st : State) : Out :=
  storeM g d (eaIdxM s t) 1 st

def execAtomAdd (g : BitVec 4) (d s t : BitVec 5) (st : State) : Out := atom 0 8 g d s t st
def execAtomAddW (g : BitVec 4) (d s t : BitVec 5) (st : State) : Out := atom 0 4 g d s t st
def execAtomAnd (g : BitVec 4) (d s t : BitVec 5) (st : State) : Out := atom 1 8 g d s t st
def execAtomAndW (g : BitVec 4) (d s t : BitVec 5) (st : State) : Out := atom 1 4 g d s t st
def execAtomOr (g : BitVec 4) (d s t : BitVec 5) (st : State) : Out := atom 2 8 g d s t st
def execAtomOrW (g : BitVec 4) (d s t : BitVec 5) (st : State) : Out := atom 2 4 g d s t st
def execAtomXor (g : BitVec 4) (d s t : BitVec 5) (st : State) : Out := atom 3 8 g d s t st
def execAtomXorW (g : BitVec 4) (d s t : BitVec 5) (st : State) : Out := atom 3 4 g d s t st
def execAtomMin (g : BitVec 4) (d s t : BitVec 5) (st : State) : Out := atom 4 8 g d s t st
def execAtomMinW (g : BitVec 4) (d s t : BitVec 5) (st : State) : Out := atom 4 4 g d s t st
def execAtomMax (g : BitVec 4) (d s t : BitVec 5) (st : State) : Out := atom 5 8 g d s t st
def execAtomMaxW (g : BitVec 4) (d s t : BitVec 5) (st : State) : Out := atom 5 4 g d s t st
def execAtomMinu (g : BitVec 4) (d s t : BitVec 5) (st : State) : Out := atom 6 8 g d s t st
def execAtomMinuW (g : BitVec 4) (d s t : BitVec 5) (st : State) : Out := atom 6 4 g d s t st
def execAtomMaxu (g : BitVec 4) (d s t : BitVec 5) (st : State) : Out := atom 7 8 g d s t st
def execAtomMaxuW (g : BitVec 4) (d s t : BitVec 5) (st : State) : Out := atom 7 4 g d s t st
def execAtomSwap (g : BitVec 4) (d s t : BitVec 5) (st : State) : Out := atom 8 8 g d s t st
def execAtomSwapW (g : BitVec 4) (d s t : BitVec 5) (st : State) : Out := atom 8 4 g d s t st
def execAtomCas (g : BitVec 4) (d s t : BitVec 5) (st : State) : Out := atom 9 8 g d s t st
def execAtomCasW (g : BitVec 4) (d s t : BitVec 5) (st : State) : Out := atom 9 4 g d s t st

end Sys2Proof.Machine
end

