-- ==== Sys2Proof/Machine/TileForms.lean ====
section
/-! DEFINITION. Handles and tiles from slot 2 (R170 to R183). -/

namespace Sys2Proof.Machine

/-! ### Descriptors (R46, R180) -/

/-- A descriptor from its words. -/
def Desc.ofWords (ws : List Word) : Desc :=
  let w (k : Nat) : Word := ws.getD k 0
  { sealed := (w 0).getLsbD 1, opened := (w 0).getLsbD 2, isScale := (w 0).getLsbD 3, moving := (w 0).getLsbD 4
    rows := (w 0).extractLsb' 18 14, cols := (w 0).extractLsb' 32 14, layout := (w 0).extractLsb' 46 2, fword := (w 0).extractLsb' 48 16
    storage := (w 1).setWidth 45, total := w 2, returned := w 3
    scale := if (w 4).getLsbD 63 then some (Handle.ofWord (w 4)) else none
    blocks := (w 5).setWidth 32, pitch := (w 5).extractLsb' 32 32, born := w 6 }

/-- The eight words of a descriptor. -/
def Desc.words (d : Desc) : List Word := (List.range 8).map d.word

/-- Hold until the home has read the descriptor of a tile; `elem` says what else the form wants. -/
def readDesc (t : BitVec 40) (elem : Nat) (s : State) : Eff (List Word) :=
  match s.me.reply.desc with
  | some ws => .ok ws
  | none => .error (ask 0 t (homePeer t) s (.descriptorRead t s.peer.toNat s.iss.core s.iss.ctx elem))

/-- A live handle operand (R49). -/
def liveHandle (h : BitVec 6) (s : State) : Eff Handle :=
  match s.opH h with
  | none => .error (.trap .handleInvalid 0)
  | some v => .ok v

/-- The token of an update that copies is on its way to the drop queue (R53). -/
def Cmd.willDrop (c : Cmd) (t : BitVec 40) : Bool :=
  match c.op with
  | .update _ tok (some _) _ _ => tok.tile == t
  | _ => false

/-- Uniqueness of a holder (R52): decided in the context for an open tile or a fresh handle, asked of the home otherwise, once the
context's own drops of the tile are acknowledged, those of its earlier updates included. -/
def uniqueHolder (h : Handle) (s : State) : Eff Bool :=
  if s.me.isOpen h.tile || h.fresh then .ok true
  else match s.me.reply.unique with
  | some b => .ok b
  | none =>
    if (s.me.drops.any fun d => d.tile == h.tile) || (s.cmdsOf s.iss.core s.iss.ctx).any fun c => c.willDrop h.tile then
      .error (.hold s)
    else .error (ask 1 h.tile (homePeer h.tile) s (.uniquenessQuery h.tile h.e s.peer.toNat s.iss.core s.iss.ctx))

/-- Hold until the home has allocated a tile of a shape on the issuing core's die; it answers index 0 for a failure: die 1 where the
slice is full, die 0 otherwise. -/
def newTile (shape : Word) (s : State) : Eff (BitVec 40) :=
  match s.me.reply.tile with
  | some t =>
    if t.toNat % 2 ^ 24 ≠ 0 then .ok t
    else .error (.trap (if t = 0x1000000 then .sliceFull else .tileNospace) 0)
  | none => .error (ask 2 0 s.peer.toNat s (.tileAllocate s.iss.core s.iss.ctx shape))

/-- An update that reuses storage waits for the context's earlier commands that name the tile (R179). -/
def readersDone (t : BitVec 40) (s : State) : Eff Unit :=
  blockIf ((s.cmdsOf s.iss.core s.iss.ctx).any fun c => c.bundle != s.me.bundle && c.names t) s

/-! ### Handle registers (R170 to R172) -/

def execDup (g : BitVec 4) (h j : BitVec 6) (st : State) : Out :=
  guarded g st fun z => do
    let v ← liveHandle j z
    trapIf (z.opH h).isSome .handleLive
    trapIf (z.me.isOpen v.tile) .tileOpen
    if v.needsRefill then
      .ok ((z.modMe fun x => { x with refills := x.refills ++ [(h.toNat, j.toNat, v.tile)] }).deliver (homePeer v.tile)
        (.refillRequest v.tile z.peer.toNat z.iss.core z.iss.ctx))
    else .ok ((z.wrH h (some v.split)).wrH j (some v.split))

def execDrop (g : BitVec 4) (h : BitVec 6) (st : State) : Out :=
  guarded g st fun z => do
    let v ← liveHandle h z
    blockIf (!z.me.dropRoom) z
    .ok ((z.wrH h none).modMe fun x => (x.addDrop v).closeTile v.tile)

def execTuniq (g : BitVec 4) (h : BitVec 6) (s : BitVec 5) (st : State) : Out :=
  guarded g st fun z => do
    let v ← liveHandle h z
    let u ← uniqueHolder v z
    .ok (z.wrB s (if u then 1 else 0) 1)

/-! ### TNEW (R173) -/

/-- The handle in h2 is as the format word asks: a live BF16 tile for a scaled word, none otherwise. A tile of the open set may be one, and keeps
its place in the set (log entry 87). -/
def scaleOperand (scaled : Bool) (j : BitVec 6) (z : State) : Eff (Option Handle) :=
  if scaled then do
    trapIf (j == 0) .formatMismatch
    let v ← liveHandle j z
    let ws ← readDesc v.tile 0 z
    trapIf ((Desc.ofWords ws).fword != bf16Word) .formatMismatch
    .ok (some v)
  else do
    trapIf (j != 0) .formatMismatch
    .ok none

def execTnew (g : BitVec 4) (h j : BitVec 6) (s : BitVec 5) (st : State) : Out :=
  guarded g st fun z => do
    let w := z.opB s
    let sh := Shape.ofWord w
    trapIf (!shapeOk w) .tileShape
    trapIf (elemOf sh.fword).isNone .formatInvalid
    let sc ← scaleOperand (fwordScaled sh.fword) j z
    trapIf (z.opH h).isSome .handleLive
    trapIf (sh.opened && decide (4 ≤ z.me.openSet.length)) .openDepth
    let t ← newTile w z
    let z := (z.modDesc t fun d => { d with scale := sc }).markScale sc
    let z := match sc with | none => z | some _ => z.wrH j none
    let z := z.wrH h (some (freshHandle t))
    .ok (if sh.opened then z.modMe fun x => { x with openSet := x.openSet ++ [t] } else z)

/-! ### Reading a tile (R181) -/

def execTdesc (g : BitVec 4) (h : BitVec 6) (s t : BitVec 5) (st : State) : Out :=
  guarded g st fun z => do
    let v ← liveHandle h z
    let ws ← readDesc v.tile 0 z
    .ok (z.wrB s (ws.getD (bits (z.opB t) 0 3) 0) 1)

/-- Row and column of an index operand (R177). -/
def indexRow (w : Word) : Nat := bits w 32 16
def indexCol (w : Word) : Nat := bits w 0 16

/-- The operand names an element of the tile. -/
def indexOk (d : Desc) (w : Word) : Bool :=
  bits w 48 16 == 0 && bits w 16 16 == 0 && decide (indexRow w ≤ d.rows.toNat ∧ indexCol w ≤ d.cols.toNat)

/-- Linear row-major index. -/
def linearIndex (d : Desc) (w : Word) : Nat := indexRow w * (d.cols.toNat + 1) + indexCol w

/-- What TGET makes of an element's bits. -/
def elemWord (x : Elem) (v : Nat) : Word :=
  match x with
  | .int w true => BitVec.ofInt 64 (signedOf w v)
  | .q16 => BitVec.ofInt 64 (signedOf 32 v)
  | _ => BitVec.ofNat 64 v

/-- What a TGET asks of the home: one more than row and column. -/
def elemQuery (w : Word) : Nat := 1 + indexRow w * 65536 + indexCol w

def execTget (g : BitVec 4) (h : BitVec 6) (s t : BitVec 5) (st : State) : Out :=
  guarded g st fun z => do
    let v ← liveHandle h z
    let w := z.opB t
    let ws ← readDesc v.tile (elemQuery w) z
    holdIf (ws.getD 10 0 != BitVec.ofNat 64 (elemQuery w)) (z.modMe fun x => { x with reply := { x.reply with desc := none } })
    let d := Desc.ofWords ws
    trapIf (!indexOk d w) .tileIndex
    trapIf (ws.getD 9 0 != 0) .memUncorr
    match d.elem with
    | none => .error (.trap .formatInvalid 0)
    | some x => .ok (z.wrB s (elemWord x (ws.getD 8 0).toNat) 1)

/-! ### Updates (R53, R175 to R179) -/

/-- The tier and place of a storage address, as the place and tier of a shape word. -/
def placeOf (pa : Nat) : Nat × Nat :=
  match paTier pa with
  | 0 => (0, 0)
  | 1 => (paDie pa, 1)
  | _ => (32 * paDie pa + paFrame pa / 2, 2)

/-- The shape of an update's copy (R175): the source's, in its tier and place, or in near memory of the issuing die for a source of
another package. Bit 62 lets the home fall back to near memory of the die when the slice lacks room. -/
def copyShape (d : Desc) (opened here : Bool) (die : Nat) : Word :=
  let p := if here then placeOf d.storage.toNat else (die, 1)
  BitVec.ofNat 64 ((if opened then 2 ^ 63 else 0) + (if p.2 = 2 then 2 ^ 62 else 0) + p.1 * 2 ^ 48 + p.2 * 2 ^ 46
    + d.layout.toNat * 2 ^ 44 + d.cols.toNat * 2 ^ 30 + d.rows.toNat * 2 ^ 16 + d.fword.toNat)

/-- The half of the source's scale handle that goes into a copy (R51, R53): asked of the source's home. -/
def scaleHalf (t : BitVec 40) (d : Desc) (s : State) : Eff (Option Handle) :=
  if d.scale.isNone then .ok none
  else match s.me.reply.desc with
  | some ws =>
    if ws.length = 9 then .ok (Desc.ofWords ws).scale
    else .error (ask 5 t (homePeer t) s (.descriptorRead t s.peer.toNat s.iss.core s.iss.ctx (2 ^ 40)))
  | none => .error (.hold s)

/-- An update that copies: the copy's descriptor, the room for the token's drop, the command that fills the copy. -/
def updateCopy (h : BitVec 6) (v : Handle) (d : Desc) (opened : Bool) (eng : Option Engine) (w : UpdWrite) (z : State) : Eff State := do
  let t ← newTile (copyShape d opened (z.isHome v.tile) (dieOf z.iss.core)) z
  let sc ← scaleHalf v.tile d z
  blockIf (!z.me.dropRoom) z
  blockIf (eng.isSome && !z.queueOpen .copy) z
  let z := (z.modDesc t fun q => { q with scale := sc }).markScale sc
  let z := z.enqueue eng (.update h.toNat v (some (freshHandle t)) false w) eng.isSome
  .ok (z.wrH h none)

def execTopen (g : BitVec 4) (h : BitVec 6) (st : State) : Out :=
  guarded g st fun z => do
    let v ← liveHandle h z
    if z.me.isOpen v.tile then .ok z
    else do
      trapIf (decide (4 ≤ z.me.openSet.length)) .openDepth
      let ws ← readDesc v.tile 0 z
      let d := Desc.ofWords ws
      let u ← if z.isHome v.tile then uniqueHolder v z else .ok false
      if u then do
        readersDone v.tile z
        .ok ((z.modDesc v.tile fun q => { q with opened := true, sealed := false }).modMe fun x => { x with openSet := x.openSet ++ [v.tile] })
      else do
        let z' ← updateCopy h v d true none .opened z
        match z.me.reply.tile with
        | none => .ok z'
        | some t => .ok (z'.modMe fun x => { x with openSet := x.openSet ++ [t] })

def execTseal (g : BitVec 4) (h : BitVec 6) (s : BitVec 5) (st : State) : Out :=
  guarded g st fun z => do
    let v ← liveHandle h z
    trapIf (!z.me.isOpen v.tile) .tileState
    let ws ← readDesc v.tile 0 z
    let d := Desc.ofWords ws
    if s = 0 then
      .ok ((z.modDesc v.tile fun q => { q with opened := false, sealed := true }).modMe fun x => x.closeTile v.tile)
    else do
      let r ← regionOf z (z.opB s)
      trapIf (r.fword != d.fword) .formatMismatch
      trapIf (decide (d.count < r.count)) .tileIndex
      blockIf (!z.queueOpen .copy) z
      .ok ((z.enqueue (some .copy) (.seal h.toNat v r)).wrH h none)

/-- Whether an update reuses the storage (R53): an open tile, or a tile of this package with a unique holder. -/
def reuses (v : Handle) (z : State) : Eff Bool :=
  if z.me.isOpen v.tile then .ok true
  else if z.isHome v.tile then uniqueHolder v z
  else .ok false

def execTset (g : BitVec 4) (h : BitVec 6) (s t : BitVec 5) (st : State) : Out :=
  guarded g st fun z => do
    let v ← liveHandle h z
    let ws ← readDesc v.tile 0 z
    let d := Desc.ofWords ws
    let w := z.opB t
    trapIf (!indexOk d w) .tileIndex
    let u ← reuses v z
    if u then do
      readersDone v.tile z
      match z.desc v.tile with
      | none => .ok z
      | some q => .ok (z.setTileElem q (linearIndex d w) (z.opB s).toNat)
    else updateCopy h v d false none (.elem (linearIndex d w) (z.opB s)) z

def execTsetv (g : BitVec 4) (h : BitVec 6) (s t : BitVec 5) (st : State) : Out :=
  guarded g st fun z => do
    let v ← liveHandle h z
    let r ← regionOf z (z.opB s)
    let ws ← readDesc v.tile 0 z
    let d := Desc.ofWords ws
    trapIf (r.fword != d.fword) .formatMismatch
    let w := z.opB t
    trapIf (!indexOk d w || decide (d.count < linearIndex d w + r.count)) .tileIndex
    let u ← reuses v z
    if u then do
      readersDone v.tile z
      blockIf (!z.queueOpen .copy) z
      .ok ((z.enqueue (some .copy) (.update h.toNat v none false (.region (linearIndex d w) r))).wrH h none)
    else updateCopy h v d false (some .copy) (.region (linearIndex d w) r) z

/-! ### TMOVE (R182) -/

/-- The layout of a target (R182). -/
def targetOk (w : Word) : Bool :=
  bits w 9 55 == 0 &&
    (match bits w 0 2 with | 0 => bits w 2 7 == 0 | 1 => bits w 4 5 == 0 | 2 => true | _ => false)

def execTmove (g : BitVec 4) (h : BitVec 6) (s : BitVec 5) (st : State) : Out :=
  guarded g st fun z => do
    let v ← liveHandle h z
    let w := z.opB s
    trapIf (!targetOk w) .tileTarget
    trapIf (!z.isHome v.tile) .tileRemote
    let _ ← readDesc v.tile 0 z
    blockIf (!z.queueOpen .copy) z
    .ok (z.enqueue (some .copy) (.move v.tile w 0 z.cycle false none))

/-! ### KVFIND (R183) -/

/-- Bytes 0 to 15 of a node: from the L1 of the core, or from the peer of a REMOTE window. A node that has been read is kept while the bundle
is held, so the walk goes on from it. -/
def readNode (va : Word) (x : Xlat) (s : State) : Eff (Word × Word × State) :=
  let kept := s.me.reply.got.find? fun b => b.1 == x.key
  match kept with
  | some b => .ok (b.2.getD 0 0, b.2.getD 1 0, s)
  | none =>
    if x.mode = .localWin then do
      readLine x.pa s
      trapIf (s.poisoned x.pa 16) .memUncorr va
      let w0 := BitVec.ofNat 64 (s.readNat x.pa 8)
      let w1 := BitVec.ofNat 64 (s.readNat (x.pa + 8) 8)
      .ok (w0, w1, s.modMe fun k => { k with reply := { k.reply with got := k.reply.got ++ [(x.key, [w0, w1])] } })
    else (farBlock va x 16 s).map fun bs => (BitVec.ofNat 64 (ofBytes (bs.take 8)), BitVec.ofNat 64 (ofBytes (bs.drop 8)), s)

/-- The walk: the address of the page's handle word, and the position within its 16 tokens. Its traps rest on what it reads, so that it is held until
its reads may be performed (R278). -/
def kvWalk (pos : Nat) : Nat → Word → State → Eff (Word × Nat × State)
  | 0, _, _ => .error (.trap .kvMiss 0)
  | fuel + 1, node, s => do
    trapIf (node.toNat % 128 != 0) .kvMiss node
    let (x, s) ← xlate .load node s
    notHub x node
    holdIf (s.iss.acquiring || (s.scoped && s.iss.accessing)) s
    let (w0, w1, s) ← readNode node x s
    let start := bits w0 0 32
    let run := bits w0 32 16
    if start ≤ pos then do
      trapIf (decide (start + run ≤ pos) || decide (7 < (pos - start) / 16)) .kvMiss node
      .ok (node + BitVec.ofNat 64 (64 + 8 * ((pos - start) / 16)), (pos - start) % 16, s)
    else if w1 = 0 then .error (.trap .kvMiss node)
    else kvWalk pos fuel w1 s

/-- KVFIND: every trap is precise, a denial by the peer of the handle word too (R183). -/
def execKvfind (g : BitVec 4) (h : BitVec 6) (s t : BitVec 5) (st : State) : Out :=
  guarded g st fun z => do
    trapIf (z.opH h).isSome .handleLive
    let (ea, off, z) ← kvWalk (bits (z.opB t) 0 32) 256 (z.opB s) z
    let (x, z) ← xlate .store ea z
    notHub x ea
    if x.mode ≠ .localWin then do
      trapIf ((x.answer z).any fun c => c != 0) (refusalCause ((x.answer z).getD 0)) ea
      (farAccess .ldhd ea x 8 false 1 (some (.h h.toNat)) 0 0 z).map fun y => y.wrB t (BitVec.ofNat 64 off) 1
    else do
      let z ← splitWord h ea x.pa .kvMiss z
      .ok (z.wrB t (BitVec.ofNat 64 off) 1)

end Sys2Proof.Machine
end

