-- ==== Sys2Proof/Machine/Copy.lean ====
section
/-! DEFINITION. The copy forms (R68, R223 to R227): their checks at issue. -/

namespace Sys2Proof.Machine

/-- The length of a copy (R223). -/
def copyLength (w : Word) : Eff Nat := do
  trapIf (w == 0 || decide (2 ^ 32 ≤ w.toNat)) .copyBad
  .ok w.toNat

/-- The kinds of source, in the order of fn (R106). -/
inductive SrcKind where
  | ls | va | tile
  deriving DecidableEq, Repr

/-- A source operand, checked. -/
def copySource (k : SrcKind) (w : Word) (len : Nat) (h : Option Handle) (s : State) : Eff CopySrc :=
  match k, h with
  | .ls, _ => (localEndpoint s w len).map .ls
  | .va, _ => .ok (.va w.toNat)
  | .tile, some v => .ok (.tile v.tile w.toNat)
  | .tile, none => .error (.trap .handleInvalid 0)

/-- A copy that a stop can cut finds room among the 32 of its context (R325). -/
def cutRoom (s : State) : Eff Unit :=
  blockIf (decide (Config.maxCutCopies ≤ ((s.cmdsOf s.iss.core s.iss.ctx).filter fun c => c.op.cuttable).length)) s

/-- A copy command as it enters the queue. -/
def CopyCmd.new (fn : Nat) (src : CopySrc) (dst : CopyDst) (dWord sWord : Word) (len : Nat) : CopyCmd :=
  ⟨fn, src, dst, dWord, sWord, len, 0, [], 0, false, [], none, none, []⟩

/-- Source and destination lie both in the local store and overlap (R224). -/
def lsOverlap (src : CopySrc) (dst : CopyDst) (len : Nat) : Bool :=
  match src, dst with
  | .ls a, .ls b => overlaps (a, a + len) (b, b + len)
  | _, _ => false

/-- A handle that the form reads: none for a form without one. -/
def sourceHandle (k : SrcKind) (hx : BitVec 6) (z : State) : Eff (Option Handle) :=
  if k = .tile then (liveHandle hx z).map some else .ok none

/-- CPY into a local store (`va` false) or a virtual range: its source is checked before its destination (log entry 111). -/
def copyTo (va : Bool) (k : SrcKind) (fn : Nat) (g : BitVec 4) (d s t : BitVec 5) (hx : BitVec 6) (st : State) : Out :=
  guarded g st fun z => do
    let h ← sourceHandle k hx z
    let len ← copyLength (z.opB t)
    let src ← copySource k (z.opB s) len h z
    let dst ← if va then .ok (.va (z.opB d).toNat) else (localEndpoint z (z.opB d) len).map CopyDst.ls
    trapIf (lsOverlap src dst len) .regionOverlap
    blockIf (!z.queueOpen .copy) z
    cutRoom z
    .ok (z.enqueue (some .copy) (.copy (CopyCmd.new fn src dst (z.opB d) (z.opB s) len)))

/-- The shape word of a new tile (R225). -/
def newShape (w : Word) (len : Nat) : Eff Unit := do
  let sh := Shape.ofWord w
  trapIf (!shapeOk w || sh.opened || sh.tier != 2) .tileShape
  match elemOf sh.fword with
  | none => .error (.trap .formatInvalid 0)
  | some x =>
    trapIf (fwordScaled sh.fword || decide ((geometry sh.layout.toNat sh.rows.toNat sh.cols.toNat x.nibbles).2 < len)) .tileShape

/-- CPY into a new tile; `hd` is the destination register. The shape word is checked before the source (log entry 111). -/
def copyNew (k : SrcKind) (fn : Nat) (g : BitVec 4) (d s t : BitVec 5) (hx hd : BitVec 6) (st : State) : Out :=
  guarded g st fun z => do
    let h ← sourceHandle k hx z
    trapIf (z.opH hd).isSome .handleLive
    let len ← copyLength (z.opB t)
    newShape (z.opB d) len
    let src ← copySource k (z.opB s) len h z
    blockIf (!z.queueOpen .copy) z
    .ok (z.enqueue (some .copy) (.copy (CopyCmd.new fn src (.newTile (z.opB d) hd.toNat none) (z.opB d) (z.opB s) len)))

def execCpyLl (g : BitVec 4) (d s t : BitVec 5) (st : State) : Out := copyTo false .ls 0 g d s t 0 st
def execCpyLv (g : BitVec 4) (d s t : BitVec 5) (st : State) : Out := copyTo true .ls 1 g d s t 0 st
def execCpyLn (g : BitVec 4) (d s t : BitVec 5) (hx : BitVec 6) (st : State) : Out := copyNew .ls 2 g d s t hx hx st
def execCpyVl (g : BitVec 4) (d s t : BitVec 5) (st : State) : Out := copyTo false .va 3 g d s t 0 st
def execCpyVv (g : BitVec 4) (d s t : BitVec 5) (st : State) : Out := copyTo true .va 4 g d s t 0 st
def execCpyVn (g : BitVec 4) (d s t : BitVec 5) (hx : BitVec 6) (st : State) : Out := copyNew .va 5 g d s t hx hx st
def execCpyHl (g : BitVec 4) (d s t : BitVec 5) (hx : BitVec 6) (st : State) : Out := copyTo false .tile 6 g d s t hx st
def execCpyHv (g : BitVec 4) (d s t : BitVec 5) (hx : BitVec 6) (st : State) : Out := copyTo true .tile 7 g d s t hx st
/-- CPY .hn writes register hx + 1, modulo 64 (log entry 43). -/
def execCpyHn (g : BitVec 4) (d s t : BitVec 5) (hx : BitVec 6) (st : State) : Out := copyNew .tile 8 g d s t hx (hx + 1) st

/-! ### CPYR (R226) -/

/-- CPYR: its destination is checked before its source (log entry 111). -/
def copyRemote (k : SrcKind) (fn : Nat) (g : BitVec 4) (d s t : BitVec 5) (hx : BitVec 6) (st : State) : Out :=
  guarded g st fun z => do
    let h ← sourceHandle k hx z
    let w := z.opB d
    let len ← copyLength (z.opB t)
    trapIf (len % 16 != 0) .copyAlign
    trapIf (bits w 38 2 != 0 || bits w 10 14 != 0 || destOffset w % 16 != 0) .copyAlign
    peerChecks (destPeer w) z
    let src ← copySource k (z.opB s) len h z
    blockIf (!z.queueOpen .copy) z
    cutRoom z
    .ok (z.enqueue (some .copy) (.copy (CopyCmd.new fn src (.remote w) w (z.opB s) len)))

def execCpyrL (g : BitVec 4) (d s t : BitVec 5) (st : State) : Out := copyRemote .ls 0 g d s t 0 st
def execCpyrV (g : BitVec 4) (d s t : BitVec 5) (st : State) : Out := copyRemote .va 1 g d s t 0 st
def execCpyrH (g : BitVec 4) (d s t : BitVec 5) (hx : BitVec 6) (st : State) : Out := copyRemote .tile 2 g d s t hx st

/-! ### MIGR (R227) -/

def execMigr (g : BitVec 4) (s t : BitVec 5) (hx : BitVec 6) (st : State) : Out :=
  guarded g st fun z => do
    let v ← liveHandle hx z
    trapIf (!targetOk (z.opB s)) .tileTarget
    trapIf (!z.isHome v.tile) .tileRemote
    trapIf (bits (z.opB t) 32 32 != 0) .copyBad
    blockIf (!z.queueOpen .copy) z
    .ok (z.enqueue (some .copy) (.move v.tile (z.opB s) (z.opB t).toNat z.cycle true none))

end Sys2Proof.Machine
end

