-- ==== Sys2Proof/Machine/System.lean ====
section
/-! DEFINITION. The privileged forms (R184 to R189, R42 to R44, R324 to R328): span entries, the stop of a context, its save area,
REJOIN. -/

namespace Sys2Proof.Machine

/-! ### Ranges named by virtual address -/

/-- Translate a range frame by frame; no range here spans more than two frames. -/
def segments (a : Access) (va : Word) (n : Nat) (s : State) : Eff (List (Xlat × Nat) × State) := do
  let room := 2 ^ 21 - va.toNat % 2 ^ 21
  let (x, s) ← xlate a va s
  if n ≤ room then .ok ([(x, n)], s)
  else do
    let (y, s) ← xlate a (va + BitVec.ofNat 64 room) s
    .ok ([(x, room), (y, n - room)], s)

/-- The bytes of a range, piece by piece. -/
def fetchSegments (va : Word) : List (Xlat × Nat) → State → Eff (List Byte × State)
  | [], s => .ok ([], s)
  | (x, n) :: r, s => do
    let (bs, s) ← readBlock va x n s
    let (cs, s) ← fetchSegments va r s
    .ok (bs ++ cs, s)

/-! ### SPLOAD (R35 to R37, R185) -/

/-- A frame slot from its word. -/
def slotOf (v : Nat) : Option Slot :=
  if v / 2 ^ 31 % 2 = 0 then none
  else some ⟨(match v / 2 ^ 29 % 4 with | 0 => .tile | 1 => .mortar | _ => .code), v / 2 ^ 27 % 4, v / 2 ^ 25 % 4, v / 2 ^ 5 % 2 ^ 20⟩

/-- Mode of a span entry. -/
def modeOf (n : Nat) : SpanMode := match n with | 0 => .localWin | 1 => .remote | _ => .staged

/-- A present slot passes R37 in an entry of a mode and address space. -/
def slotOk (mode : SpanMode) (asid : Nat) (f : Slot) : Bool :=
  frameExists f.tier f.die f.frame &&
  (!(frameReserved f.tier f.frame) || asid == 0) &&
  (!(f.tier == 0 && f.frame == 262143) || f.cls == .mortar) &&
  (match mode with
    | .localWin => !(f.tier == 2 && f.cls != .tile) && !(f.tier == 3 && f.cls != .mortar)
    | .remote => f.cls == .mortar
    | .staged => f.cls == .tile)

/-- The words of the 128 slots of an image. -/
def imageSlot (bs : List Byte) (k : Nat) : Nat := ofBytes ((bs.drop (16 + 4 * k)).take 4)

/-- The entry that an image holds; none where R37 rejects it. -/
def State.spanImage (s : State) (bs : List Byte) : Option Span :=
  let hdr := ofBytes (bs.take 8)
  let peer := BitVec.ofNat 14 (hdr / 2 ^ 47)
  let asid := hdr / 2 ^ 32 % 2 ^ 12
  let mode := modeOf (hdr / 2 ^ 61 % 4)
  let slots := (List.range 128).filterMap fun k => (slotOf (imageSlot bs k)).map fun f => (k, f)
  let clsOk := (List.range 128).all fun k => imageSlot bs k / 2 ^ 31 % 2 == 0 || imageSlot bs k / 2 ^ 29 % 4 != 3
  if hdr / 2 ^ 61 % 4 ≠ 3 ∧ clsOk = true ∧ (if mode = .localWin then peer = s.peer else peer ≠ s.peer) ∧
      (slots.all fun e => slotOk mode asid e.2) = true then
    some ⟨decide (hdr / 2 ^ 63 % 2 = 1), mode, peer, BitVec.ofNat 12 asid, slots⟩
  else none

def execSpload (g : BitVec 4) (s t : BitVec 5) (st : State) : Out :=
  guarded g st fun z => do
    privileged z
    let va := z.opB s
    let sel := z.opB t
    trapIf (va.toNat % 16 != 0) .misalign va
    let (segs, z) ← segments .load va 528 z
    trapIf (segs.any fun e => e.1.cls != .mortar || e.1.hub) .pageClass va
    let dies := bits sel 16 4
    let index := bits sel 0 12
    trapIf (bits sel 20 44 != 0 || bits sel 12 4 != 0 || dies == 0) .spanBad va
    let (bs, z) ← fetchSegments va segs z
    match z.spanImage bs with
    | none => .error (.trap .spanBad va)
    | some e => do
      let sel := (List.range 4).filter fun k => dies.testBit k
      trapIf (sel.any fun k => match z.spans.look (4096 * k + index) with | none => false | some o => !o.slots.isEmpty) .spanBad va
      .ok { z with spans := sel.foldl (fun t k => t.put (4096 * k + index) e) z.spans }

/-! ### SPINV (R42 to R44, R186) -/

/-- First address of a slot of a span. -/
def slotVa (span slot : Nat) : Nat := span * 2 ^ 28 + slot * 2 ^ 21

/-- An address lies in a range. -/
def within (base len va : Nat) : Bool := decide (base ≤ va ∧ va < base + len)

/-- The frames of this package that the windows of an address space name in a range, as PA / 2^21. -/
def State.namedFrames (s : State) (asid : BitVec 12) (base len : Nat) : List Nat :=
  (s.spans.flatMap fun e =>
    if e.2.asid == asid && e.2.mode == .localWin then
      (e.2.slots.filter fun f => within base len (slotVa (e.1 % 4096) f.1)).map fun f => mkPa f.2.tier f.2.die f.2.frame 0 / 2 ^ 21
    else []).eraseDups

/-- A live snapshot lies over one of the frames. -/
def State.snapOver (s : State) (frames : List Nat) : Bool :=
  s.snaps.any fun e => frames.any fun f => decide (e.2.base < (f + 1) * 2 ^ 14 ∧ f * 2 ^ 14 < e.2.base + e.2.len)

/-- Clear the present slots of a range on every die, those of entries that are not valid too. -/
def State.clearSlots (s : State) (asid : BitVec 12) (base len : Nat) : State :=
  { s with spans := s.spans.map fun e => (e.1,
      if e.2.asid = asid then
        { e.2 with slots := e.2.slots.filter fun f => !within base len (slotVa (e.1 % 4096) f.1) }
      else e.2) }

/-- A copy holds translations for these of its bytes (R40): those of the chunks in progress, and those kept for the rest of a chunk. -/
def CopyCmd.heldBytes (k : CopyCmd) (kept : Option Kept) : List (Nat × Nat) :=
  (k.inFlight.map fun q => (q.start, q.start + q.len)) ++
  (match kept with | some t => if k.started < t.upto then [(k.started, t.upto)] else [] | none => [])

/-- A chunk in progress holds a translation of the range. -/
def Cmd.holds (c : Cmd) (base len : Nat) : Bool :=
  match c.op with
  | .copy k =>
    (match k.src with | .va a => (k.heldBytes k.srcKept).any fun r => overlaps (a + r.1, a + r.2) (base, base + len) | _ => false) ||
    (match k.dst with | .va a => (k.heldBytes k.dstKept).any fun r => overlaps (a + r.1, a + r.2) (base, base + len) | _ => false)
  | _ => false

/-- An access of a context to an address of the range is on its way: a load, an access through a REMOTE window, a question about bytes there. -/
def Ctx.reaches (x : Ctx) (base len : Nat) (frames : List Nat) : Bool :=
  (x.loads.any fun l => match l.pa with | none => false | some p => frames.contains (p / 2 ^ 21) || within base len l.va.toNat) ||
  (x.remote.any fun r => within base len r.va.toNat) ||
  (x.reply.asked.any fun q => [4, 11, 12, 13].contains q.1 && within base len x.reply.va.toNat) ||
  x.late.any fun q => [4, 11, 12, 13].contains q.1

/-- The front end has an access to a peer on its way: bytes of a lease list, or a completion record (R299, R306). -/
def State.frontTravels (s : State) : Bool := s.frontAsked.isSome || s.launches.any fun l => l.record == .sent

/-- An access, a chunk or a frame-buffer entry still holds an old translation of the range: pieces of copies that are gone and accesses of the front
end too, while they are on their way. Accesses and chunks under other address-space identifiers are waited for too, because a context may have
changed its own since (log entry 105). -/
def State.oldTranslation (s : State) (asid : BitVec 12) (base len : Nat) (frames : List Nat) : Bool :=
  s.frontTravels || s.cores.any fun e =>
    (e.2.frames.any fun f => f.asid == asid && within base len (slotVa f.span f.slot)) ||
    (e.2.ctxs.any fun x => x.2.reaches base len frames) || (e.2.cmds.any fun c => c.holds base len) || !e.2.strays.isEmpty

/-- The lines of frames that some L1 holds. -/
def State.cachedLines (s : State) (frames : List Nat) : List Nat :=
  (s.cores.flatMap fun e => (e.2.l1.map (·.1)).filter fun l => frames.contains (l / 2 ^ 14)).eraseDups

/-- The homes take back the lines of frames that are at rest. -/
def State.takeBack (s : State) (frames : List Nat) : State :=
  (s.cachedLines frames).foldl (fun s l => if s.lineQuiet l then s.homeTake l else s) s

/-- Remember what a privileged form waits for (R184). -/
def State.midway (s : State) (kind : Nat) : State := s.modMe fun x => { x with reply := { x.reply with asked := some (kind, 0) } }

def execSpinv (g : BitVec 4) (d s t : BitVec 5) (st : State) : Out :=
  guarded g st fun z => do
    privileged z
    let base := (z.opB s).toNat
    let len := (z.opB t).toNat
    let asid := (z.opB d).setWidth 12
    trapIf (bits (z.opB d) 12 52 != 0 || base % 2 ^ 21 != 0 || len == 0 || len % 2 ^ 21 != 0) .spanBad (z.opB s)
    match z.me.reply.asked with
    | some (7, _) => do
      blockIf (z.me.reply.unique != some true) z
      .ok z
    | some (6, _) => do
      let frames := (z.me.reply.desc.getD []).map BitVec.toNat
      let z := z.takeBack frames
      blockIf (z.oldTranslation asid base len frames || !(z.cachedLines frames).isEmpty) z
      .error (.block ((z.midway 7).post [.spinvAck z.iss.core z.iss.ctx]))
    | _ => do
      let frames := z.namedFrames asid base len
      trapIf (z.snapOver frames) .spinvSnap (z.opB s)
      let z := (z.clearSlots asid base len).midway 6
      let z := z.modMe fun x => { x with reply := { x.reply with desc := some (frames.map fun f => BitVec.ofNat 64 f) } }
      .error (.block (z.post (z.cores.map fun e => .spinvNotice e.1 asid.toNat base len)))

/-! ### QUIESCE (R187, R324) -/

/-- A stop request reaches a context (R121, R324). -/
def Ctx.askStop (x : Ctx) : Ctx :=
  if x.stop.asked then x
  else { x with
    stop := { Stop.none with asked := true }
    loops := match x.loops with | [] => [] | l :: r => { l with drain := true } :: r }

/-- The context is stopped: issue has stopped and its three markers are back. -/
def Ctx.stopped (x : Ctx) : Bool :=
  x.run == .running && x.stop.asked && x.stop.issued && x.stop.matrix && x.stop.vector && x.stop.copy

/-- Core and context of an SR_COREID value name a context of the core in issue. -/
def namesMine (w : Word) (s : State) : Bool := bits w 0 8 == s.iss.core

def execQuiesce (g : BitVec 4) (d s : BitVec 5) (st : State) : Out :=
  guarded g st fun z => do
    privileged z
    let w := z.opB s
    let x := bits w 8 2
    trapIf (!namesMine w z || x == 3) .privOp
    let k := z.ctx z.iss.core x
    if k.run ≠ .running then .ok (z.wrB d 2 1)
    else if k.stopped then .ok (z.wrB d (if k.stop.atHead then 1 else 0) 1)
    else .error (.block ((z.modCtx z.iss.core x Ctx.askStop).midway 9))

/-! ### The save area (R327) -/

/-- Pack values of `n` bits into 64-bit words, the first lowest. -/
def packWords (n : Nat) : Nat → List Nat → List Word
  | 0, _ => []
  | k + 1, vs =>
    let per := 64 / n
    BitVec.ofNat 64 ((List.range per).foldl (fun a i => a + (vs.getD i 0) % 2 ^ n * 2 ^ (n * i)) 0) :: packWords n k (vs.drop per)

/-- The pending trap of a lane that was detected first. -/
def Ctx.pendingAt (x : Ctx) (lane : Nat) : Option TrapInfo := x.pending.find? fun t => t.lane == lane

/-- Word 0x430. -/
def Ctx.saveFlags (x : Ctx) : Word :=
  BitVec.ofNat 64 (x.cmdNo.toNat * 2 ^ 32 + x.handlerDepth % 8 * 2 ^ 8 + (if (x.pendingAt 0).isSome then 128 else 0)
    + ((List.range 4).foldl (fun a k => a + if (x.pendingAt (k + 1)).isSome then 8 * 2 ^ k else 0) 0)
    + (if x.pair.isSome then 4 else 0) + (if x.stop.atHead then 2 else 0) + (if x.handler then 1 else 0))

/-- A loop record in the area. -/
def LoopRec.save (l : LoopRec) : List Word :=
  [l.head, l.last, l.n.setWidth 64,
   BitVec.ofNat 64 (2 ^ 63 + l.mask.toNat * 256 + (if l.drain then 8 else 0) + l.stg.toNat)]

/-- The copies of a context that a stop has cut, in order. -/
def State.cutCopies (s : State) (c x : Nat) : List Cmd := (s.cmdsOf c x).filter Cmd.wasCut

/-- A copy slot. -/
def Cmd.copySlot (c : Cmd) : List Word :=
  match c.op with
  | .copy k =>
    [BitVec.ofNat 64 (c.seq.toNat * 2 ^ 32 + k.fn * 256 + (match k.dst with | .remote _ => 0xE9 | _ => 0xE8)), k.dWord, k.sWord,
     (match k.src with | .tile t _ => t.setWidth 64 | _ => 0), BitVec.ofNat 64 (k.started * 2 ^ 32 + k.len)]
  | _ => []

/-- Words of a list, filled up with zeros. -/
def padTo (n : Nat) (ws : List Word) : List Word := (List.range n).map fun k => ws.getD k 0

/-- The 512 words of the area, with zeros for the handles. -/
def State.saveWords (s : State) (c x : Nat) : List Word :=
  let k := s.ctx c x
  let cut := s.cutCopies c x
  (List.range 32).map (k.regs.a.get 0) ++ (List.range 32).map (k.regs.b.get 0) ++ padTo 64 [] ++
  [BitVec.ofNat 64 k.predicates] ++ packWords 16 4 ((List.range 16).map fun q => (k.regs.q.get 0 q).toNat) ++
  [k.pc, k.saveFlags, (match k.pair with | none => 0 | some p => BitVec.ofNat 64 (p.2.toNat * 2 ^ 16 + p.1.toNat))] ++
  (List.range 8).map (fun i => (k.nfmt.get 0 i).setWidth 64) ++
  [k.fflags.setWidth 64, (if k.check then 1 else 0), k.gtimeout.setWidth 64, k.gstat, k.asid.setWidth 64, k.lsbaseWord, k.lslenWord,
   k.tvec, k.rank.setWidth 64, k.nranks.setWidth 64, k.argp, s.coreId c x] ++
  padTo 2 (k.leases.map fun l => BitVec.ofNat 64 (l.line * 128 + 1)) ++
  padTo 4 (k.openSet.map fun t => BitVec.ofNat 64 (2 ^ 63 + t.toNat)) ++
  padTo 16 (k.loops.reverse.flatMap LoopRec.save) ++
  [BitVec.ofNat 64 ((List.range 8).foldl (fun a i => a + if k.barGen.get false i then 2 ^ i else 0) 0)] ++ padTo 5 [] ++
  (List.range 5).flatMap (fun i => match k.pendingAt i with | none => padTo 8 [] | some t => t.words 0 0 0) ++
  packWords 8 32 ((List.range 256).map fun i => (k.vflags.get 0 i).toNat) ++
  padTo 160 (cut.flatMap Cmd.copySlot) ++ padTo 95 [] ++ [BitVec.ofNat 64 cut.length]

/-- Checks of both forms (R188): the target's context and the area, translated. R188 names no cause for an area off its 4 KiB: MISALIGN (log entry
20). -/
def saveTarget (w va : Word) (s : State) : Eff (Nat × Xlat × State) := do
  privileged s
  let x := bits w 8 2
  trapIf (!namesMine w s || s.isFirmware s.iss.core x) .privOp
  trapIf (va.toNat % 4096 != 0) .misalign va
  let (a, s) ← xlate .store va s
  trapIf a.hub .pageClass va
  .ok (x, a, s)

/-- Key of the drops of a saved task. -/
def savedKey (x base : Nat) : Nat := 256 * x + base

/-- The task leaves its context for the area: registers, commands and drops (R57, R188). -/
def State.unloadTask (s : State) (c x : Nat) (t : Task) : State :=
  let k := s.ctx c x
  let cut := s.cutCopies c x
  let sv : Saved := ⟨x, t, k.lsbase.toNat, k.lslen.toNat, k.bundle,
    cut.filterMap fun m => (match m.op with
      | .copy q => (match q.src with | .tile u _ => some (u, m.bundle) | _ => none)
      | _ => none),
    cut.map (fun m => (m.serial, m.pc, match m.op with | .copy q => q.arrivalEnd s.peer.toNat c m.serial | _ => none)), false⟩
  s.modCore c fun q => { q with
    cmds := q.cmds.filter fun m => m.ctx != x
    saved := q.saved ++ [sv]
    savedDrops := q.savedDrops ++ k.drops.map fun d => (savedKey x k.lsbase.toNat, d)
    ctxs := q.ctxs.put x Ctx.reset }

/-- Nothing of a stopped context is on its way any more. -/
def State.saveQuiet (s : State) (c x : Nat) : Bool :=
  let k := s.ctx c x
  k.loads.all (·.refused) && k.remote.all (·.refused) && k.refills.isEmpty && k.late.isEmpty && k.rposts.isEmpty && k.lateFlags.isEmpty &&
    (s.cmdsOf c x).all Cmd.wasCut

/-- The words of the area with the handles in their places: a valid handle has bit 63 set. -/
def State.areaWords (s : State) (c x : Nat) : List Word :=
  let ws := s.saveWords c x
  ws.take 64 ++ (List.range 64).map (fun i => match (s.ctx c x).regs.h.look i with | none => 0 | some h => h.toWord) ++ ws.drop 128

/-- Write an area: its 64 handle words that hold a handle are tagged. -/
def State.writeArea (s : State) (pa : Nat) (bs : List Byte) : State :=
  (List.range 64).foldl (fun s i =>
    if (BitVec.ofNat 64 (s.readNat (pa + 0x200 + 8 * i) 8)).getLsbD 63 then s.setTag (pa + 0x200 + 8 * i) true else s) (s.writeRange pa bs)

/-- Whether the home of an area in a REMOTE window has carried out what the form asked (R188): asked once, when no answer to an earlier bundle can
still come for it; its refusal is a precise trap, which leaves the target and the area as they were. The question stays open until the form is
done, so that no trap and no wake comes between (R294). -/
def farArea (kind : Nat) (va : Word) (a : Xlat) (x : Nat) (v : Word) (bs : List Byte) (s : State) : Eff Unit :=
  match s.me.reply.probe with
  | some c => trapIf (c != 0) (refusalCause c) va
  | none =>
    if s.me.reply.asked.any (fun q => q.1 == kind) || s.me.late.any (fun q => answerBy q.1 == 0) then .error (.block s)
    else .error (.block ((s.modMe fun k => { k with reply := { k.reply with asked := some (kind, BitVec.ofNat 40 x), va := va } }).deliver
      a.peer.toNat (.remoteAccess s.peer.toNat s.iss.core s.iss.ctx kind a.pa v 0 s.me.pc 4096 bs)))

/-- CTXSAVE (R188, R327): SNAP_FULL where a pool cannot take a line of the area (log entry 20). -/
def execCtxsave (g : BitVec 4) (s t : BitVec 5) (st : State) : Out :=
  guarded g st fun z => do
    let va := z.opB t
    let (x, a, z) ← saveTarget (z.opB s) va z
    let c := z.iss.core
    let k := z.ctx c x
    match (if k.stopped then k.task else none) with
    | none => .error (.trap .ctxRunning 0)
    | some task => do
      trapIf (a.mode == .localWin && z.anyTag a.pa 4096) .handleClobber va
      blockIf (decide (Config.savedDropStore < z.myCore.savedDrops.length + k.drops.length)) z
      blockIf (!z.saveQuiet c x) z
      let z := z.endLeases c x fun _ => true
      let bs := (z.areaWords c x).flatMap fun w => toBytes 8 w.toNat
      if a.mode ≠ .localWin then do
        farArea 12 va a x 0 bs z
        .ok ((z.unloadTask c x task).settleFw c)
      else do
        rangeReady true a.pa 4096 z
        match z.takeToWrite a.pa 4096 with
        | none => .error (.trap .snapFull va)
        | some z => .ok (((z.writeArea a.pa bs).unloadTask c x task).settleFw c)

/-- A pending trap from its record in the area; `lane` is its place there. A record whose cause no trap has is ignored. -/
def pendingOf (ws : List Word) (cycle lane : Nat) : Option TrapInfo :=
  let w (i : Nat) : Word := ws.getD (184 + 8 * lane + i) 0
  (Cause.ofCode (bits (w 0) 0 8)).map fun c =>
    { cause := c, kind := if lane = 0 then .deferred else .engine
      engine := (match lane with | 1 => some .matrix | 2 => some .vector | 3 => some .sfu | 4 => some .copy | _ => none)
      slot := bits (w 0) 10 2, imm := (w 0).extractLsb' 16 15, seq := (w 0).extractLsb' 32 32, pc := w 2, addr := w 3
      cancelled := bits (w 4) 32 16, progress := bits (w 4) 0 32, cycle := cycle }

/-- A copy from its slot; none for words that name no cut copy. -/
def copyOf (ws : List Word) (k : Nat) : Option (CopyCmd × BitVec 32) :=
  let w (i : Nat) : Word := ws.getD (256 + 5 * k + i) 0
  let fn := bits (w 0) 8 5
  let remote := bits (w 0) 0 8 == 0xE9
  let src := if remote then fn else fn / 3
  let dst := if remote then 0 else fn % 3
  if src < 3 ∧ dst < 2 ∧ (remote = true ∨ bits (w 0) 0 8 = 0xE8) then
    some (⟨fn, (match src with | 0 => .ls (w 2).toNat | 1 => .va (w 2).toNat | _ => .tile ((w 3).setWidth 40) (w 2).toNat),
      (if remote then .remote (w 1) else if dst = 0 then .ls (w 1).toNat else .va (w 1).toNat), w 1, w 2,
      bits (w 4) 0 32, bits (w 4) 32 32, [], bits (w 4) 32 32, false, [], none, none, []⟩, (w 0).extractLsb' 32 32)
  else none

/-- The loop stack of the area, innermost first. -/
def loopsOf (ws : List Word) : List LoopRec :=
  ((List.range 4).filterMap fun k =>
    let w (i : Nat) : Word := ws.getD (162 + 4 * k + i) 0
    if (w 3).getLsbD 63 then
      some ⟨w 0, w 1, (w 3).setWidth 3, (w 2).setWidth 32, (w 3).extractLsb' 8 8, false⟩
    else none).reverse

/-- The context that an area describes (R328): drain is clear, and a context stopped at a loop head begins a pass. -/
def ctxOf (ws : List Word) (hs : Tab Handle) (cycle : Nat) : Ctx :=
  let w (i : Nat) : Word := ws.getD i 0
  let fl := w 134
  let list (t : Tab Word) (i : Nat) : Tab Word := t.set 0 i (w i)
  let x : Ctx := { Ctx.reset with
    regs :=
      { a := (List.range 31).foldl (fun t i => list t (i + 1)) []
        b := (List.range 31).foldl (fun t i => t.set 0 (i + 1) (w (33 + i))) []
        h := hs
        p := (List.range 7).foldl (fun t i => t.set false (i + 1) ((w 128).getLsbD (i + 1))) []
        q := (List.range 16).foldl (fun t i => t.set 0 i ((w (129 + i / 4)).extractLsb' (16 * (i % 4)) 16)) [] }
    pc := w 133
    run := .running
    cmdNo := fl.extractLsb' 32 32
    handlerDepth := bits fl 8 3
    handler := fl.getLsbD 0
    pair := if fl.getLsbD 2 then some ((w 135).setWidth 16, (w 135).extractLsb' 16 16) else none
    nfmt := (List.range 8).foldl (fun t i => t.set 0 i ((w (136 + i)).setWidth 16)) []
    fflags := (w 144).setWidth 5
    check := (w 145).getLsbD 0
    gtimeout := (w 146).setWidth 32
    gstat := w 147 &&& 0xFF00FFFFFFFFFFFF
    asid := (w 148).setWidth 12
    lsbase := (w 149).extractLsb' 12 8
    lslen := (w 150).extractLsb' 12 9
    tvecRec := (w 151).extractLsb' 50 14
    tvecHandler := (w 151).extractLsb' 4 36
    rank := (w 152).setWidth 10
    nranks := (w 153).setWidth 11
    argp := w 154
    leases := (List.range 2).filterMap fun i =>
      if (w (156 + i)).getLsbD 0 then some ⟨(w (156 + i)).toNat / 128, .expired, 0, 0⟩ else none
    openSet := (List.range 4).filterMap fun i => if (w (158 + i)).getLsbD 63 then some ((w (158 + i)).setWidth 40) else none
    loops := loopsOf ws
    barGen := (List.range 8).foldl (fun t i => t.set false i ((w 178).getLsbD i)) []
    pending := (List.range 5).filterMap fun i =>
      if fl.getLsbD (if i = 0 then 7 else 2 + i) then pendingOf ws cycle i else none
    vflags := (List.range 256).foldl (fun t i => t.set 0 i ((w (224 + i / 8)).extractLsb' (8 * (i % 8)) 5)) []
    readyAt := cycle + 1 }
  if fl.getLsbD 1 then x.beginPass else x

/-- Re-enter the copies of an area, in order (R328), each with the number that the core gave it when it issued, by which the window in which a CPYR
arrives knows it (R84), and with the address of its bundle, which a fault reports (R320). -/
def State.reenter (s : State) (c x : Nat) (cs : List ((CopyCmd × BitVec 32) × Option (Nat × Word))) : State :=
  cs.foldl (fun s e => s.modCore c fun k =>
    let me := k.ctx x
    { k with
      cmds := k.cmds ++ [{ serial := (e.2.map (·.1)).getD k.nextSerial, ctx := x, engine := some .copy, seq := e.1.2
                           pc := (e.2.map (·.2)).getD me.pc, bundle := 0
                           win := me.winBase, winLen := me.winLen, op := .copy e.1.1, running := false, progress := e.1.1.landed
                           fetched := false, steps := 0, panel := 0, feWait := none }]
      nextSerial := k.nextSerial + 1 }) s

/-- The task that a saved context belongs to: that of its context and window; an area that no save of this core wrote names none
(log entry 21). -/
def Core.savedTask (k : Core) (x base : Nat) : Option Saved := k.saved.find? fun v => v.ctx == x && v.base == base && !v.discarded

/-- Room in the copy queue for the copies that come back. -/
def State.copyRoom (s : State) (n : Nat) : Bool :=
  let used := (s.myCore.cmds.filter fun m => m.queue == some .copy && m.inQueue).length
  decide (used + n + (if s.isFirmware s.iss.core 3 then 1 else 0) ≤ Config.copyDepth)

/-- The task of an area is back in its context, with its handles, its copies and its drops (R328). -/
def State.loadTask (s : State) (x : Nat) (ws : List Word) (hs : Tab Handle) : State :=
  let c := s.iss.core
  let y := ctxOf ws hs s.cycle
  let sv := s.myCore.savedTask x y.lsbase.toNat
  let key := savedKey x y.lsbase.toNat
  let y := { y with
    task := some (match sv with | some v => v.task | none => ⟨0, []⟩)
    bundle := (match sv with | some v => v.bundle | none => 0)
    drops := (s.myCore.savedDrops.filter fun e => e.1 == key).map (·.2) }
  let s := s.modMyCore fun q => { q with
    ctxs := q.ctxs.put x y
    saved := q.saved.filter fun v => !(v.ctx == x && v.base == y.lsbase.toNat && !v.discarded)
    savedDrops := q.savedDrops.filter fun e => e.1 != key }
  let copies : List (Nat × Word) := match sv with | some v => v.copies.map fun e => (e.1, e.2.1) | none => []
  s.reenter c x ((List.range (Nat.min (ws.getD 511 0).toNat 32)).filterMap fun i => (copyOf ws i).map fun k => (k, copies[i]?))

/-- The words of an area's bytes. -/
def wordsOf : Nat → List Byte → List Word
  | 0, _ => []
  | n + 1, bs => BitVec.ofNat 64 (ofBytes (bs.take 8)) :: wordsOf n (bs.drop 8)

/-- CTXLOAD (R188, R328): the area is read and checked, then its handles are taken from it. From the first request to a peer on, the context is
kept for the task. That CTX_RUNNING comes before the PRIV_OP of the area's SR_COREID, and SNAP_FULL of the area's lines last, is the model's order
(log entry 20). -/
def execCtxload (g : BitVec 4) (s t : BitVec 5) (st : State) : Out :=
  guarded g st fun z => do
    let va := z.opB t
    let (x, a, z) ← saveTarget (z.opB s) va z
    let c := z.iss.core
    let k := z.ctx c x
    trapIf (k.task.isSome || k.run == .running || k.run == .ending) .ctxRunning
    let (bs, z') ← readBlock va a 4096 z
    let ws := wordsOf 512 bs
    trapIf (ws.getD 155 0 != z.coreId c x) .privOp
    blockIf (!z.copyRoom (Nat.min (ws.getD 511 0).toNat 32)) z'
    if a.mode ≠ .localWin then do
      match z.me.reply.desc with
      | some hs =>
        .ok (z.loadTask x ws ((List.range 64).filterMap fun i =>
          if (hs.getD i 0).getLsbD 63 then some (i, Handle.ofWord (hs.getD i 0)) else none))
      | none => do
        farArea 13 va a x (z.coreId c x) [] (z.modCtx c x fun k => { k with run := .halted })
        .error (.block z)
    else do
      rangeReady true a.pa 4096 z
      match z.takeToWrite a.pa 4096 with
      | none => .error (.trap .snapFull va)
      | some z =>
        let at_ (i : Nat) : Nat := a.pa + 0x200 + 8 * i
        let hs := (List.range 64).filterMap fun i => if z.tag (at_ i) then some (i, z.readHandle (at_ i)) else none
        .ok ((hs.foldl (fun z e => z.clearWord (at_ e.1)) z).loadTask x ws hs)

/-! ### REJOIN (R189, R267) -/

/-- Every home of the package has flipped the core's incarnation bit. -/
def State.rejoined (s : State) (c : Nat) : Bool := (List.range 128).all fun k => s.incHome.get false (128 * c + k) == s.inc c

def execRejoin (g : BitVec 4) (st : State) : Out :=
  guarded g st fun z => do
    privileged z
    let c := z.iss.core
    match z.me.reply.asked with
    | some (8, _) => do
      blockIf (!z.rejoined c) z
      .ok z
    | _ => do
      trapIf (!z.myCore.l1.isEmpty) .rejoinState
      let z := { z with incOwn := z.incOwn.set false c (!z.inc c) }
      .error (.block ((z.midway 8).post ((List.range 128).map fun k => .rejoinNotice c k)))

end Sys2Proof.Machine
end

