-- ==== Sys2Proof/Machine/Launch.lean ====
section
/-! DEFINITION. Launches: packets and regions (R298 to R302), residency (R303), dispatch (R304), the end of tasks (R51, R302, R323). -/

namespace Sys2Proof.Machine

/-! ### Device accesses to memory -/

/-- The entry and the slot of a die's span table at an address of an address space (R39, without a context). -/
def State.walk (s : State) (die : Nat) (asid : BitVec 12) (va : Nat) : Option (Span × Slot) :=
  if 2 ^ 40 ≤ va then none
  else match s.spans.look (4096 * die + va / 2 ^ 28 % 4096) with
  | none => none
  | some e => if e.valid && e.asid == asid then (e.slots.look (va / 2 ^ 21 % 128)).map fun f => (e, f) else none

/-- The package and the address there that a virtual address of an address space names, whatever the class of its frame. -/
def State.vaPlace (s : State) (die : Nat) (asid : BitVec 12) (va : Nat) : Option (Nat × Nat) :=
  (s.walk die asid va).map fun e => (e.1.peer.toNat, mkPa e.2.tier e.2.die e.2.frame (va % 2 ^ 21))

/-- The same for an address in a mortar frame that is not the hub's, and whose package answers. -/
def State.mortarPlace (s : State) (die : Nat) (asid : BitVec 12) (va : Nat) : Option (Nat × Nat) :=
  match s.walk die asid va, s.vaPlace die asid va with
  | some (e, f), some (p, pa) =>
    if f.cls = .mortar ∧ isHubSpace pa = false ∧ (p = s.peer.toNat ∨ (e.mode = .remote ∧ s.peerAbsent p = false ∧ s.peerAllowed p = true)) then
      some (p, pa)
    else none
  | _, _ => none

/-- Bytes of this package as they are with every sum merged, a little-endian number. -/
def State.homeNat (s : State) (pa n : Nat) : Nat := ((linesOf pa n).foldl State.merged s).readNat pa n

/-! ### Regions (R300, R301) -/

/-- A physical address lies in a frame that some window maps as mortar memory. -/
def State.inMortarFrame (s : State) (pa : Nat) : Bool :=
  s.spans.any fun e => e.2.valid && e.2.mode == .localWin && e.2.slots.any fun f =>
    f.2.cls == .mortar && mkPa f.2.tier f.2.die f.2.frame 0 == pa / 2 ^ 21 * 2 ^ 21

/-- The chain of a region block, its own first; none beyond `fuel` blocks or past a PA that names no block. -/
def State.regionChain (s : State) : Nat → Nat → Option (List Nat)
  | 0, _ => none
  | fuel + 1, b =>
    if b % 128 ≠ 0 ∨ s.inMortarFrame b = false then none
    else
      let up := s.homeNat b 8
      if up = 0 then some [b] else (s.regionChain fuel up).map (b :: ·)

/-- A block sets a field itself. -/
def State.regionSets (s : State) (b k : Nat) : Bool := (s.homeNat (b + 8) 1).testBit k

/-- The block that gives a field to the first block of a chain: the nearest that sets it. -/
def State.regionSource (s : State) (chain : List Nat) (k : Nat) : Option Nat := chain.find? fun b => s.regionSets b k

/-- The root sets every field. -/
def State.rootOk (s : State) (chain : List Nat) : Bool :=
  match chain.getLast? with
  | none => false
  | some b => (List.range 7).all (s.regionSets b)

/-- A field of a region as resolved, from its bytes in the block that gives it. -/
def State.regionField (s : State) (chain : List Nat) (k off n : Nat) : Nat :=
  match s.regionSource chain k with | none => 0 | some b => s.homeNat (b + off) n

/-- The limits that bind at the first block of a chain: cores, contexts, ls, near. -/
def State.regionLimits (s : State) (chain : List Nat) : List Nat :=
  [s.regionField chain 1 16 2, s.regionField chain 2 18 2, s.regionField chain 3 20 4, s.regionField chain 4 24 4]

/-- Offsets and widths of the usage fields, in the same order. -/
def usageFields : List (Nat × Nat) := [(32, 2), (34, 2), (36, 4), (40, 4)]

def State.regionUsage (s : State) (b : Nat) : List Nat := usageFields.map fun f => s.homeNat (b + f.1) f.2

/-- Change the usage of a block. -/
def State.setUsage (s : State) (b : Nat) (f : List Nat → List Nat) : State :=
  let u := f (s.regionUsage b)
  s.deviceWrite (b + 32) ((toBytes 2 (u.getD 0 0)) ++ toBytes 2 (u.getD 1 0) ++ toBytes 4 (u.getD 2 0) ++ toBytes 4 (u.getD 3 0))

/-- The suffixes of a chain, the whole chain first: a launch is bound at every level (R301). -/
def levels : List Nat → List (List Nat)
  | [] => []
  | b :: r => (b :: r) :: levels r

def Launch.demandCtxs (l : Launch) : Nat := l.pkt.cores.length * l.pkt.ctxs
/-- Window of a task in units of 4 KiB. -/
def Launch.lslen (l : Launch) : Nat := l.pkt.lsbytes / 4096

/-- Demand (R302). -/
def Launch.demand (l : Launch) : List Nat := [l.pkt.cores.length, l.demandCtxs, l.demandCtxs * l.lslen, l.near]

/-- Demand fits under a limit, with usage. -/
def fits (usage demand limit : List Nat) : Bool :=
  (List.range 4).all fun k => decide (usage.getD k 0 + demand.getD k 0 ≤ limit.getD k 0)

/-- The usage fields of the region blocks of a chain can be read and written by their homes. -/
def State.chainQuiet (s : State) (chain : List Nat) : Bool := chain.all fun b => s.rangeQuiet (b + 32) 12

/-- The refills that the shadows of a change of usage at every block of a chain take (R58). -/
def State.usageRefills (s : State) (chain : List Nat) : List (BitVec 40) := chain.flatMap fun b => s.rangeRefills (b + 32) 12

/-- A list of refills has come. -/
def State.haveRefills (s : State) (want : List (BitVec 40)) : Bool := (lacking want s.refillHeld).isEmpty

/-- The usage of a chain can be changed now: the refills that this takes have come too. -/
def State.chainReady (s : State) (chain : List Nat) : Bool := s.chainQuiet chain && s.haveRefills (s.usageRefills chain)

/-! ### Packets (R298, R299) -/

/-- A packet from its 128 bytes. -/
def Packet.ofBytes (bs : List Byte) : Packet :=
  let f (o n : Nat) : Nat := Machine.ofBytes ((bs.drop o).take n)
  { ctxs := f 2 1, lsbytes := f 4 4, region := f 8 8, code := BitVec.ofNat 64 (f 16 8), tvec := BitVec.ofNat 64 (f 24 8)
    cores := (List.range 256).filter fun c => (bs.getD (32 + c / 8) 0).getLsbD (c % 8)
    leaseVa := f 64 8, nlease := f 72 4, args := BitVec.ofNat 64 (f 80 8), record := f 88 8, flag := BitVec.ofNat 64 (f 96 8)
    barcfg := BitVec.ofNat 48 (f 112 6), tag := BitVec.ofNat 64 (f 120 8) }

/-- The limits and reserved fields of R298, and a named core. -/
def packetFields (bs : List Byte) : Bool :=
  let p := Packet.ofBytes bs
  let f (o n : Nat) : Nat := ofBytes ((bs.drop o).take n)
  f 0 2 == 1 && decide (1 ≤ p.ctxs ∧ p.ctxs ≤ 4) && f 3 1 == 0 && p.lsbytes % 4096 == 0 && p.lsbytes != 0 &&
    p.code.toNat % 16 == 0 && !p.cores.isEmpty && p.leaseVa % 16 == 0 && decide (1 ≤ p.nlease ∧ p.nlease ≤ 64) &&
    f 76 4 == 0 && p.record % 32 == 0 && bits p.flag 44 19 == 0 && bits p.flag 38 2 == 0 && bits p.flag 10 14 == 0 && f 118 2 == 0

/-- What a packet asks of each named core (R299): it is not disabled, and it can hold the contexts and windows (log entry 48). -/
def State.packetCores (s : State) (p : Packet) : Bool :=
  p.cores.all fun c => !s.disabledCores.get false c &&
    if s.isFirmware c 3 then decide (p.ctxs ≤ 3 ∧ p.ctxs * p.lsbytes + 4096 * (s.fwOn c).2.toNat ≤ 1048576)
    else decide (p.ctxs * p.lsbytes ≤ 1048576)

/-- A core-scope barrier has at most four participants (R81). -/
def Packet.barsOk (p : Packet) : Bool :=
  (List.range 8).all fun k => p.barcfg.getLsbD (6 * k + 5) || decide ((p.barcfg.extractLsb' (6 * k) 5).toNat ≤ 3)

/-- The die in whose span table the device translates for a launch: that of its lowest named core. -/
def Packet.die (p : Packet) : Nat := dieOf (p.cores.headD 0)

/-- The lease list of a packet as ranges of virtual addresses, each in one 2 MiB frame. -/
def Packet.listParts (p : Packet) : List (Nat × Nat) :=
  let n := 16 * p.nlease
  let room := 2 ^ 21 - p.leaseVa % 2 ^ 21
  if n ≤ room then [(p.leaseVa, n)] else [(p.leaseVa, room), (p.leaseVa + room, n - room)]

/-- What the front end cannot go on without: bytes of a peer, by package, address and length. -/
abbrev Wanted := Nat × Nat × Nat

/-- A range of a package as one number, by which the front end knows its bytes. -/
def Wanted.key (w : Wanted) : Nat := w.1 * 2 ^ 45 + w.2.1

/-- The bytes of a lease list (R299), part by part: an error names the bytes that a peer has yet to send, or nothing where the list lies outside
the span windows, is poisoned, or its peer refuses it. -/
def State.listBytes (s : State) (die : Nat) (asid : BitVec 12) : List (Nat × Nat) → Except (Option Wanted) (List Byte)
  | [] => .ok []
  | (va, n) :: r =>
    match s.vaPlace die asid va with
    | none => .error none
    | some (p, pa) =>
      let part : Except (Option Wanted) (List Byte) :=
        if p = s.peer.toNat then
          if s.poisoned pa n then .error none else .ok ((s.takeRange pa n).readBytes pa n)
        else match s.frontGot.find? fun e => e.1 == Wanted.key (p, pa, n) with
          | none => if s.peerAbsent p = true ∨ s.peerAllowed p = false then .error none else .error (some (p, pa, n))
          | some (_, ws) => if ws.isEmpty then .error none else .ok (ws.flatMap fun w => toBytes 8 w.toNat)
      match part with
      | .error e => .error e
      | .ok bs => (s.listBytes die asid r).map (bs ++ ·)

/-- The entries that the bytes of a lease list hold; none where one is not as R298 asks. -/
def leaseEntries (bs : List Byte) (n : Nat) : Option (List (Nat × Nat)) :=
  let es := (List.range n).map fun i => (ofBytes ((bs.drop (16 * i)).take 8), ofBytes ((bs.drop (16 * i + 8)).take 8))
  if es.all (fun e => e.1 % 4096 == 0 && e.2 % 4096 == 0 && e.2 != 0) then some es else none

/-- The front end asks a peer for bytes: one range at a time. -/
def State.frontAsk (s : State) (w : Wanted) : State :=
  if s.frontAsked.isSome then s
  else ({ s with frontAsked := some w.key } : State).deliver w.1 (.remoteAccess s.peer.toNat noCore 0 9 w.2.1 0 0 0 w.2.2 [])

/-- Bytes that the front end has asked for come, or are refused: no words. -/
def State.frontAnswer (s : State) (ws : List Word) : State :=
  match s.frontAsked with
  | none => s
  | some k => { s with frontAsked := none, frontGot := s.frontGot ++ [(k, ws)] }

/-- A range lies in one entry of a lease. -/
def leaseHolds (lease : List (Nat × Nat)) (va n : Nat) : Bool := lease.any fun e => decide (e.1 ≤ va ∧ va + n ≤ e.1 + e.2)

/-- The 2 MiB frames that a lease covers. -/
def leaseFrames (lease : List (Nat × Nat)) : List Nat :=
  (lease.flatMap fun e => (List.range ((e.1 + e.2 - 1) / 2 ^ 21 - e.1 / 2 ^ 21 + 1)).map (e.1 / 2 ^ 21 + ·)).eraseDups

/-- Dies that hold a named core. -/
def Packet.dies (p : Packet) : List Nat := (p.cores.map dieOf).eraseDups

/-- Distinct near-memory frames that a lease translates to (R302), of this package and, through REMOTE and STAGED windows, of others (R37). -/
def State.nearFrames (s : State) (p : Packet) (asid : BitVec 12) (lease : List (Nat × Nat)) : Nat :=
  (((leaseFrames lease).flatMap fun f => p.dies.filterMap fun d =>
    match s.walk d asid (f * 2 ^ 21) with
    | some (e, q) => if q.tier = 1 then some (e.peer.toNat, q.die, q.frame) else none
    | none => none).eraseDups).length

/-! ### Residency (R303, R309) -/

/-- The frames that a launch misses: the dies that lack it as a mask, the address. -/
def State.missing (s : State) (l : Launch) : List (Nat × Nat) :=
  (leaseFrames l.lease).filterMap fun f =>
    let m := l.pkt.dies.foldl (fun m d => if (s.walk d l.asid (f * 2 ^ 21)).isNone then m + 2 ^ d else m) 0
    if m = 0 then none else some (m, f * 2 ^ 21)

/-- The launch with its demand for near memory as its lease translates now (R302). -/
def State.current (s : State) (l : Launch) : Launch := { l with near := s.nearFrames l.pkt l.asid l.lease }

/-- The demand lies within the limit of every level, whatever the usage (R302). -/
def State.withinLimits (s : State) (l : Launch) : Bool :=
  (levels l.chain).all fun ch => fits [0, 0, 0, 0] l.demand (s.regionLimits ch)

/-- Test the residency of a launch: it waits with its requests on their way, or it is pending. One whose frames, now that all are resident, are
more near-memory frames than a limit allows is rejected (log entry 96). -/
def State.testResidency (s : State) (l : Launch) : State :=
  let miss := s.missing l
  let becomes (st : LaunchState) (s : State) : State :=
    { s with launches := s.launches.map fun k => if k.id = l.id then { s.current k with state := st } else k }
  if miss.isEmpty then (if s.withinLimits (s.current l) then becomes .pending s else (becomes (.ended 2) s).post [.launchComplete l.id])
  else
    let ask : List (Nat × Nat × Nat × Nat) := miss.map fun e => (l.id, l.asid.toNat, e.1, e.2)
    let s := { s with resHeld := s.resHeld ++ ask }
    becomes .waitingResidency (s.flushResidency s.resHeld.length)

/-! ### Dispatch (R304) -/

/-- A process holds the turn while a slot is mapped to it (R308, R310). -/
def State.hasTurn (s : State) (proc : Nat) : Bool := s.slots.any fun e => e.2.mapped && e.2.proc.toNat == proc

/-- A context can take a task. -/
def State.ctxFree (s : State) (c x : Nat) : Bool :=
  !s.isFirmware c x && (s.ctx c x).task.isNone && (s.ctx c x).run == .idle

def State.freeCtxs (s : State) (c : Nat) : List Nat := [0, 1, 2, 3].filter (s.ctxFree c)

/-- Windows in use on a core, in units of 4 KiB: of tasks, of saved tasks (R328), of firmware (R311). -/
def State.windows (s : State) (c : Nat) : List (Nat × Nat) :=
  let k := s.core c
  ((k.ctxs.filter fun e => e.2.task.isSome).map fun e => (e.2.lsbase.toNat, e.2.lsbase.toNat + e.2.lslen.toNat)) ++
  (k.saved.map fun v => (v.base, v.base + v.len)) ++
  (if s.isFirmware c 3 then [(256 - (s.fwOn c).2.toNat, 256)] else [])

/-- The lowest free base for a window. -/
def findWindow (used : List (Nat × Nat)) (n : Nat) : Option Nat :=
  (List.range 256).find? fun b => decide (b + n ≤ 256) && !used.any (overlaps (b, b + n))

/-- Bases of `k` windows, each the lowest that fits. -/
def placeWindows (n : Nat) : Nat → List (Nat × Nat) → Option (List Nat)
  | 0, _ => some []
  | k + 1, used =>
    match findWindow used n with
    | none => none
    | some b => (placeWindows n k ((b, b + n) :: used)).map (b :: ·)

/-- A core holds a task of another launch. -/
def State.heldByOther (s : State) (c id : Nat) : Bool := (s.core c).ctxs.any fun e => e.2.task.any fun t => t.launch != id

/-- The barrier conditions of R304, and cores that another launch holds exclusively. -/
def State.barriersFree (s : State) (l : Launch) : Bool :=
  (l.pkt.barcfg == 0 || !(l.pkt.cores.any fun c => s.heldByOther c l.id)) &&
  !(s.launches.any fun o => o.id != l.id && o.state == .running && o.pkt.barcfg != 0 && o.pkt.cores.any l.pkt.cores.contains) &&
  (List.range 8).all fun k => !l.pkt.barcfg.getLsbD (6 * k + 5) ||
    !(s.cores.any fun e => (l.pkt.cores.any fun c => courseOf c == courseOf e.1) && s.heldByOther e.1 l.id && e.2.barCourse k)

/-- The windows that a launch's tasks would take on each named core. -/
def State.placement (s : State) (l : Launch) : Option (List (Nat × Nat × Nat)) :=
  l.pkt.cores.foldl (fun o c => match o with
    | none => none
    | some ts =>
      match placeWindows l.lslen l.pkt.ctxs (s.windows c) with
      | none => none
      | some bs => if (s.freeCtxs c).length < l.pkt.ctxs then none
          else some (ts ++ ((s.freeCtxs c).zip bs).map fun e => (c, e.1, e.2))) (some [])

/-- Usage plus demand is within the limit at every level. -/
def State.budgetFree (s : State) (l : Launch) : Bool :=
  (levels l.chain).all fun ch => match ch with | [] => true | b :: _ => fits (s.regionUsage b) l.demand (s.regionLimits ch)

/-- A core that the power cap has gated takes no task while the cap is exceeded (R339). -/
def State.powerAllows (s : State) (l : Launch) : Bool := !s.overCap || !(l.pkt.cores.any fun c => (s.core c).gated && (s.core c).capGated)

/-- Every condition of R304. -/
def State.canDispatch (s : State) (l : Launch) : Bool :=
  l.state == .pending && (s.missing l).isEmpty && s.hasTurn l.proc && s.budgetFree (s.current l) &&
    (s.placement l).isSome && s.barriersFree l && s.powerAllows l

/-- The launch that goes first (R304): highest priority, then earliest accepted. -/
def State.nextLaunchToRun (s : State) : Option Launch :=
  (s.launches.filter s.canDispatch).foldl (fun b l => match b with
    | none => some l
    | some m => if m.prio < l.prio then some l else some m) none

/-- A core holds a task of a block's subtree, of its contexts or saved. -/
def State.coreInSubtree (s : State) (c b : Nat) : Bool :=
  let in_ (id : Nat) : Bool := s.launches.any fun l => l.id == id && l.chain.contains b
  ((s.core c).ctxs.any fun e => e.2.task.any fun t => in_ t.launch) || (s.core c).saved.any fun v => in_ v.task.launch

/-- Charge a launch at every level (R302, R304): cores that hold no task of the subtree yet. -/
def State.charge (s : State) (l : Launch) : State :=
  l.chain.foldl (fun s b =>
    let new := (l.pkt.cores.filter fun c => !s.coreInSubtree c b).length
    s.setUsage b fun u => [u.getD 0 0 + new, u.getD 1 0 + l.demandCtxs, u.getD 2 0 + l.demandCtxs * l.lslen, u.getD 3 0 + l.near]) s

/-- The context of a task as it starts (R304). -/
def Launch.taskCtx (l : Launch) (s : State) (c base rank : Nat) : Ctx :=
  { Ctx.reset with
    pc := l.pkt.code, run := .running, task := some ⟨l.id, l.lease⟩
    rank := BitVec.ofNat 10 rank, nranks := BitVec.ofNat 11 l.demandCtxs, argp := l.pkt.args, asid := l.asid
    lsbase := BitVec.ofNat 8 base, lslen := BitVec.ofNat 9 l.lslen
    tvecRec := l.pkt.tvec.extractLsb' 50 14, tvecHandler := l.pkt.tvec.extractLsb' 4 36
    barGen := (List.range 8).foldl (fun t k => t.set false k (s.barrier c k).gen) [] }

/-- A context whose task is to start once its core is no longer frozen (R89, R304). -/
def Launch.waitingCtx (l : Launch) (base rank : Nat) : Ctx :=
  { Ctx.reset with
    run := .starting, task := some ⟨l.id, l.lease⟩, rank := BitVec.ofNat 10 rank, lsbase := BitVec.ofNat 8 base, lslen := BitVec.ofNat 9 l.lslen }

/-- Start one task: its window is cleared, its registers are set (R304). -/
def State.beginTask (s : State) (l : Launch) (c x base rank : Nat) : State :=
  let s := s.modCore c fun k => { k.clearWindow (base * 4096) (l.lslen * 4096) with
    barcfg := if l.pkt.barcfg = 0 then k.barcfg else l.pkt.barcfg }
  s.modCore c fun k => { k with ctxs := k.ctxs.put x (l.taskCtx s c base rank) }

/-- Start one task, or keep its context for it while its core is frozen. -/
def State.startTask (s : State) (l : Launch) (c x base rank : Nat) : State :=
  if (s.core c).frozen.isSome then s.modCore c fun k => { k with ctxs := k.ctxs.put x (l.waitingCtx base rank) }
  else s.beginTask l c x base rank

/-- The start that a context waits for. -/
def State.lateStart (s : State) (c x : Nat) : State :=
  let k := s.ctx c x
  match k.run, k.task with
  | .starting, some t => (match s.launches.find? fun l => l.id == t.launch with
    | some l => s.beginTask l c x k.lsbase.toNat k.rank.toNat
    | none => s)
  | _, _ => s

/-- The task starts that have waited for a core to be unfrozen. -/
def State.lateStarts (s : State) (c : Nat) : State :=
  if (s.core c).frozen.isSome then s else [0, 1, 2, 3].foldl (fun s x => s.lateStart c x) s

/-- Start the tasks of a launch, ranks in order. -/
def State.startTasks (s : State) (l : Launch) : List (Nat × Nat × Nat) → Nat → State
  | [], _ => s
  | (c, x, base) :: r, n => (s.startTask l c x base n).startTasks l r (n + 1)

/-! ### The end of a task (R51, R302, R323) -/

/-- The task's contexts, window and core are released at every level. -/
def State.releaseTask (s : State) (id c : Nat) : State :=
  match s.launches.find? fun l => l.id == id with
  | none => s
  | some l => l.chain.foldl (fun s b =>
      let held := s.coreInSubtree c b
      s.setUsage b fun u => [u.getD 0 0 - (if held then 0 else 1), u.getD 1 0 - 1, u.getD 2 0 - l.lslen, u.getD 3 0]) s

/-- A task of a launch is gone from its core: the launch counts it, and completes after its last. -/
def State.taskGone (s : State) (id c : Nat) (faulted : Bool) : State :=
  let s := s.releaseTask id c
  let count (l : Launch) : Launch :=
    if l.id = id then { l with live := l.live - 1, faults := l.faults + if faulted then 1 else 0 } else l
  let s := { s with launches := s.launches.map count }
  s.post [.launchComplete id]

/-- Tagged words of a window, as byte offsets of the local store. -/
def Core.taggedWords (k : Core) (base len : Nat) : List Nat :=
  (k.lsTags.filter fun e => e.2 && decide (base ≤ e.1 * 8 ∧ e.1 * 8 < base + len)).map fun e => e.1 * 8

/-- The region blocks of the launch of a task. -/
def State.launchBlocks (s : State) (id : Nat) : List Nat := (s.launches.filter fun l => l.id == id).flatMap (·.chain)

/-- The launch of a task has its region blocks ready for the change of their usage. -/
def State.launchQuiet (s : State) (id : Nat) : Bool := s.chainReady (s.launchBlocks id)

/-- Ask for the refills that the end of a task of a launch takes. -/
def State.askUsage (s : State) (id : Nat) : State := s.askRefills (s.usageRefills (s.launchBlocks id))

/-- End the innermost live snapshot of a task, or of one saved from the context (R323): accepted, or rejected once no lease or request is in its
way; none while it waits or when there is none. -/
def State.endSnapshot (s : State) (owner c x window : Nat) (reject : Bool) : Option State :=
  match s.snapsOf owner window with
  | [] => none
  | (r, k) :: _ =>
    if !reject then some (s.acceptSnap r)
    else if s.rangeLeasedByOther c x k || s.shadows.any (fun h => h.reg == r && !s.lineQuiet h.line) then none
    else some (s.rejectSnap r)

/-! ### The completion record (R306) -/

/-- A launch's record has been written, or its peer has refused it: the launch completes. -/
def State.recordEnd (s : State) (id : Nat) (refused : Bool) : State :=
  let mark (l : Launch) : Launch := if l.id = id then { l with record := .done } else l
  ({ s with
    launches := s.launches.map mark
    skippedRecords := s.skippedRecords + if refused then 1 else 0 } : State).post [.launchComplete id]

end Sys2Proof.Machine
end

