-- ==== Sys2Proof/Machine/CoreEvents.lean ====
section
/-! DEFINITION. Events of a core's contexts: stall counts, results, traps, task end, stops, drops, barriers, counting flags (R55, R82, R96,
R97, R121, R123, R130, R159, R289, R321, R324). An event whose condition does not hold changes nothing. -/

namespace Sys2Proof.Machine

/-- The core's counts and contexts go on (R87). -/
def Core.awake (k : Core) : Bool := k.frozen.isNone && !k.gated

/-! ### Stall counts and results (R96, R97) -/

def execStallCountElapse (c x : Nat) (st : State) : Out :=
  .next (if 0 < (st.ctx c x).readyAt ∧ (st.ctx c x).readyAt ≤ st.cycle ∧ (st.core c).awake = true then
    st.modCtx c x fun k => { k with readyAt := 0 } else st)

/-- The register that a result message names. -/
def resultReg (isH : Bool) (n : Nat) : Reg := if isH then .h n else .b n

/-- A variable result: of a load of this package that has been performed, or of an access through a REMOTE window, whose register stands in the low
six bits of its number. -/
def execVariableResultArrival (c x : Nat) (isH : Bool) (n : Nat) (v : Word) (st : State) : Out :=
  let k := st.ctx c x
  let r := resultReg isH (n % 64)
  .next (match k.loads.find? fun l => l.dst == r && l.pa.isNone with
    | some l => (st.modCtx c x fun k => { k with loads := k.loads.erase l }).deliverResult c x r (widen l.signed l.size v.toNat)
    | none =>
      match k.remote.find? fun l => l.dst == some r && !l.refused with
      | some l =>
        (st.modCtx c x fun k => { k with remote := k.remote.erase l }).deliverResult c x r
          (if isH then v else widen l.signed l.size v.toNat)
      | none => if isH = true ∧ v ≠ 0 then st.homeDrop (Handle.ofWord v) else st)

/-- A question to a peer that it answers by an acknowledgement or a refusal alone. -/
def peerAsked (q : Nat × BitVec 40) : Bool := [4, 11, 12, 13].contains q.1

/-- The answer of a peer to the question of a held bundle: 0 where nothing refuses it, else the code of the cause; `word` is the package and
address of the word that a check which nothing refuses has kept. An answer to the question of a bundle that has gone is not taken, and its word is
given up. A context kept for a task that does not come is free again; the question of a save area stays open until the form is done (R188). -/
def State.peerAnswer (s : State) (c x code word : Nat) : State :=
  let k := s.ctx c x
  match k.late.find? peerAsked with
  | some q =>
    let s := s.modCtx c x fun k => { k with late := k.late.erase q }
    if q.1 = 11 ∧ code = 0 then s.release c x word else s
  | none => match k.reply.asked with
    | some (n, t) =>
      if peerAsked (n, t) then
        let s := if n = 13 ∧ code ≠ 0 then s.modCtx c t.toNat fun k => { k with run := .idle } else s
        s.modCtx c x fun k => { k with reply := { k.reply with
          asked := if n = 12 ∧ code = 0 then some (n, t) else none, probe := some code
          kept := if n = 11 ∧ code = 0 then some word else k.reply.kept } }
      else s
    | none => s

/-- The acknowledgement of a store, a CADD or another access without a result, which is the one of its bundle; or that of a check. -/
def execRemoteAcknowledgement (c : Nat) (ack : AckTo) (st : State) : Out :=
  .next (if ack.checked = true then st.peerAnswer c ack.ctx 0 ack.access
    else match (st.ctx c ack.ctx).remote.find? fun l => l.dst.isNone && !l.refused && l.bundle == ack.access with
    | none => st
    | some l => st.modCtx c ack.ctx fun k => { k with remote := k.remote.erase l })

/-! ### Traps (R317, R321, R159) -/

/-- The access whose deferred trap is taken is no longer on its way (R289): a reader of its destination has waited until here. -/
def Ctx.settleAccess (x : Ctx) (t : TrapInfo) : Ctx :=
  if t.kind ≠ .deferred ∨ t.cause = .rpostDenied then x
  else match x.remote.find? fun l => l.refused && l.pc == t.pc && l.va == t.addr with
  | some l => { x with remote := x.remote.erase l }
  | none => match x.loads.find? fun l => l.refused && l.pc == t.pc && l.va == t.addr with
    | some l => { x with loads := x.loads.erase l }
    | none => x

def execTrapTake (c x : Nat) (st : State) : Out :=
  let k := st.ctx c x
  .next (match (if k.run == .running && k.takesPending && (st.core c).awake then k.oldest else none) with
    | none => st
    | some t => (st.modCtx c x fun k => ({ k with pending := k.pending.erase t }).settleAccess t).takeTrap c x t k.pc)

/-- A full/empty wait of a load or store reaches its bound: the trap is precise at the waiting bundle. -/
def execFeTimeoutScalar (c x : Nat) (st : State) : Out :=
  let k := st.ctx c x
  .next (match k.feWait.find? fun w => decide (w.since + Config.watchdog ≤ st.cycle) with
    | none => st
    | some w =>
      if k.run = .running ∧ k.stop.issued = false ∧ k.takesPending = false ∧ (st.core c).awake = true then
        st.takeTrap c x { cause := .feTimeout, kind := .precise, engine := none, slot := w.slot, imm := 0, seq := 0, pc := k.pc,
                          addr := w.addr, cancelled := 0, progress := 0, cycle := st.cycle } k.pc
      else st)

/-! ### The end of a task (R51, R123, R323) -/

/-- Nothing of a context is on its way: no command, access, refill, RPOST or allocation. An access that was refused will not be performed. -/
def State.ctxQuiet (s : State) (c x : Nat) : Bool :=
  let k := s.ctx c x
  (s.cmdsOf c x).isEmpty && k.loads.all (·.refused) && k.remote.all (·.refused) && k.refills.isEmpty && k.rposts.isEmpty && k.late.isEmpty

/-- Move valid handle registers, then tagged words of the window, into the drop queue while it has room. -/
def State.queueEndDrops (s : State) (c x : Nat) : State :=
  let k := s.ctx c x
  let regs := k.regs.h.take Config.dropQueue
  let words := ((s.core c).taggedWords k.winBase k.winLen).take (Config.dropQueue - regs.length)
  let hs := regs.map (·.2) ++ words.map (s.core c).readHandle
  let s := s.modCore c fun q => words.foldl Core.clearWord q
  s.modCtx c x fun k => hs.foldl Ctx.addDrop
    { k with openSet := [], regs := { k.regs with h := k.regs.h.filter fun e => !(regs.map (·.1)).contains e.1 } }

/-- The last step of a task's end: its context is free. -/
def State.freeContext (s : State) (c x : Nat) (t : Task) : State :=
  let faulted := (s.ctx c x).faulted.isSome
  let s := (s.endLeases c x fun _ => true).modCore c fun q => { q with ctxs := q.ctxs.put x Ctx.reset }
  (s.taskGone t.launch c faulted).settleFw c

/-- The end of the task of a context, as far as it can go now. A trap that is still pending then ends the task by fault, one that waited for the ERET
of a handler which halted instead too (R123, R321; log entry 106). -/
def State.endTask (s : State) (c x : Nat) (t : Task) : State :=
  let k := s.ctx c x
  if !s.ctxQuiet c x || !k.drops.isEmpty then s
  else match firstTrap k.pending with
  | some p => s.endByFault c x p.cause
  | none =>
    if !(s.snapsOf (s.owner c x) (s.ownWindow c x)).isEmpty then (s.endSnapshot (s.owner c x) c x (s.ownWindow c x) k.discarded).getD s
    else if !k.regs.h.isEmpty || !((s.core c).taggedWords k.winBase k.winLen).isEmpty then s.queueEndDrops c x
    else if s.launchQuiet t.launch then s.freeContext c x t
    else s.askUsage t.launch

/-- The end of a context that was a firmware context and is one no more (log entry 11): its handles and tagged words are dropped, and it is free,
or boots where it has become one again meanwhile. -/
def State.endFirmware (s : State) (c x : Nat) : State :=
  let k := s.ctx c x
  if !s.ctxQuiet c x || !k.drops.isEmpty then s
  else if !k.regs.h.isEmpty || !((s.core c).taggedWords k.winBase k.winLen).isEmpty then s.queueEndDrops c x
  else (s.endLeases c x fun _ => true).modCore c fun q => { q with ctxs := q.ctxs.put x (if s.isFirmware c x then Ctx.boot else Ctx.reset) }

/-- The end of a saved task that has been discarded: its snapshots, the tagged words of its window, its place. -/
def State.endSaved (s : State) (c : Nat) (v : Saved) : State :=
  let key := savedKey v.ctx v.base
  let words := (s.core c).taggedWords (v.base * 4096) (v.len * 4096)
  let mine := (s.core c).savedDrops.filter fun e => e.1 == key
  if !(s.snapsOf (4 * c + v.ctx) v.base).isEmpty then (s.endSnapshot (4 * c + v.ctx) c 4 v.base true).getD s
  else if !words.isEmpty then
    let take := words.take (Config.savedDropStore - (s.core c).savedDrops.length)
    let drops := take.map fun o => let h := (s.core c).readHandle o; (key, (⟨h.tile, h.e, v.bundle, false⟩ : Drop))
    s.modCore c fun q => { take.foldl Core.clearWord q with savedDrops := q.savedDrops ++ drops }
  else if !mine.isEmpty then s
  else if s.launchQuiet v.task.launch then
    (s.modCore c fun q => { q with saved := q.saved.erase v }).taskGone v.task.launch c false
  else s.askUsage v.task.launch

def execTaskEnd (c x : Nat) (st : State) : Out :=
  .next (if x < 4 then
      (match (st.ctx c x).run, (st.ctx c x).task with
        | .ending, some t => st.endTask c x t
        | .ending, none => st.endFirmware c x
        | _, _ => st)
    else match (st.core c).saved[x - 4]? with
      | some v => if v.discarded then st.endSaved c v else st
      | none => st)

/-! ### Stops (R121, R324) -/

/-- A pre-emption request; during a freeze it takes effect after the unfreeze (R89). -/
def execPreemptRequest (c x : Nat) (st : State) : Out :=
  .next (if (st.core c).frozen.isSome ∨ (st.ctx c x).run = .starting then st.post [.preemptRequest c x]
    else if (st.ctx c x).run = .running ∧ st.isFirmware c x = false then st.modCtx c x Ctx.askStop
    else st)

/-- The engine whose queue a marker stands in. -/
def markerQueue (n : Nat) : Engine := match n with | 0 => .matrix | 1 => .vector | _ => .copy

def execQuiesceMarkerReturn (c x eng : Nat) (st : State) : Out :=
  let k := st.ctx c x
  let ahead := (st.cmdsOf c x).any fun m => m.queue == some (markerQueue eng) && !m.wasCut
  .next (if k.stop.issued = true ∧ (st.core c).awake = true ∧ ahead = false then
      st.modCtx c x fun k => { k with stop := (match eng with
        | 0 => { k.stop with matrix := true }
        | 1 => { k.stop with vector := true }
        | _ => { k.stop with copy := true }) }
    else st)

/-! ### Drops (R55) -/

/-- The first drop of a queue whose weight may leave: no reader that issued no later names its tile, no earlier drop of the tile
waits. -/
def firstReady (reads : Drop → Bool) : List Drop → List Drop → Option Drop
  | _, [] => none
  | before, d :: r =>
    if !d.left && !reads d && !(before.any fun b => b.tile == d.tile && !b.left) then some d else firstReady reads (before ++ [d]) r

/-- Mark the first drop of a queue that equals one as gone on its way. -/
def leave (d : Drop) : List Drop → List Drop
  | [] => []
  | e :: r => if e = d then { e with left := true } :: r else e :: leave d r

/-- The weight of a drop goes to the home. -/
def State.sendDrop (s : State) (c x : Nat) (d : Drop) : State :=
  s.deliver (homePeer d.tile) (.dropArrival d.tile d.e s.peer.toNat c x)

/-- Drops of a saved task, by its place in the list of saved tasks. -/
def Core.dropsOf (k : Core) (v : Saved) : List Drop := (k.savedDrops.filter fun e => e.1 == savedKey v.ctx v.base).map (·.2)

/-- A drop leaves the queue of a context, or from 4 on the drops of a saved task. -/
def execDropRelease (c x : Nat) (st : State) : Out :=
  .next (if x < 4 then
      (let cmds := st.cmdsOf c x
       match firstReady (fun d => cmds.any fun m => decide (m.bundle ≤ d.bundle) && m.names d.tile) [] (st.ctx c x).drops with
        | none => st
        | some d => (st.modCtx c x fun k => { k with drops := leave d k.drops }).sendDrop c x d)
    else match (st.core c).saved[x - 4]? with
      | none => st
      | some v =>
        let key := savedKey v.ctx v.base
        match firstReady (fun d => !v.discarded && v.reads.any fun e => e.1 == d.tile && decide (e.2 ≤ d.bundle)) []
            ((st.core c).dropsOf v) with
        | none => st
        | some d =>
          let others := (st.core c).savedDrops.filter fun e => e.1 != key
          let mine := (leave d ((st.core c).dropsOf v)).map fun e => (key, e)
          (st.modCore c fun k => { k with savedDrops := others ++ mine }).sendDrop c v.ctx d)

/-- The home's acknowledgement frees the entry: of the context's task, or of a task saved from the context. -/
def execDropAck (c x : Nat) (t : BitVec 40) (st : State) : Out :=
  let hit (d : Drop) : Bool := d.left && d.tile == t
  .next (match (st.core c).savedDrops.find? fun e => e.1 / 256 == x && hit e.2 with
    | some e => st.modCore c fun k => { k with savedDrops := k.savedDrops.erase e }
    | none => match (st.ctx c x).drops.find? hit with
      | some d => st.modCtx c x fun k => { k with drops := k.drops.erase d }
      | none => st)

/-! ### Barriers (R81, R82) -/

/-- Participants minus one of the barrier that a context of a core uses: a course barrier takes them from the lowest-numbered core
that joins it. -/
def State.barrierN (s : State) (c unit : Nat) : Nat :=
  if (s.core c).barCourse unit then
    (match (List.range 8).find? fun i => (s.core (courseOf c * 8 + i)).barCourse unit with
      | some i => (s.core (courseOf c * 8 + i)).barN unit
      | none => (s.core c).barN unit)
  else (s.core c).barN unit

def State.setBarrier (s : State) (c unit : Nat) (b : Barrier) : State :=
  if (s.core c).barCourse unit then { s with courseBars := s.courseBars.set ⟨0, false⟩ (8 * courseOf c + unit) b }
  else s.modCore c fun k => { k with bars := k.bars.set ⟨0, false⟩ unit b }

/-- A barrier after one more arrival. -/
def Barrier.arrive (b : Barrier) (n : Nat) : Barrier := if n ≤ b.count then ⟨0, !b.gen⟩ else ⟨b.count + 1, b.gen⟩

/-- An arrival is added once the context's earlier accesses are performed. -/
def execBarrierArrival (c x unit : Nat) (st : State) : Out :=
  .next (if (st.ctx c x).accessing then st.post [.barrierArrival c x unit]
    else st.setBarrier c unit ((st.barrier c unit).arrive (st.barrierN c unit)))

/-! ### RPOST (R130, R131, R294) -/

/-- Add to a counting flag of a context; the increment saturates. -/
def State.addFlag (s : State) (c x q n : Nat) : State :=
  s.modCtx c x fun k => k.setQ q (satAdd16 (k.regs.q.get 0 q).toNat n)

/-- The task of a context is on its way to a save area in a REMOTE window. -/
def State.leaving (s : State) (c x : Nat) : Bool := (s.ctx c 3).reply.asked == some (12, BitVec.ofNat 40 x)

/-- A context is open to a sender (R294): it holds a task that has started, and the sender's bit is set in the partition map. -/
def State.openTo (s : State) (c x peer : Nat) : Bool :=
  (s.ctx c x).task.isSome && (s.ctx c x).run != .starting && !s.leaving c x && s.partition.get false peer

/-- A context of this package as the target of an RPOST (R130). -/
def State.targetKey (s : State) (c x : Nat) : Nat := s.peer.toNat * 1024 + x * 256 + c

def execRpostArrival (peer src srcCtx c x q amount : Nat) (pc : Word) (st : State) : Out :=
  .next (if st.openTo c x peer then
      (st.addFlag c x q amount).deliver peer (.rpostAck src ⟨srcCtx, st.targetKey c x⟩)
    else st.deliver peer (.rpostRefusal src ⟨srcCtx, st.targetKey c x⟩ pc))

/-- The acknowledgement of an RPOST; that of a completion flag has no sender (R306). -/
def execRpostAck (c : Nat) (post : RpostOf) (st : State) : Out :=
  .next (if c = noCore then st else st.modCtx c post.ctx fun k => { k with rposts := k.rposts.erase post.target })

/-- A refused RPOST; a refused completion flag is counted (R306). -/
def execRpostRefusal (c : Nat) (post : RpostOf) (pc : Word) (st : State) : Out :=
  .next (if c = noCore then { st with refusedFlags := st.refusedFlags + 1 }
    else (st.modCtx c post.ctx fun k => { k with rposts := k.rposts.erase post.target }).deferred c post.ctx .rpostDenied pc 0)

/-! ### Refused remote accesses (R289) -/

/-- A refused piece of a copy, or a refused read of an update: an engine fault of its command (R289), once the pieces before it are done (R72). -/
def State.pieceRefused (s : State) (c : Nat) (m : Cmd) (start : Nat) (cause : Cause) (again : Instr) : State :=
  let first : Bool := match m.op with
    | .copy k => (match k.inFlight with | q :: _ => q.start == start || start == 0 | [] => true)
    | _ => true
  if first then (s.engineFault c m cause m.farVa).unstray c m.serial else s.post [again]

/-- A refused access of a context, by the number of its bundle, a refused check or read of bytes for a held bundle, or a refused piece of a copy, by
its number plus one; of the front end, bytes of a lease list or a completion record. The access stays on its way until its trap is taken, so its
destination is not written and a reader of it waits. -/
def execRemoteRefusal (c x : Nat) (pc : Word) (what : RefusalOf) (cause : Nat) (st : State) : Out :=
  .next (if c = noCore then (if what.serial ≠ 0 then st.recordEnd (what.serial - 1) true else st.frontAnswer [])
    else if what.serial ≠ 0 then
      (match st.findCmd c (numberOf (what.serial - 1)) with
        | none => st.unstray c (numberOf (what.serial - 1))
        | some m => st.pieceRefused c m (startOf (what.serial - 1)) (refusalCause cause) (.remoteRefusal c x pc what cause))
    else if what.checked = true then st.peerAnswer c x cause 0
    else match (st.ctx c x).remote.find? fun l => l.bundle == what.access && !l.refused with
      | none => st
      | some l =>
        (st.modCtx c x fun k => { k with remote := k.remote.map fun m => if m = l then { m with refused := true } else m }).deferred
          c x (refusalCause cause) l.pc l.va)

end Sys2Proof.Machine
end

