-- ==== Sys2Proof/Machine/TileEvents.lean ====
section
/-! DEFINITION. Events at the home of a tile and its answers to a context (R45, R50 to R55, R60, R63, R65, R173, R180). -/

namespace Sys2Proof.Machine

/-! ### Weight (R50, R51) -/

/-- Weight comes back: it is added, the tile is freed with its last, the dropping core is acknowledged. That of a scale field makes one tile
less that the tile scales (R46). -/
def execDropArrival (t : BitVec 40) (e : BitVec 5) (peer c x : Nat) (st : State) : Out :=
  let s := if c = noCore ∧ x = 1 then st.countScale t (· - 1) else st
  let s := s.returnWeight t (weight e)
  .next (if c = noCore then s else s.deliver peer (.dropAck c x t))

/-- A refill at the home: one unit back, 2^32 more in total. -/
def execRefillRequest (t : BitVec 40) (peer c x : Nat) (st : State) : Out :=
  .next ((st.refillHome t).deliver peer (.refillReply c x t))

/-- A refill reply: a home that splits holders keeps it until it does; both registers of a DUP hold e = 31; a held split of a word goes on;
else the weight returns. -/
def execRefillReply (c x : Nat) (t : BitVec 40) (st : State) : Out :=
  if c = noCore then .next { st with refillAsked := st.refillAsked.erase t, refillHeld := st.refillHeld ++ [t] } else
  let k := st.ctx c x
  let h : Option Handle := some ⟨false, 31, t⟩
  .next (match k.refills.find? fun r => r.2.2 == t with
    | some r => st.modCtx c x fun k => ({ k with refills := k.refills.erase r }.setH r.1 h).setH r.2.1 h
    | none =>
      if k.reply.asked = some (3, t) ∧ k.reply.refill = false then st.modCtx c x fun k => { k with reply := { k.reply with refill := true } }
      else st.returnRefill t)

/-! ### Uniqueness (R52) -/

def execUniquenessQuery (t : BitVec 40) (e : BitVec 5) (peer c x : Nat) (st : State) : Out :=
  .next (st.deliver peer (.uniquenessAnswer c x t (match st.desc t with | none => false | some d => d.unique e)))

/-- An answer to a question of a bundle that a trap has ended is not taken. -/
def State.lateAnswer (s : State) (c x : Nat) (q : Nat × BitVec 40) (f : State → State) : State :=
  if (s.ctx c x).late.contains q then s.modCtx c x fun k => { k with late := k.late.erase q } else f s

/-- The answer of the current question. -/
def State.answer (s : State) (c x : Nat) (q : Nat × BitVec 40) (f : Replies → Replies) : State :=
  if (s.ctx c x).reply.asked = some q then s.modCtx c x fun k => { k with reply := f { k.reply with asked := none } } else s

def execUniquenessAnswer (c x : Nat) (t : BitVec 40) (unique : Bool) (st : State) : Out :=
  .next (st.lateAnswer c x (1, t) fun s => s.answer c x (1, t) fun r => { r with unique := some unique })

/-! ### Descriptors (R46, R180, R181) -/

/-- What TGET gets with the descriptor: the element's bits, its poison, the number of the question. -/
def State.elemReply (s : State) (d : Desc) (q : Nat) : List Word :=
  let i := (q - 1) / 65536
  let j := (q - 1) % 65536
  if i ≤ d.rows.toNat ∧ j ≤ d.cols.toNat then
    [BitVec.ofNat 64 (s.tileElem d i j), if s.elemPoisoned d (i * (d.cols.toNat + 1) + j) then 1 else 0, BitVec.ofNat 64 q]
  else [0, 0, BitVec.ofNat 64 q]

/-- The home reads a descriptor: plain, with an element, or with half of its scale handle, which it splits (R51, R53): once a refill that this
takes has come. A notice that the tile scales one more is only counted. -/
def execDescriptorRead (t : BitVec 40) (peer c x elem : Nat) (st : State) : Out :=
  .next (match st.desc t with
    | none => if c = noCore then st else st.deliver peer (.descriptorReply c x t (List.replicate 8 0))
    | some d =>
      if c = noCore then st.countScale t (· + 1)
      else if elem = 2 ^ 40 then
        (match d.scale with
          | none => st.deliver peer (.descriptorReply c x t (d.words ++ [0]))
          | some h =>
            let need := st.refillsFor [h]
            if !(lacking need st.refillHeld).isEmpty then (st.askRefills need).post [.descriptorRead t peer c x elem]
            else
              let half := { d with scale := some h.split }
              ((st.splitAway h).modDesc t fun q => { q with scale := some h.split }).deliver peer (.descriptorReply c x t (half.words ++ [0])))
      else st.deliver peer (.descriptorReply c x t (d.words ++ if elem = 0 then [] else st.elemReply d elem)))

/-- An answer with words to the question of a held bundle; that of a save area stays open until its form is done (R188). -/
def Replies.take (r : Replies) (kind : Nat) (ws : List Word) : Replies :=
  if kind = 4 then { r with asked := Option.none, got := r.got ++ [(r.block, ws)] }
  else { r with asked := if kind = 13 then r.asked else Option.none, desc := some ws }

/-- An answer with words: to the front end, to the question of a bundle that a trap has ended, which is not taken, or to the current one. -/
def execDescriptorReply (c x : Nat) (t : BitVec 40) (ws : List Word) (st : State) : Out :=
  let k := st.ctx c x
  .next (if c = noCore then st.frontAnswer ws else match k.late.find? fun q => answerBy q.1 == 0 with
    | some q => (st.modCtx c x fun y => { y with late := y.late.erase q }).dropHalf ws
    | none => match k.reply.asked with
      | some (n, u) =>
        if [0, 4, 5, 13].contains n ∧ (u = t ∨ n = 13) then st.modCtx c x fun y => { y with reply := y.reply.take n ws } else st.dropHalf ws
      | none => st.dropHalf ws)

/-! ### Allocation (R45, R63, R173) -/

/-- The home allocates on the die of the issuing core. Bit 62 of the shape lets an update's copy fall back to near memory of that die
where its slice has no room (R175). Index 0 answers a failure: of die 1 for a full slice, of die 0 otherwise. -/
def execTileAllocate (c x : Nat) (shape : Word) (st : State) : Out :=
  let die := dieOf c
  let w := shape &&& 0xBFFFFFFFFFFFFFFF
  let sh := Shape.ofWord w
  let first := st.allocate die sh
  let r := match first with
    | .error .sliceFull => if shape.getLsbD 62 then st.allocate die { sh with tier := 1, place := die } else first
    | _ => first
  .next (match r with
    | .ok (s, t) => s.post [.allocationReply c x t]
    | .error .sliceFull => st.post [.allocationReply c x 0x1000000]
    | .error _ => st.post [.allocationReply c x 0])

/-- The answer to an allocation; one that a trap has made needless gives its tile back (R104). -/
def execAllocationReply (c x : Nat) (t : BitVec 40) (st : State) : Out :=
  let give (s : State) : State := if t.toNat % 2 ^ 24 ≠ 0 then s.unreserve t else s
  .next (if (st.ctx c x).late.contains (2, 0) then give (st.modCtx c x fun k => { k with late := k.late.erase (2, 0) })
    else if (st.ctx c x).reply.asked = some (2, 0) then st.answer c x (2, 0) fun r => { r with tile := some t }
    else give st)

/-! ### Old storage (R65, R67) -/

/-- A chunk of a copy still reads a run of storage: a piece of it in progress, or the rest of it from where it began to read (log entry 88). -/
def CopyCmd.reads (k : CopyCmd) (run : Nat × Nat) : Bool :=
  k.inFlight.any (fun q => match q.src with | .pa a => overlaps run (a, a + q.len) | _ => false) ||
  k.srcKept.any fun t => decide (k.started < t.upto) && (match t.place with | .pa a => overlaps run (a, a + (t.upto - t.first)) | _ => false)

/-- A pin or a copy in progress still reads a run of storage. -/
def State.storageInUse (s : State) (run : Nat × Nat) : Bool :=
  s.cores.any fun e => (e.2.pins.any fun b => overlaps run (256 * b, 256 * b + 256)) ||
    e.2.cmds.any fun c => match c.op with | .copy k => k.reads run | _ => false

/-- Blocks that a move has left return to their heap. -/
def execOldBlocksReturn (index : Nat) (st : State) : Out :=
  .next (match st.oldBlocks[index]? with
    | none => st
    | some r => if st.storageInUse r then st else { st with oldBlocks := st.oldBlocks.eraseIdx index })

end Sys2Proof.Machine
end

