-- ==== Sys2Proof/Machine/Coherence.lean ====
section
/-! DEFINITION. Events of the coherence protocol (R256 to R267), leases (R269, R270), shadows (R272), the accesses of homes for others
(R263, R289), removals (R42), REJOIN (R267), the host's halves (R265), power gating (R266). -/

namespace Sys2Proof.Machine

/-! ### Directory entries (R259) -/

/-- A core may hold the line, as far as the entry shows. -/
def Sharers.mayHold (h : Sharers) (c : Nat) : Bool :=
  match h with | .cores cs => cs.contains c | .courses cs => cs.contains (courseOf c)

/-- A core is listed as a sharer: a course vector lists none (R261). -/
def Sharers.lists (h : Sharers) (c : Nat) : Bool := match h with | .cores cs => cs.contains c | .courses _ => false

/-- One more sharer: a fifth turns the pointers into marked courses. -/
def Sharers.add (h : Sharers) (c : Nat) : Sharers :=
  if h.mayHold c then h
  else match h with
  | .cores cs => if cs.length < 4 then .cores (cs ++ [c]) else .courses ((cs ++ [c]).map courseOf).eraseDups
  | .courses cs => .courses (cs ++ [courseOf c])

/-- Send Inv to every sharer but the requester; the acknowledgements to collect. -/
def State.invalidateSharers (s : State) (h : Sharers) (req line : Nat) : State × Nat :=
  match h with
  | .cores cs => let o := cs.filter (· != req); (s.post (o.map fun c => .inv c req line false), o.length)
  | .courses cs => (s.post (cs.map fun c => .inv c req line true), cs.length)

/-! ### Host halves at a grant (R265) -/

/-- The number of the host bridge as an agent. -/
def bridgeAgent : Nat := 256

/-- A half allows a grant: shared, or exclusive. -/
def halfOk (tier : Nat) (excl : Bool) (h : HalfState) : Bool :=
  match tier with
  | 0 => if excl then h == .I else h != .X
  | 3 => if excl then h == .X else h != .I
  | _ => true

/-- Halves that the bridge must act on for a grant. -/
def State.halvesToAsk (s : State) (line : Nat) (excl : Bool) : List Nat :=
  [0, 1].filter fun i => !halfOk (paTier (line * 128)) excl (s.halves.get .I (2 * line + i))

/-- The state of a half that the bridge has acted on: of far memory the host keeps at most a shared half, of host memory the device has got it. -/
def actedOn (tier : Nat) (excl : Bool) (h : HalfState) : HalfState :=
  match tier with
  | 3 => if excl then .X else if h = .X then .X else .S
  | _ => if excl then .I else if h = .X then .S else h

/-- The home sends the bridge a forward for each half that does not allow a grant, as to an owner, and goes on (R260, R265): the half's state
changes, its bytes come from the host, and the bridge's message brings them to the requester, which counts it. -/
def State.askBridge (s : State) (a line : Nat) (excl : Bool) : State × Nat :=
  let ask := s.halvesToAsk line excl
  let act (s : State) (i : Nat) : State :=
    let s := s.bridgeBytes line i
    { s with halves := s.halves.set .I (2 * line + i) (actedOn (paTier (line * 128)) excl (s.halves.get .I (2 * line + i))) }
  ((ask.foldl act s).post (ask.map fun i => .bridgeHalfData line i ⟨excl, a, s.inc bridgeAgent⟩), ask.length)

/-- Lines of 64 bytes of host memory, halves of lines here, that the device has asked the host for (R329). -/
def State.outstandingLines (s : State) : Nat :=
  (s.agenda.filter fun e => match e with
    | .bridgeHalfData l _ _ => paTier (l * 128) == 3
    | _ => false).length

/-- The halves that a grant asks the host for may be outstanding besides. -/
def State.bridgeRoom (s : State) (line : Nat) (excl : Bool) : Bool :=
  paTier (line * 128) != 3 || decide (s.outstandingLines + (s.halvesToAsk line excl).length ≤ Config.cacheLines)

/-! ### Messages that their home cannot carry out yet (R257, R263) -/

/-- No L1 owns the line. -/
def State.unowned (s : State) (line : Nat) : Bool := s.cores.all fun e => match e.2.l1.look line with | none => true | some l => !l.owned

/-- A copy read or an update's read names its tile by a handle (R47, R68): R289 checks only what goes through a window. -/
def byHandle (kind fn : Nat) : Bool := kind == 7 && fn % 2 == 1

/-- The refill of a split of the word at an address (R51): of what a shadow leaves of it, where one is taken first. -/
def State.splitRefills (s : State) (pa : Nat) : List (BitVec 40) :=
  if s.tag pa then s.refillsFor [if s.needsShadow (lineOf pa) then (s.readHandle pa).split else s.readHandle pa] else []

/-- The refills that an access takes: those of the shadows of what it writes, and that of a split. A check takes the shadow of its access. -/
def State.accessRefills (s : State) (kind fn : Nat) (r : Nat × Nat) : List (BitVec 40) :=
  if [0, 7, 9].contains kind || (kind == 10 && fn % 16 == 0) then []
  else s.rangeRefills r.1 r.2 ++ if kind = 6 then s.splitRefills r.1 else []

/-- The refills that a message takes at its home. -/
def State.homeRefills (s : State) : Instr → List (BitVec 40)
  | .shadow _ _ l => s.shadowRefills l
  | .homeAccess _ _ _ op pa x y _ n bytes =>
    s.accessRefills (op % 16) (op / 256) (s.accessRange (op % 16) (op / 16 % 16) (op / 256) pa x y n bytes)
  | .routerCombine ⟨_, _, kind, key⟩ wide _ => if kind = 2 then [] else s.rangeRefills key (if wide then 8 else 4)
  | _ => []

/-- The entry of a line names the agent as a holder in U. -/
def State.holdsU (s : State) (a line : Nat) : Bool := match s.dir.look line with | some (.U hs) => hs.contains a | _ => false

/-- A request of an L1 finds a place for its entry, the bridge one for its line, and the line kept for no one. -/
def State.entryQuiet (s : State) (line : Nat) (excl : Bool) : Bool := s.entryReady line && s.bridgeRoom line excl && !s.keptLine line

/-- The lines of a message of the home's own accesses rest at every L1, what is kept for its own sender apart; a request is as `entryQuiet` says; the
sums of a holder's PutU do not come before the data of an owner that has yet to give the line up. -/
def State.linesReady (s : State) (e : Instr) : Bool :=
  match e with
  | .gets _ l _ => s.entryQuiet l false
  | .getm _ l _ => s.entryQuiet l true
  | .getu _ l _ => s.entryQuiet l true
  | .upg _ l _ => s.entryQuiet l true
  | .putu a l _ _ _ => !s.holdsU a l || s.unowned l
  | .hostHalfRequest l _ _ => s.lineQuiet l
  | .homeAccess peer src ctx op .. =>
    (s.homeLines e).all (if checkedKind (op % 16) || op % 16 == 10 then s.keepingFor (keeper peer src ctx) else s).lineQuiet
  | .routerCombine _ _ reqs => (s.homeLines e).all (reqs.foldl (fun s r => s.keepingFor (keeper r.1 r.2.1 r.2.2.1)) s).lineQuiet
  | _ => true

/-- A home can carry a message out now: the refills that this takes have come too. -/
def State.homeReady (s : State) (e : Instr) : Bool := s.linesReady e && (lacking (s.homeRefills e) s.refillHeld).isEmpty

/-- A home carries a message out when it can and no earlier message of its lines waits; else the message waits, and the refills that it takes are
asked for (R257, R270; log entry 81). -/
def State.atHome (s : State) (e : Instr) (f : State → State) : State :=
  if s.homeReady e && (s.homeServes || !s.waitsFor (s.waitLines e)) then f s
  else { s.askRefills (s.homeRefills e) with homeWait := s.homeWait ++ [e] }

/-! ### Requests at the home (R260, R261) -/

/-- GetS: E where no other agent and no half of the host stands in the way, else S. -/
def State.serveGets (s : State) (a line : Nat) : State :=
  match s.dir.look line with
  | none =>
    if (s.halvesToAsk line true).isEmpty then (s.setDir line (.EM a)).post [.data ⟨homeAgent, a, false⟩ line ⟨0, 0⟩ true]
    else
      let r := s.askBridge a line false
      (r.1.setDir line (.S (.cores [a]))).post [.data ⟨homeAgent, a, false⟩ line ⟨0, r.2⟩ false]
  | some (.S h) =>
    let r := s.askBridge a line false
    (r.1.setDir line (.S (h.add a))).post [.data ⟨homeAgent, a, false⟩ line ⟨0, r.2⟩ false]
  | some (.EM o) => (s.setDir line (.S (.cores (if o = a then [a] else [o, a])))).post [.fwdGets o a line]
  | some (.U hs) => (s.setDir line (.EM a)).post (hs.map (fun h => .recall h a line) ++ [.data ⟨homeAgent, a, false⟩ line ⟨hs.length, 0⟩ true])

/-- GetM: the grant in a live snapshot range takes a shadow (R272), whatever the access that asked for the line turns out to write (log entry
90). -/
def State.serveGetm (s : State) (a line : Nat) : State :=
  let s := s.shadowIfReady line
  match s.dir.look line with
  | none => let b := s.askBridge a line true; (b.1.setDir line (.EM a)).post [.data ⟨homeAgent, a, false⟩ line ⟨0, b.2⟩ true]
  | some (.S h) =>
    let b := s.askBridge a line true
    let r := b.1.invalidateSharers h a line
    (r.1.setDir line (.EM a)).post [.data ⟨homeAgent, a, false⟩ line ⟨r.2, b.2⟩ true]
  | some (.EM o) => (s.setDir line (.EM a)).post [.fwdGetm o a line]
  | some (.U hs) => (s.setDir line (.EM a)).post (hs.map (fun h => .recall h a line) ++ [.data ⟨homeAgent, a, false⟩ line ⟨hs.length, 0⟩ true])

/-- Upg: permission alone for a listed sharer, else as GetM. -/
def State.serveUpg (s : State) (a line : Nat) : State :=
  match s.dir.look line with
  | some (.S h) =>
    if h.lists a then
      let b := (s.shadowIfReady line).askBridge a line true
      let r := b.1.invalidateSharers h a line
      (r.1.setDir line (.EM a)).post [.ackcount a line ⟨r.2, b.2⟩]
    else s.serveGetm a line
  | _ => s.serveGetm a line

/-- GetU. -/
def State.serveGetu (s : State) (a line : Nat) : State :=
  match s.dir.look line with
  | none => let b := s.askBridge a line true; (b.1.setDir line (.U [a])).post [.ackcount a line ⟨0, b.2⟩]
  | some (.S h) =>
    let b := s.askBridge a line true
    let r := b.1.invalidateSharers h a line
    (r.1.setDir line (.U [a])).post [.ackcount a line ⟨r.2, b.2⟩]
  | some (.EM o) => (s.setDir line (.U [a])).post [.fwdGetm o a line]
  | some (.U hs) => (s.setDir line (.U (hs.filter (· != a) ++ [a]))).post [.ackcount a line ⟨0, 0⟩]

/-- A message under an old incarnation is discarded (R267). -/
def State.ifCurrent (s : State) (a line : Nat) (inc : Bool) (f : State → State) : State := if s.incOk a line inc then f s else s

/-- A request at its home: it is carried out at once, where its entry has a place and the bridge can take one line more. -/
def State.atEntry (s : State) (a line : Nat) (inc : Bool) (e : Instr) (f : State → State) : State :=
  s.ifCurrent a line inc fun s => s.atHome e fun s => f (s.makeEntry line)

def execGets (a line : Nat) (inc : Bool) (st : State) : Out := .next (st.atEntry a line inc (.gets a line inc) fun s => s.serveGets a line)
def execGetm (a line : Nat) (inc : Bool) (st : State) : Out := .next (st.atEntry a line inc (.getm a line inc) fun s => s.serveGetm a line)
def execGetu (a line : Nat) (inc : Bool) (st : State) : Out := .next (st.atEntry a line inc (.getu a line inc) fun s => s.serveGetu a line)
def execUpg (a line : Nat) (inc : Bool) (st : State) : Out := .next (st.atEntry a line inc (.upg a line inc) fun s => s.serveUpg a line)

/-- PutM and PutE: the owner's line goes back, any other put is only acknowledged. -/
def State.servePut (s : State) (a line : Nat) : State :=
  (match s.dir.look line with
    | some (.EM o) => if o = a then s.dropDir line else s
    | _ => s).post [.putack a line]

def execPutm (a line : Nat) (inc : Bool) (st : State) : Out :=
  .next (st.ifCurrent a line inc fun s => s.atHome (.putm a line inc) fun s => s.servePut a line)
def execPute (a line : Nat) (inc : Bool) (st : State) : Out :=
  .next (st.ifCurrent a line inc fun s => s.atHome (.pute a line inc) fun s => s.servePut a line)

/-- A holder of a U line is no holder any more. -/
def State.dropHolder (s : State) (a line : Nat) : State :=
  match s.dir.look line with
  | some (.U hs) =>
    let left := hs.filter (· != a)
    if left.isEmpty then s.dropDir line else s.setDir line (.U left)
  | _ => s

/-- The sums that a line of an L1 has given up are merged or discarded. -/
def State.clearSums (s : State) (a line : Nat) : State :=
  match s.l1 a line with | none => s | some l => s.setL1 a line { l with sums := [] }

/-! ### Lines at an L1 (R262) -/

/-- A load that meets a poisoned unit: its trap is deferred, and it stays without a result until the trap is taken (log entry 32). -/
def State.refuseLoad (s : State) (c x : Nat) (l : PendLoad) : State :=
  (s.modCtx c x fun k => { k with loads := k.loads.map fun m => if m = l then { m with refused := true } else m }).deferred c x .memUncorr l.pc l.va

/-- Perform the loads of a core that wait for a line, in each context in order. -/
def State.performLoads (s : State) (c line : Nat) : State :=
  [0, 1, 2, 3].foldl (fun s x =>
    ((s.ctx c x).loads.filter fun l => !l.refused && l.pa.any fun p => lineOf p == line).foldl (fun s l =>
      let pa := l.pa.getD 0
      if s.poisoned pa l.size then s.refuseLoad c x l
      else
        let rest (k : Ctx) : Ctx := { k with loads := k.loads.map fun m => if m = l then { m with pa := none } else m }
        (s.modCtx c x rest).post [.variableResultArrival c x false (match l.dst with | .b n => n | _ => 0)
          (BitVec.ofNat 64 (s.readNat pa l.size))]) s) s

/-- The state that a request ends in once everything has come: a load's in E where the grant says so. -/
def LineState.granted (st : LineState) (excl : Bool) : LineState :=
  match st with
  | .ISD => if excl then .E else .S
  | .IMAD => .M
  | .SMA => .M
  | .IUA => .U
  | x => x

/-- A line arrives in a state: it carries the home's sg, the sums that were recalled for it are added (R260), and its waiting loads are
performed. An Inv that came first takes it away again. -/
def State.fill (s : State) (c line : Nat) (l : L1Line) (st : LineState) : State :=
  let s := if l.put then s else s.mergeSums line l.sums
  let s := s.setL1 c line
    { l with state := st, grant := none, got := 0, gotHalves := 0, lost := false, sums := if l.put then l.sums else [], sg := s.homeSg line }
  let s := if st = .U then s else s.performLoads c line
  if l.lost then s.dropL1 c line else s

/-- A line that has all it waits for becomes stable. -/
def State.settleLine (s : State) (c line : Nat) : State :=
  match s.l1 c line with
  | none => s
  | some l => match l.grant with
    | some g => if g.acks ≤ l.got ∧ g.halves ≤ l.gotHalves then s.fill c line l (l.state.granted g.excl) else s
    | none => s

/-- The line waits for the answer to a request. -/
def L1Line.waits (l : L1Line) : Bool :=
  match l.state with | .ISD => true | .IMAD => true | .SMA => true | .IUA => true | _ => false

/-- A message about a line that waits changes it. -/
def State.modWaiting (s : State) (a line : Nat) (f : L1Line → L1Line) : State :=
  match s.l1 a line with
  | none => s
  | some l => if l.waits then (s.setL1 a line (f l)).settleLine a line else s

def execData (way : Way) (line : Nat) (dues : Dues) (excl : Bool) (st : State) : Out :=
  .next (st.ifCurrent way.src line way.inc fun s => s.modWaiting way.dst line fun l => { l with grant := some ⟨dues.acks, dues.halves, excl⟩ })

def execAckcount (a line : Nat) (dues : Dues) (st : State) : Out :=
  .next (st.modWaiting a line fun l => { l with grant := some ⟨dues.acks, dues.halves, true⟩ })

def execInvack (way : Way) (line : Nat) (st : State) : Out :=
  .next (st.ifCurrent way.src line way.inc fun s => s.modWaiting way.dst line fun l => { l with got := l.got + 1 })

/-- PutU at its home: a holder's sums are merged (R260). Those of another are discarded here: the Recall that ended its hold takes them to the
requester, so they stay with its line until it comes. While an owner has yet to give the line up for an earlier GetU the sums wait, so that its data
does not come after them. -/
def State.servePutu (s : State) (a line : Nat) (sums : List (Nat × Bool × Word)) : State :=
  (if s.holdsU a line then ((s.mergeSums line sums).dropHolder a line).clearSums a line else s).post [.putack a line]

/-- PutU to the home, or to a requester that adds the sums to the data as it has both (R260). -/
def execPutu (a line : Nat) (inc : Bool) (dest : Nat) (sums : List (Nat × Bool × Word)) (st : State) : Out :=
  .next (if dest = 0 then
      st.ifCurrent a line inc fun s => s.atHome (.putu a line inc dest sums) fun s => s.servePutu a line sums
    else
      st.ifCurrent a line inc fun s => match s.l1 (dest - 1) line with
        | none => s.mergeSums line sums
        | some l =>
          if l.waits then s.modWaiting (dest - 1) line fun l => { l with sums := l.sums ++ sums, got := l.got + 1 } else s.mergeSums line sums)

/-- PutAck: a line that has been given up is gone; one that was requested again meanwhile has no put to wait for any more. Sums that a Recall has yet to
take keep it waiting. -/
def execPutack (a line : Nat) (st : State) : Out :=
  .next (match st.l1 a line with
    | none => st
    | some l => if l.put && !l.sums.isEmpty then st.post [.putack a line] else match l.state with
      | .MIA => st.dropL1 a line
      | .SIA => st.dropL1 a line
      | .IIA => st.dropL1 a line
      | _ => st.setL1 a line { l with put := false })

/-- A forward or Inv waits at the core. -/
def State.queueProbe (s : State) (c : Nat) (e : Instr) : State := s.modCore c fun k => { k with heldProbes := k.heldProbes ++ [e] }

/-- A forward at the core that the home took for the owner: behind the probes of the line that wait there. Without the line, the home's copy
answers. -/
def State.serveForward (s : State) (c line : Nat) (e : Instr) (toS : Bool) (answer : Instr) : State :=
  if s.probeHeld c line then s.queueProbe c e
  else match s.l1 c line with
  | none => s.post [answer]
  | some l =>
    match l.state with
    | .ISD => s.queueProbe c e
    | .IMAD => s.queueProbe c e
    | .SMA => s.queueProbe c e
    | .IUA => s.queueProbe c e
    | .MIA => (s.setL1 c line { l with state := if toS then .SIA else .IIA }).post [answer]
    | .SIA => s.post [answer]
    | .IIA => s.post [answer]
    | _ =>
      if s.leasedOn c line || s.lineWanted c line then s.queueProbe c e
      else (if toS then s.setL1 c line { l with state := .S } else s.dropL1 c line).post [answer]

def execFwdGets (o req line : Nat) (st : State) : Out :=
  .next (st.serveForward o line (.fwdGets o req line) true (.data ⟨o, req, st.inc o⟩ line ⟨0, 0⟩ false))

def execFwdGetm (o req line : Nat) (st : State) : Out :=
  .next (st.serveForward o line (.fwdGetm o req line) false (.data ⟨o, req, st.inc o⟩ line ⟨0, 0⟩ true))

/-- What an Inv does to the line of one core. -/
def State.invLine (s : State) (c line : Nat) : State :=
  match s.l1 c line with
  | none => s
  | some l => match l.state with
    | .S => s.dropL1 c line
    | .ISD => s.setL1 c line { l with lost := true }
    | .SMA => s.setL1 c line { l with state := .IMAD }
    | .SIA => s.setL1 c line { l with state := .IIA }
    | _ => s

/-- The line of a queued probe. -/
def probeLine : Instr → Nat
  | .fwdGets _ _ l => l
  | .fwdGetm _ _ l => l
  | .inv _ _ l _ => l
  | .recall _ _ l => l
  | _ => 0

/-- A line at rest that the access that asked for it has not met yet (R262: that access is performed once before the line is given up). -/
def State.unmet (s : State) (c line : Nat) : Bool :=
  (match s.l1 c line with | none => false | some l => l.stable) && s.lineWanted c line

/-- An Inv waits at a core whose line is leased or unmet, or where an earlier probe of the line waits. -/
def State.invWaits (s : State) (c line : Nat) : Bool := s.leasedOn c line || s.unmet c line || s.probeHeld c line

/-- Inv: at one core, or at every core of a marked course but the requester, for which one InvAck answers. -/
def execInv (a req line : Nat) (course : Bool) (st : State) : Out :=
  let cs := if course then ((List.range 8).map (8 * a + ·)).filter (· != req) else [a]
  let src := if course then homeAgent else a
  .next (match cs.find? fun c => st.invWaits c line with
    | some c => st.queueProbe c (.inv a req line course)
    | none => (cs.foldl (fun s c => s.invLine c line) st).post [.invack ⟨src, req, st.inc src⟩ line])

/-- A holder sends its sums to the requester that recalls them. -/
def State.sendSums (s : State) (a req line : Nat) (sums : List (Nat × Bool × Word)) : State :=
  s.post [.putu a line (s.inc a) (req + 1) sums]

/-- Recall: the holder sends its sums to the requester and gives the line up; so does one that has given it up and not been answered. One that
still waits for its permission answers then. -/
def execRecall (a req line : Nat) (st : State) : Out :=
  .next (if st.probeHeld a line then st.queueProbe a (.recall a req line)
    else match st.l1 a line with
    | none => st.sendSums a req line []
    | some l => match l.state with
      | .U => if st.lineWanted a line then st.queueProbe a (.recall a req line) else (st.dropL1 a line).sendSums a req line l.sums
      | .IUA => if l.put then (st.clearSums a line).sendSums a req line l.sums else st.queueProbe a (.recall a req line)
      | _ => if l.put then (st.clearSums a line).sendSums a req line l.sums else st.sendSums a req line [])

/-- Serve the queued probes of a core whose lines are stable or given up, not leased and not waited for any longer (R262, R270). -/
def State.serveProbes (s : State) (c : Nat) : State :=
  ((s.core c).heldProbes.map probeLine).eraseDups.foldl (fun s l =>
    let rest := match s.l1 c l with | none => true | some k => !k.waits || k.put
    if rest && !s.leasedOn c l && !s.lineWanted c l then s.releaseProbes c l else s) s

/-! ### Shadows (R272, R273) -/

/-- Shadow: the home takes it, once the refills that its tagged words take have come (R58, R51), and answers. -/
def execShadow (sender : Sender) (x line : Nat) (st : State) : Out :=
  .next (st.ifCurrent sender.agent line sender.inc fun s => s.atHome (.shadow sender x line) fun s => match s.takeShadow line with
    | (s, some g) => s.post [.shadowTaken sender.agent x line g.toNat]
    | (s, none) => s.post [.shadowFull sender.agent x line])

def execShadowTaken (c x line gen : Nat) (st : State) : Out :=
  let s := match st.l1 c line with
    | none => st
    | some l => st.setL1 c line { l with sg := BitVec.ofNat 32 gen }
  .next (s.modCtx c x fun k => if k.shadowWait = some line then { k with shadowWait := none } else k)

def execShadowFull (c x line : Nat) (st : State) : Out :=
  .next (st.modCtx c x fun k =>
    if k.shadowWait = some line then { k with shadowWait := none, reply := { k.reply with full := some line } } else k)

/-! ### Leases (R164, R269) -/

/-- The line of a lease reaches M: one granted in E moves there. -/
def State.leaseLine (s : State) (c line : Nat) : State :=
  match s.l1 c line with | none => s | some l => s.setL1 c line { l with state := .M }

def execLeaseAcquired (c x : Nat) (st : State) : Out :=
  let ready (l : LeaseSlot) : Bool := l.state == .acquiring && (match st.l1 c l.line with | none => false | some k => k.owned) &&
    !st.leasedByOther c x l.line
  .next (match (st.ctx c x).leases.find? ready with
    | none => st
    | some l => (st.leaseLine c l.line).modCtx c x fun k =>
        { k.setLease (l.arm l.cycles st.cycle) with reply := { k.reply with leased := some l.line } })

def execLeaseExpire (c x slot : Nat) (st : State) : Out :=
  .next (match (st.ctx c x).leases[slot]? with
    | none => st
    | some l =>
      if l.live ∧ l.until_ ≤ st.cycle then
        let s := st.modCtx c x fun k => k.setLease { l with state := .expired }
        if s.leasedOn c l.line then s else s.releaseProbes c l.line
      else st)

/-! ### REJOIN and removals (R42, R189, R267) -/

/-- All four units of a line are poisoned. -/
def State.poisonLine (s : State) (line : Nat) : State := (List.range 4).foldl (fun s u => s.setPoison (line * 4 + u) true) s

/-- The entry of a line after an agent has rejoined: an owner or U holder leaves the line poisoned. -/
def State.purge (s : State) (a line : Nat) (d : DirState) : State :=
  match d with
  | .EM o => if o = a then (s.dropDir line).poisonLine line else s
  | .U hs => if hs.contains a then (s.dropHolder a line).poisonLine line else s
  | .S (.cores cs) =>
    if cs.contains a then
      let left := cs.filter (· != a)
      if left.isEmpty then s.dropDir line else s.setDir line (.S (.cores left))
    else s
  | .S (.courses _) => s

/-- A half that the host holds exclusively may have been written there: what the bridge lost of it is poisoned; the halves are HI and DI again
(R340). -/
def State.purgeHalf (s : State) (key : Nat) (h : HalfState) : State :=
  let pa := key * 64
  let s := { s with halves := s.halves.set .I key .I }
  if paTier pa = 0 ∧ h = .X then (s.setPoison (pa / 32) true).setPoison (pa / 32 + 1) true else s

/-- What stands for a message that an agent has yet to send or that its old bit makes void: the home's copy for data, an acknowledgement as of a
line held invalid. The second part is a line whose data is lost with the agent. -/
def State.standIn (s : State) (a slice : Nat) (e : Instr) : Instr × Option Nat :=
  let here (line : Nat) : Bool := homeSlice line == slice
  let old (src : Nat) (inc : Bool) : Bool := src == a && inc != s.inc a
  match e with
  | .fwdGets o req line => if o = a ∧ here line = true then (.data ⟨homeAgent, req, false⟩ line ⟨0, 0⟩ false, some line) else (e, none)
  | .fwdGetm o req line => if o = a ∧ here line = true then (.data ⟨homeAgent, req, false⟩ line ⟨0, 0⟩ true, some line) else (e, none)
  | .inv c req line false => if c = a ∧ here line = true then (.invack ⟨homeAgent, req, false⟩ line, none) else (e, none)
  | .recall h req line => if h = a ∧ here line = true then (.invack ⟨homeAgent, req, false⟩ line, some line) else (e, none)
  | .data ⟨src, req, inc⟩ line ⟨acks, halves⟩ excl =>
    if old src inc ∧ here line = true then (.data ⟨homeAgent, req, false⟩ line ⟨acks, halves⟩ excl, some line) else (e, none)
  | .invack ⟨src, req, inc⟩ line => if old src inc ∧ here line = true then (.invack ⟨homeAgent, req, false⟩ line, none) else (e, none)
  | .putu h line inc dest _ =>
    if old h inc ∧ dest ≠ 0 ∧ here line = true then (.invack ⟨homeAgent, dest - 1, false⟩ line, some line) else (e, none)
  | .bridgeHalfData line half ⟨excl, req, inc⟩ =>
    if old bridgeAgent inc ∧ here line = true then (.bridgeHalfData line half ⟨excl, req, s.inc bridgeAgent⟩, some line) else (e, none)
  | _ => (e, none)

/-- The home of a slice learns of a REJOIN: it flips the bit, purges the entries that name the agent, and answers for it what others wait for. -/
def execRejoinNotice (a slice : Nat) (st : State) : Out :=
  let s := { st with incHome := st.incHome.set false (128 * a + slice) (!st.incHome.get false (128 * a + slice)) }
  let s := (s.dir.filter fun e => homeSlice e.1 == slice).foldl (fun s e => s.purge a e.1 e.2) s
  let s := if a = bridgeAgent then (s.halves.filter fun e => homeSlice (e.1 / 2) == slice).foldl (fun s e => s.purgeHalf e.1 e.2) s else s
  let es := s.agenda.map (s.standIn a slice)
  .next (({ s with agenda := es.map (·.1) } : State) |> fun s => es.foldl (fun s e => match e.2 with | some l => s.poisonLine l | none => s) s)

def execSpinvNotice (c asid base len : Nat) (st : State) : Out :=
  .next (st.modCore c fun k => { k with frames := k.frames.filter fun f =>
    !(f.asid.toNat == asid && within base len (slotVa f.span f.slot)) })

def execSpinvAck (c x : Nat) (st : State) : Out :=
  .next (match (st.ctx c x).reply.asked with
    | some (7, _) => st.modCtx c x fun k => { k with reply := { k.reply with unique := some true } }
    | _ => st)

/-! ### Accesses of a home for others (R263, R289) -/

/-- A frame lies in a valid export entry of a class (R289). -/
def State.exported (s : State) (cls pa : Nat) (write : Bool) : Bool :=
  s.exports.any fun e => let w := e.2
    w.getLsbD 63 && (!write || w.getLsbD 62) && bits w 60 2 == cls && bits w 58 2 == paTier pa && decide (paTier pa < 2) &&
      bits w 56 2 == paDie pa && decide (bits w 36 20 ≤ paFrame pa ∧ paFrame pa ≤ bits w 36 20 + bits w 16 20)

/-- What a remote access asks of the export table: its class and whether it writes. A check asks what the access that it is for asks. -/
def accessNeeds (kind fn : Nat) : Nat × Bool :=
  match kind with
  | 0 => (1, false)
  | 7 => (if fn = 0 then 1 else 0, false)
  | 9 => (1, false)
  | 10 => (1, fn % 16 != 0)
  | _ => (1, true)

/-- A kind that a held bundle asks and whose answer it waits for: a block, a check, a save area. -/
def askedKind (kind : Nat) : Bool := [9, 10, 12, 13].contains kind

/-- Refuse an access: of a copy by its number plus one, of a context by the number of its bundle. -/
def State.refuse (s : State) (peer src srcCtx kind n : Nat) (pc : Word) (cause : Cause) : State :=
  s.deliver peer (.remoteRefusal src srcCtx pc ⟨if kind = 7 ∨ kind = 8 then n + 1 else 0, askedKind kind, n / 64⟩ cause.code.toNat)

/-- An access arrives at the peer: it is checked where it came through a window, then performed by the home. One whose check has had its line kept has
been checked; the kind 11 ends what was kept. -/
def execRemoteAccess (peer src srcCtx op pa : Nat) (x y pc : Word) (n : Nat) (bytes : List Byte) (st : State) : Out :=
  let kind := op % 16
  let fn := op / 256
  let need := accessNeeds kind fn
  let r := st.accessRange kind (op / 16 % 16) fn pa x y n bytes
  let e : Instr := .homeAccess peer src srcCtx op pa x y pc n bytes
  let ok := byHandle kind fn || st.wasChecked e ||
    (st.partition.get false peer && st.exported need.1 r.1 need.2 && paExists r.1 && !isHubSpace r.1 && !frameReserved (paTier r.1) (paFrame r.1))
  .next (if kind = 11 then { st with reserves := st.reserves.erase (keeper peer src srcCtx, lineOf pa) }
    else if ok then st.post [e] else st.refuse peer src srcCtx kind n pc .remoteDenied)

/-- Poison marks of a range, a byte each. -/
def State.marks (s : State) (pa n : Nat) : List Bool := (List.range n).map fun i => s.poison.get false ((pa + i) / 32)

def markBytes (ms : List Bool) : List Byte := ms.map fun m => if m then 1 else 0

/-- Write bytes with the marks they carry (R32): a mark comes with its byte; a unit that is covered wholly takes the marks of its bytes. -/
def State.writeMarked (s : State) (pa : Nat) (bs : List Byte) (ms : List Bool) : State :=
  let s := s.writeRange pa bs
  ((List.range bs.length).zip ms).foldl (fun s e => if e.2 then s.setPoison ((pa + e.1) / 32) true else s) s

/-- The bytes that a home takes to write have a shadow pool that is full (R161). -/
def State.poolFull (s : State) (pa n : Nat) : Bool := (s.takeToWrite pa n).isNone

/-- The checks of a scalar form at the home of its word, in the order of the form in this package (R54, R157, R161, R162): the first that fails. -/
def State.accessFault (s : State) (kind fn pa size : Nat) (y : Word) : Option Cause :=
  let full : Option Cause := if s.poolFull pa size then some .snapFull else none
  let plain : Option Cause := if s.tag pa then some .handleClobber else full
  let handle (miss : Cause) : Option Cause := if !s.tag pa then some miss else if s.poisoned pa 8 then some .memUncorr else full
  match kind with
  | 0 => if s.poisoned pa size then some .memUncorr else none
  | 2 => if s.poisoned pa size then some .memUncorr
         else if atomWrites fn ((s.homeTake (lineOf pa)).readNat pa size) y.toNat then plain else none
  | 5 => handle .handleUntagged
  | 6 => handle (if fn = 1 then .kvMiss else .handleUntagged)
  | _ => plain

/-- Carry out a scalar form that has passed its checks, on the word that the home has taken, and answer it (R263). `n` is 64 times the number of its
bundle and that of its result register. -/
def State.accessWord (s : State) (peer src srcCtx kind fn pa size : Nat) (x y : Word) (n : Nat) : State :=
  let ack (s : State) : State := s.deliver peer (.remoteAcknowledgement src ⟨srcCtx, false, n / 64⟩)
  let result (s : State) (h : Bool) (v : Word) : State := s.deliver peer (.variableResultArrival src srcCtx h n v)
  let old := s.readNat pa size
  match kind with
  | 0 => result s false (BitVec.ofNat 64 old)
  | 1 => ack (s.writeNat pa size x.toNat)
  | 2 => result (if atomWrites fn old y.toNat then s.writeNat pa size (atomNew fn (8 * size) old x.toNat y.toNat) else s) false (BitVec.ofNat 64 old)
  | 3 => ack (s.writeNat pa size ((old + x.toNat) % 2 ^ (8 * size)))
  | 4 => result (s.writeHandle pa (Handle.ofWord x)) true 0
  | 5 => result (s.clearWord pa) true (s.readHandle pa).toWord
  | _ =>
    let h := s.readHandle pa
    result ((s.splitAway h).writeHandle pa h.split) true h.split.toWord

/-- The home takes the line of a word for a scalar form: with its shadow where the form writes. -/
def State.takeWord (s : State) (kind fn pa size : Nat) (y : Word) : State :=
  if kind = 0 ∨ (kind = 2 ∧ atomWrites fn ((s.homeTake (lineOf pa)).readNat pa size) y.toNat = false) then s.takeRange pa size
  else (s.takeToWrite pa size).getD s

/-- A form that is checked, its kind and variant in `fn`, finds nothing against it: the home takes its word and keeps the line for it, until the
access comes or its bundle gives the word up (R54, R157). -/
def State.keepWord (s : State) (peer src srcCtx fn pa size : Nat) (y : Word) : State :=
  let t := s.takeWord (fn % 16) (fn / 16) pa size y
  { t with reserves := t.reserves ++ [(keeper peer src srcCtx, lineOf pa)] }

/-- What the home of a save area does for CTXSAVE (12) and CTXLOAD (13) of a peer (R188). -/
def State.accessArea (s : State) (peer src srcCtx kind pa : Nat) (x pc : Word) (bytes : List Byte) : State :=
  let no (s : State) (c : Cause) : State := s.refuse peer src srcCtx kind 0 pc c
  if kind = 12 then
    if s.anyTag pa 4096 then no s .handleClobber
    else match s.takeToWrite pa 4096 with
    | none => no s .snapFull
    | some s => (s.writeArea pa bytes).deliver peer (.remoteAcknowledgement src ⟨srcCtx, true, 0⟩)
  else if s.poisoned pa 4096 then no s .memUncorr
  else if BitVec.ofNat 64 ((s.takeRange pa 4096).readNat (pa + 8 * 155) 8) ≠ x then no s .privOp
  else match s.takeToWrite pa 4096 with
  | none => no s .snapFull
  | some s =>
    let at_ (i : Nat) : Nat := pa + 0x200 + 8 * i
    let hs := (List.range 64).map fun i => if s.tag (at_ i) then (s.readHandle (at_ i)).toWord else 0
    ((List.range 64).foldl (fun s i => if s.tag (at_ i) then s.clearWord (at_ i) else s) s).deliver peer
      (.descriptorReply src srcCtx (BitVec.ofNat 40 pa) hs)

/-- What a copy read by handle finds wrong with its tile (R224); an update's read has no such check. -/
def State.tileReadFault (s : State) (fn pa : Nat) (x y : Word) : Option Cause :=
  if fn % 2 = 0 then none
  else match s.desc (x.setWidth 40) with
  | none => some .tileIndex
  | some d =>
    if fn = 1 ∧ (d.opened = true ∨ d.sealed = false) then some .tileOpen
    else if d.bytes < Nat.max (pa + bits y 0 32) (bits y 32 32) then some .tileIndex else none

/-- Carry out an access at its home on lines that can be taken; the message that answers it. -/
def State.homePerform (s : State) (peer src srcCtx op pa : Nat) (x y pc : Word) (n : Nat) (bytes : List Byte) : State :=
  let kind := op % 16
  let size := op / 16 % 16
  let fn := op / 256
  let r := s.accessRange kind size fn pa x y n bytes
  let no (s : State) (c : Cause) : State := s.refuse peer src srcCtx kind n pc c
  match kind with
  | 7 => (match s.tileReadFault fn pa x y with
    | some c => no s c
    | none =>
      let s := if fn % 2 = 1 then s else s.takeRange r.1 r.2
      let bs := s.readBytes r.1 r.2 ++ markBytes (s.marks r.1 r.2)
      s.deliver peer (if fn = 3 then .updateCopyComplete src (numberOf n) bs else .copyChunkComplete src n bs))
  | 8 =>
    if s.anyTag r.1 r.2 then no s .handleClobber
    else (match s.takeToWrite r.1 r.2 with
      | none => no s .snapFull
      | some s => (s.writeMarked pa (bytes.take r.2) ((bytes.drop r.2).map (· != 0))).deliver peer (.copyChunkComplete src n []))
  | 9 =>
    if s.poisoned pa n then no s .memUncorr
    else
      let s := s.takeRange pa n
      s.deliver peer (.descriptorReply src srcCtx (BitVec.ofNat 40 pa)
        ((List.range (n / 8)).map fun i => BitVec.ofNat 64 (s.readNat (pa + 8 * i) 8)))
  | 10 => (match s.accessFault (fn % 16) (fn / 16) pa size y with
    | some c => no s c
    | none => (s.keepWord peer src srcCtx fn pa size y).deliver peer (.remoteAcknowledgement src ⟨srcCtx, true, s.peer.toNat * 2 ^ 45 + pa⟩))
  | 12 => s.accessArea peer src srcCtx kind pa x pc bytes
  | 13 => s.accessArea peer src srcCtx kind pa x pc bytes
  | _ =>
    let s := { s with reserves := s.reserves.erase (keeper peer src srcCtx, lineOf pa) }
    (match s.accessFault kind fn pa size y with
    | some c => no s c
    | none => (s.takeWord kind fn pa size y).accessWord peer src srcCtx kind fn pa size x y n)

/-- HOME_ACCESS: it waits at the home for the lines it reaches to come to rest, for leases on them (R161, R270) and for refills. -/
def execHomeAccess (peer src srcCtx op pa : Nat) (x y pc : Word) (n : Nat) (bytes : List Byte) (st : State) : Out :=
  .next (st.atHome (.homeAccess peer src srcCtx op pa x y pc n bytes) fun s => s.homePerform peer src srcCtx op pa x y pc n bytes)

/-! ### Host halves (R265) -/

/-- The line of an owner becomes shared, as by a Fwd-GetS. -/
def LineState.shared : LineState → LineState
  | .M => .S
  | .E => .S
  | .MIA => .SIA
  | x => x

/-- A request of the host for a half, as one for the whole line: shared, it leaves an owner in S; else every copy goes. -/
def State.serveHost (s : State) (line : Nat) (excl : Bool) : State :=
  match excl, s.dir.look line with
  | false, some (.S _) => s
  | false, some (.EM o) =>
    (match s.l1 o line with | none => s | some l => s.setL1 o line { l with state := l.state.shared }).setDir line (.S (.cores [o]))
  | _, _ => (s.merged line).invalidateLine line

/-- The state of a half after a request or snoop of the host. -/
def hostTakes (tier : Nat) (excl : Bool) (h : HalfState) : HalfState :=
  match tier with
  | 3 => if excl then .I else if h = .I then .I else .S
  | _ => if excl then .X else if h = .X then .X else .S

/-- A host request or snoop of a half: only the named half changes. -/
def execHostHalfRequest (line half : Nat) (ask : HostAsk) (st : State) : Out :=
  let key := 2 * line + half % 2
  .next (st.ifCurrent bridgeAgent line ask.inc fun s => s.atHome (.hostHalfRequest line half ask) fun s =>
    let s := s.serveHost line ask.excl
    { s with halves := s.halves.set .I key (hostTakes (paTier (line * 128)) ask.excl (s.halves.get .I key)) })

/-- The bridge's half reaches the requester, which assembles the line of it and the home's (R265). -/
def execBridgeHalfData (line _half : Nat) (give : HalfFor) (st : State) : Out :=
  .next (st.ifCurrent bridgeAgent line give.inc fun s => s.modWaiting give.agent line fun l => { l with gotHalves := l.gotHalves + 1 })

/-! ### Power gating of a core (R266, R339) -/

/-- The core may be gated: it holds no task, its engines are empty (log entry 51), no lease of it is live, no request is in a transient state but
its own puts. -/
def State.mayGate (s : State) (c : Nat) : Bool :=
  let k := s.core c
  !k.holdsTask && !(k.ctxs.any fun e => e.2.leases.any LeaseSlot.live) && k.cmds.isEmpty &&
    k.l1.all fun e => e.2.stable || e.2.state == .MIA || e.2.state == .SIA || e.2.state == .IIA

/-- An idle core gives up its lines, waits for every PutAck, and is gated. -/
def execCorePowerGate (c : Nat) (st : State) : Out :=
  .next (if !st.mayGate c then (if (st.core c).gated then st else st.modCore c fun k => { k with capGated := false })
    else if (st.core c).l1.isEmpty then st.modCore c fun k => { k with gated := true }
    else ((st.core c).l1.foldl (fun s e => s.giveUp c e.1 e.2) st).post [.corePowerGate c])

/-- A gated core wakes when a dispatch has named it; one that the power cap has gated does not while the cap is exceeded (R339). -/
def execCoreWake (c : Nat) (st : State) : Out :=
  .next (if (st.core c).holdsTask && !(st.overCap && (st.core c).capGated) then st.modCore c fun k => { k with gated := false, capGated := false }
    else st)

end Sys2Proof.Machine
end

