-- ==== Sys2Proof/Machine/Matrix.lean ====
section
/-! DEFINITION. The matrix forms (R197 to R204) and the arithmetic of the matrix engine (R21, R22, R200, R201, R230 to R233). -/

namespace Sys2Proof.Machine

/-! ### Format pairs (R197, R198) -/

/-- How a pair accumulates (R22): chunks of 8 in FP32, groups of 128 in FP32, exact in s32. -/
inductive Accum where
  | chunks | groups | integers
  deriving DecidableEq, Repr

/-- FP32, BF16 or FP16. -/
def Elem.wide (x : Elem) : Bool := match x with | .float _ => !x.narrow | _ => false

/-- s8 or s4. -/
def Elem.short (x : Elem) : Bool := x == .int 8 true || x == .int 4 true

/-- The row of R198 that a pair stands in. -/
def accumOf (a b : BitVec 16) : Option Accum :=
  match elemOf a, elemOf b with
  | some x, some y =>
    if x.wide && y.wide then some .chunks
    else if (x.narrow || x.short) && (y.narrow || y.short) then
      (if fwordScaled a || fwordScaled b || x.narrow || y.narrow then some .groups else some .integers)
    else none
  | _, _ => none

def execMfmt (g : BitVec 4) (s : BitVec 5) (st : State) : Out :=
  guarded g st fun z => do
    let w := z.opB s
    let a := w.setWidth 16
    let b := w.extractLsb' 16 16
    trapIf (bits w 32 32 != 0) .formatPair
    trapIf ((elemOf a).isNone || (elemOf b).isNone) .formatInvalid
    trapIf (accumOf a b).isNone .formatPair
    .ok (z.modMe fun x => { x with pair := some (a, b) })

/-- The pair of the context in issue; a matrix command without one raises FORMAT_PAIR (R197). -/
def pairInForce (s : State) : Eff (BitVec 16 × BitVec 16) :=
  match s.me.pair with
  | none => .error (.trap .formatPair 0)
  | some p => .ok p

/-! ### MMA and MMAC (R199) -/

/-- The format that a pair's result takes: FP32, or s32. -/
def resultElem (p : BitVec 16 × BitVec 16) : Elem := if accumOf p.1 p.2 = some .integers then .int 32 true else .float fp32

/-- MMA and MMAC: that REGION_BAD of the window word comes before FORMAT_PAIR is the model's order (log entry 113). -/
def mmaForm (acc : Bool) (g : BitVec 4) (ha hb : BitVec 6) (s : BitVec 5) (st : State) : Out :=
  guarded g st fun z => do
    let a ← liveHandle ha z
    let b ← liveHandle hb z
    let d ← regionOf z (z.opB s)
    trapIf (s == 0 || s == 31) .regionBad
    let w := z.opB (s + 1)
    let rows := bits w 22 14 + 1
    let cols := bits w 8 14 + 1
    trapIf (bits w 0 8 != 0 || rows * cols != d.count) .regionBad
    let p ← pairInForce z
    trapIf (d.elem != resultElem p) .formatMismatch
    blockIf (!z.queueOpen .matrix) z
    .ok (z.enqueue (some .matrix) (.mma acc p.1 p.2 a.tile b.tile d (bits w 50 14) (bits w 36 14) rows cols))

def execMma (g : BitVec 4) (ha hb : BitVec 6) (s : BitVec 5) (st : State) : Out := mmaForm false g ha hb s st
def execMmac (g : BitVec 4) (ha hb : BitVec 6) (s : BitVec 5) (st : State) : Out := mmaForm true g ha hb s st

/-! ### GMMA (R202) -/

/-- The group descriptor is as R202 asks of the issuing member. -/
def groupOk (w : Word) (member : Nat) : Bool :=
  let mask := bits w 56 8
  bits w 48 3 == 0 && bits w 51 2 != 0 && popcount8 mask == 2 ^ bits w 51 2 && mask.testBit member &&
    bits w 53 3 == popcount8 (mask % 2 ^ member)

/-- GMMA: that FORMAT_PAIR comes before GMMA_BAD is the model's order (log entry 113). -/
def gmmaForm (mc : Bool) (g : BitVec 4) (ha hb : BitVec 6) (s : BitVec 5) (hx : BitVec 6) (st : State) : Out :=
  guarded g st fun z => do
    let a ← liveHandle ha z
    let b ← liveHandle hb z
    trapIf (z.opH hx).isSome .handleLive
    let w := z.opB s
    let p ← pairInForce z
    trapIf (!groupOk w (z.peer.toNat % 8)) .gmmaBad
    blockIf (!z.queueOpen .matrix) z
    .ok (z.enqueue (some .matrix) (.gmma ⟨mc, p.1, p.2, a.tile, b.tile, hx.toNat, w,
      (if z.me.gtimeout = 0 then 2 ^ 32 else z.me.gtimeout.toNat), 0, false, 0⟩))

def execGmma (g : BitVec 4) (ha hb : BitVec 6) (s : BitVec 5) (hx : BitVec 6) (st : State) : Out := gmmaForm false g ha hb s hx st
def execGmmaMc (g : BitVec 4) (ha hb : BitVec 6) (s : BitVec 5) (hx : BitVec 6) (st : State) : Out := gmmaForm true g ha hb s hx st

/-! ### Operands (R199, R21) -/

/-- A matrix command's operands: the tiles, their scale tiles, the accumulation. -/
structure Operands where
  a : Desc
  b : Desc
  sa : Option Desc
  sb : Option Desc
  acc : Accum
  deriving DecidableEq, Repr

/-- Groups of 128 along K. -/
def groupsOf (k : Nat) : Nat := (k + 127) / 128

/-- The scale tile of an operand: none for an unscaled one; BF16 of the shape that R21 asks. -/
def State.scaleTile (s : State) (d : Desc) (rows cols : Nat) : Except Cause (Option Desc) :=
  if !fwordScaled d.fword then .ok none
  else match d.scale with
  | none => .error .formatMismatch
  | some h =>
    if !s.isHome h.tile then .error .tileRemote
    else match s.desc h.tile with
    | none => .error .formatMismatch
    | some q =>
      if q.opened then .error .tileOpen
      else if q.fword = bf16Word ∧ q.rows.toNat + 1 = rows ∧ q.cols.toNat + 1 = cols then .ok (some q) else .error .formatMismatch

/-- The operands of two tiles under a pair, with the engine faults of R199 but for the window, which comes last. R199 gives no order among them:
the model's is that of the conditions below (log entry 91). An open scale tile is refused as every tile that the fetch unit reads (R67). -/
def State.operands (s : State) (fa fb : BitVec 16) (ta tb : BitVec 40) : Except Cause Operands :=
  if !s.isHome ta || !s.isHome tb then .error .tileRemote
  else match s.desc ta, s.desc tb, accumOf fa fb with
  | some a, some b, some acc => do
    if a.opened || b.opened then .error .tileOpen
    else if a.fword ≠ fa ∨ b.fword ≠ fb then .error .formatMismatch
    else if a.cols ≠ b.rows then .error .tileShape
    else
      let k := a.cols.toNat + 1
      let sa ← s.scaleTile a (a.rows.toNat + 1) (groupsOf k)
      let sb ← s.scaleTile b (groupsOf k) (b.cols.toNat + 1)
      .ok ⟨a, b, sa, sb, acc⟩
  | _, _, _ => .error .formatMismatch

/-- The window lies in the product (R199). -/
def Operands.windowOk (o : Operands) (row0 col0 rows cols : Nat) : Bool :=
  decide (row0 + rows ≤ o.a.rows.toNat + 1 ∧ col0 + cols ≤ o.b.cols.toNat + 1)

/-! ### One output (R200, R201) -/

/-- Exact value of an element of a tile. -/
def State.tileValue (s : State) (d : Desc) (i j : Nat) : Num :=
  match d.elem with
  | none => .nan false
  | some x => x.value (s.tileElem d i j)

/-- The scale of a group, 1.0 on an unscaled side. -/
def State.scaleValue (s : State) (q : Option Desc) (i j : Nat) : Num :=
  match q with
  | none => .fin false 1 0
  | some d => s.tileValue d i j

/-- Products of A's row and B's column over `n` positions of K from `k0`. -/
def State.products (s : State) (o : Operands) (i j k0 n : Nat) : List Num :=
  (List.range n).map fun k => (s.tileValue o.a i (k0 + k)).mul (s.tileValue o.b (k0 + k) j)

/-- One rounding to FP32 of an exact sum. -/
def roundSum (xs : List Num) : Nat := (fp32.convert rne false (sumNum xs)).1

/-- Steps of an accumulation, `width` positions of K at a time; a group enters as one term (R201). -/
def State.accumulate (s : State) (o : Operands) (i j k width : Nat) : Nat → Nat → Nat → Nat
  | 0, _, acc => acc
  | fuel + 1, c, acc =>
    let ps := s.products o i j (c * width) (Nat.min width (k - c * width))
    let terms := if o.acc = .chunks then ps
      else [((s.scaleValue o.sa i c).mul (s.scaleValue o.sb c j)).mul (sumNum ps)]
    s.accumulate o i j k width fuel (c + 1) (roundSum (fp32.decode acc :: terms))

/-- The raw integer of an element of a tile. -/
def State.tileInt (s : State) (d : Desc) (i j : Nat) : Int :=
  match d.elem with
  | none => 0
  | some x => x.rawInt (s.tileElem d i j)

/-- Output (i, j) of the product from an accumulator code. -/
def State.output (s : State) (o : Operands) (i j acc : Nat) : Nat :=
  let k := o.a.cols.toNat + 1
  match o.acc with
  | .chunks => s.accumulate o i j k 8 ((k + 7) / 8) 0 acc
  | .groups => s.accumulate o i j k 128 (groupsOf k) 0 acc
  | .integers => lowBits 32 ((List.range k).foldl (fun t q => t + s.tileInt o.a i q * s.tileInt o.b q j) (acc : Int))

/-! ### Blocks (R231) -/

/-- Blocks of a window. -/
def blockCount (rows cols : Nat) : Nat := ((rows + 31) / 32) * ((cols + 63) / 64)

/-- Blocks of a block column. -/
def rowBlocks (rows : Nat) : Nat := (rows + 31) / 32

/-- Window rows and window columns of block `n`: the block column is the outer index, the block row the inner one. -/
def blockRows (rows n : Nat) : List Nat :=
  let ib := n % rowBlocks rows
  (List.range (Nat.min 32 (rows - 32 * ib))).map (32 * ib + ·)

def blockCols (rows cols n : Nat) : List Nat :=
  let jb := n / rowBlocks rows
  (List.range (Nat.min 64 (cols - 64 * jb))).map (64 * jb + ·)

/-- Window elements of block `n`. -/
def blockElems (rows cols n : Nat) : List (Nat × Nat) := (blockRows rows n).flatMap fun i => (blockCols rows cols n).map fun j => (i, j)

/-! ### Fetching operands (R66, R67, R232) -/

/-- What a matrix command multiplies: its operands and the window of their product. -/
structure Product where
  ops : Operands
  row0 : Nat
  col0 : Nat
  rows : Nat
  cols : Nat
  deriving DecidableEq, Repr

/-- The whole product, as a group multiply forms it. -/
def Operands.whole (o : Operands) : Product := ⟨o, 0, 0, o.a.rows.toNat + 1, o.b.cols.toNat + 1⟩

def Product.blocks (p : Product) : Nat := blockCount p.rows p.cols

/-- Positions of K. -/
def Product.depth (p : Product) : Nat := p.ops.a.cols.toNat + 1

/-- The B panel of a block column fits in a half of the stash: K × 64 × z bytes, z in half bytes (R232). -/
def Product.stashed (p : Product) : Bool :=
  match p.ops.b.elem with | none => false | some x => decide (p.depth * 64 * x.nibbles ≤ 524288)

/-- Elements of A and of B, with those of their scale tiles, that block `n` needs for the positions of K that arrive together from `k0` on. -/
def Product.partA (p : Product) (n k0 : Nat) : List (Desc × Nat × Nat) :=
  (List.range (Nat.min Config.fetchStep (p.depth - k0))).flatMap fun k => (blockRows p.rows n).flatMap fun i =>
    (p.ops.a, p.row0 + i, k0 + k) :: p.ops.sa.toList.map fun d => (d, p.row0 + i, (k0 + k) / 128)

def Product.partB (p : Product) (n k0 : Nat) : List (Desc × Nat × Nat) :=
  (List.range (Nat.min Config.fetchStep (p.depth - k0))).flatMap fun k => (blockCols p.rows p.cols n).flatMap fun j =>
    (p.ops.b, k0 + k, p.col0 + j) :: p.ops.sb.toList.map fun d => (d, (k0 + k) / 128, p.col0 + j)

/-- The 256-byte block of storage that holds an element. -/
def blockOf (e : Desc × Nat × Nat) : Nat :=
  match e.1.elem with | none => 0 | some x => (e.1.storage.toNat + e.1.pos x.nibbles e.2.1 e.2.2 / 2) / 256

/-! The panels of a command that takes them into its stash are read one after the other; `panel` counts the positions of K that have been read of
all of them. -/

/-- The part that is read next of a panel, by a block of its column and a position of K: of the column of block `n`, else of the next column, into the
idle half of the stash. -/
def Product.nextPanel (p : Product) (n panel : Nat) : Option (Nat × Nat) :=
  let col := panel / p.depth
  if p.stashed && decide (col * rowBlocks p.rows < p.blocks ∧ col ≤ n / rowBlocks p.rows + 1) then
    some (col * rowBlocks p.rows, panel % p.depth) else none

/-- The count after that part has come. -/
def Product.panelAfter (p : Product) (n panel : Nat) : Nat :=
  match p.nextPanel n panel with | none => panel | some (_, k) => panel + Nat.min Config.fetchStep (p.depth - k)

/-- Block `n` waits for the panel of its column. -/
def Product.awaitsPanel (p : Product) (n panel : Nat) : Bool := p.stashed && decide (panel < (n / rowBlocks p.rows + 1) * p.depth)

/-- The first panel of the command is not yet in the stash: the engine waits and does not freeze. -/
def Product.early (p : Product) (n panel : Nat) : Bool := n < rowBlocks p.rows && p.awaitsPanel n panel

/-- Blocks that the fetch unit requests, and so pins, for block `n` from position `k0` on: A's, and B's where it is streamed, once the panel of the
column is there; beside them a part of a panel. None after the last block. -/
def Product.request (p : Product) (n k0 panel : Nat) : List Nat :=
  if p.blocks ≤ n then []
  else
    let step := if p.awaitsPanel n panel then [] else p.partA n k0 ++ if p.stashed then [] else p.partB n k0
    ((step ++ match p.nextPanel n panel with | none => [] | some (m, k) => p.partB m k).map blockOf).eraseDups

/-- Blocks that stay pinned while the engine uses what has arrived: those of a panel in the stash do not. -/
def Product.inUse (p : Product) (n k0 : Nat) : List Nat :=
  ((p.partA n k0 ++ if p.stashed then [] else p.partB n k0).map blockOf).eraseDups

/-- A block of 256 bytes that the fetch unit reads holds a poisoned unit (R32, R67; log entry 89). -/
def State.blocksPoisoned (s : State) (bs : List Nat) : Bool := !s.poison.isEmpty && bs.any fun b => s.poisoned (256 * b) 256

end Sys2Proof.Machine
end

