-- ==== Sys2Proof/Machine/Vector.lean ====
section
/-! DEFINITION. The vector and special-function forms (R194 to R196, R205 to R222): their checks at issue, and what a command
computes when it completes. -/

namespace Sys2Proof.Machine

/-! ### Checks at issue (R191, R194, R195) -/

/-- Every operand lies in one class, and that class is allowed. -/
def oneClass (allowed : List Cls) (rs : List Region) : Eff Unit :=
  trapIf (!(allowed.any fun c => rs.all fun r => r.elem.cls == c)) .formatMismatch

/-- Every source has the count of D. -/
def counts (n : Nat) (rs : List Region) : Eff Unit := trapIf (rs.any fun r => r.count != n) .regionBad

/-- D and a source name the same positions. -/
def Region.samePlaces (d s : Region) : Bool := d.base == s.base && d.stride == s.stride && d.elem.nibbles == s.elem.nibbles

/-- Overlaps only as R195 allows. -/
def overlapOk (d : Region) (rs : List Region) : Eff Unit :=
  trapIf (rs.any fun s => overlaps d.extent s.extent && !d.samePlaces s) .regionOverlap

/-- No overlap at all. -/
def apart (d : Region) (rs : List Region) : Eff Unit := trapIf (rs.any fun s => overlaps d.extent s.extent) .regionOverlap

/-- The checks of an element-wise form whose operands lie in one class. -/
def elementwise (allowed : List Cls) (d : Region) (rs : List Region) : Eff Unit := do
  oneClass allowed (d :: rs)
  counts d.count rs
  overlapOk d rs

/-- s32 or z32. -/
def Elem.isIndex (x : Elem) : Bool := match x with | .int 32 _ => true | _ => false

/-- The formats of VCVT·s (R210). -/
def Elem.quantisable (x : Elem) : Bool := match x with | .float f => !x.narrow && f.mbits != 0 | _ => false
def Elem.quantised (x : Elem) : Bool := x.narrow || x == .int 8 true || x == .int 4 true

/-- The form's own checks. -/
def VOp.check (op : VOp) (d : Region) (s t : Option Region) (y : Word) : Eff Unit := do
  let rs := s.toList ++ t.toList
  match op with
  | .add => elementwise [.F, .C] d rs
  | .sub => elementwise [.F, .C] d rs
  | .mul => elementwise [.F] d rs
  | .fma _ => elementwise [.F] d rs
  | .max => elementwise [.F, .I] d rs
  | .min => elementwise [.F, .I] d rs
  | .abs => elementwise [.F, .I] d rs
  | .neg => elementwise [.F, .I] d rs
  | .clampS => elementwise [.F, .I] d rs
  | .clampV => elementwise [.F, .I] d rs
  | .cvt => do
    trapIf (rs.any fun r => (r.elem.cls == .C) != (d.elem.cls == .C)) .formatMismatch
    counts d.count rs
    overlapOk d rs
  | .cvtS => do
    trapIf (s.toList.any fun r => !r.elem.quantisable) .formatMismatch
    trapIf (t.toList.any fun r => r.elem != .float bf16) .formatMismatch
    trapIf (!d.elem.quantised) .formatMismatch
    counts d.count s.toList
    counts ((d.count + 127) / 128) t.toList
    overlapOk d rs
  | .exp _ => elementwise [.F] d rs
  | .rcp => elementwise [.F] d rs
  | .rsq => elementwise [.F] d rs
  | .sumF => do
    oneClass [.F] (d :: rs)
    counts 1 [d]
    apart d rs
  | .sumI => do
    oneClass [.I] (d :: rs)
    counts 1 [d]
    apart d rs
  | .rmax => do
    oneClass [.F, .I] (d :: rs)
    counts 1 [d]
    apart d rs
  | .sel => do
    oneClass [.F, .C, .I] (d :: s.toList)
    oneClass [.I] t.toList
    counts d.count rs
    overlapOk d s.toList
    apart d t.toList
  | .cmp _ => do
    oneClass [.F, .I] rs
    trapIf (d.elem.cls != .I || d.elem == .q16) .formatMismatch
    counts d.count rs
    overlapOk d rs
  | .topk _ => do
    oneClass [.F, .I] s.toList
    trapIf (!d.elem.isIndex) .formatMismatch
    trapIf (t.toList.any fun r => s.toList.any fun q => r.elem != q.elem) .formatMismatch
    trapIf (s.toList.any fun r => decide (r.count < d.count)) .regionBad
    counts d.count t.toList
    apart d rs
    trapIf (t.toList.any fun r => s.toList.any fun q => overlaps r.extent q.extent) .regionOverlap
  | .gath => do
    oneClass [.F, .C, .I] (d :: s.toList)
    trapIf (t.toList.any fun r => !r.elem.isIndex) .formatMismatch
    counts d.count t.toList
    apart d rs
  | .scat => do
    oneClass [.F, .C, .I] (d :: s.toList)
    trapIf (t.toList.any fun r => !r.elem.isIndex) .formatMismatch
    trapIf (t.toList.any fun r => s.toList.any fun q => r.count != q.count) .regionBad
    apart d rs
  | .iota => oneClass [.F, .I] [d]
  | .fill => .ok ()
  | .bfly _ => do
    oneClass [.C] (d :: rs)
    trapIf (d.count % 2 != 0) .regionBad
    counts d.count s.toList
    trapIf (t.toList.any fun r => r.count != d.count / 2 && r.count != 1) .regionBad
    overlapOk d s.toList
    apart d t.toList
  | .twid => do
    oneClass [.C] [d]
    trapIf (bits y 5 59 != 0 || decide (24 < bits y 0 5)) .twidBad
  | .cmul _ => do
    oneClass [.C] (d :: rs)
    counts d.count s.toList
    trapIf (t.toList.any fun r => r.count != d.count && r.count != 1) .regionBad
    overlapOk d rs
  | .iadd _ => elementwise [.I] d rs
  | .imul => elementwise [.I] d rs
  | .band => elementwise [.I] d rs
  | .bor => elementwise [.I] d rs
  | .bxor => elementwise [.I] d rs
  | .shl => elementwise [.I] d rs
  | .shr => elementwise [.I] d rs
  | .sar => elementwise [.I] d rs
  | .flg _ => do
    trapIf (d.elem != .int 8 false) .formatMismatch
    trapIf (decide (256 < d.count)) .regionBad
  | .maskw => oneClass [.F, .I] [d]

/-- The unit that runs a form. -/
def VOp.engine (op : VOp) : Engine := match op with | .exp _ => .sfu | .rcp => .sfu | .rsq => .sfu | _ => .vector

/-- Issue of a vector or special-function command: `sr` and `tr` say which of s and t name regions. -/
def vectorForm (g : BitVec 4) (op : VOp) (rm : BitVec 2) (sat quiet : Bool) (d s t : BitVec 5) (sr tr : Bool) (st : State) : Out :=
  guarded g st fun z => do
    let dr ← regionOf z (z.opB d)
    let sr ← if sr then (regionOf z (z.opB s)).map some else .ok none
    let tr ← if tr then (regionOf z (z.opB t)).map some else .ok none
    op.check dr sr tr (z.opB t)
    blockIf (!z.queueOpen .vector) z
    .ok (z.enqueue (some op.engine) (.vec ⟨op, rm, sat, quiet, dr, sr, tr, z.opB s, z.opB t⟩))

/-! ### Operands of a command -/

namespace VCmd

/-- Format of S, or of D where the form has no S. -/
def xElem (v : VCmd) : Elem := match v.s with | some r => r.elem | none => v.d.elem

/-- Format of T; a scalar operand is read in the format of S (R196). -/
def yElem (v : VCmd) : Elem := match v.t with | some r => r.elem | none => v.xElem

def xAt (v : VCmd) (k : Core) (i : Nat) : Nat := match v.s with | some r => r.get k i | none => 0

def yAt (v : VCmd) (k : Core) (i : Nat) : Nat :=
  match v.t with | some r => r.get k (if r.count = 1 then 0 else i) | none => v.y.toNat % 2 ^ v.xElem.width

/-- Regions that the command reads; a region with fe = 1 among them is waited for (R77). -/
def reads (v : VCmd) : List Region :=
  v.s.toList ++ (match v.op with | .topk _ => [] | _ => v.t.toList) ++
    (match v.op with | .fma _ => [v.d] | .sel => [v.d] | .maskw => [v.d] | _ => [])

end VCmd

/-! ### Real floating forms (R206, R207, R210 to R213) -/

/-- Round a value with its flags to an F-class format. -/
def Elem.finish (x : Elem) (rm : Rm) (v : Num × Flags) : Nat × Flags :=
  match x with
  | .float f => f.finish rm v
  | _ => (0, 0)

/-- Part `k` of a CF32 element: 0 real, 1 imaginary. -/
def cpart (n k : Nat) : Num := fp32.decode (n / 2 ^ (32 * k) % 2 ^ 32)

/-- A CF32 element from its two rounded parts. -/
def cjoin (re im : Nat × Flags) : Nat × Flags := (re.1 + im.1 * 2 ^ 32, re.2 ||| im.2)

/-- A two-operand arithmetic form on an element of the F or C class. -/
def VCmd.arith (v : VCmd) (f : Num → Num → Num × Flags) (x y : Nat) : Nat × Flags :=
  if v.xElem.cls = .C then
    cjoin (fp32.finish v.rm (f (cpart x 0) (cpart y 0))) (fp32.finish v.rm (f (cpart x 1) (cpart y 1)))
  else v.d.elem.finish v.rm (f (v.xElem.value x) (v.yElem.value y))

/-- min(max(x, lo), hi) in the F class. -/
def clampNum (x lo hi : Num) : Num := if x.isNan then x else (x.max lo).min hi

/-- The condition of VCMP on exact values. -/
def Cond.holdsNum (c : Cond) (x y : Num) : Bool :=
  if x.isNan || y.isNan then c == .ne
  else
    let o := x.cmp y
    match c with
    | .eq => o == 0 | .ne => o != 0
    | .lt => decide (o < 0) | .le => decide (o ≤ 0) | .gt => decide (0 < o) | .ge => decide (0 ≤ o)
    | .ltu => decide (o < 0) | .leu => decide (o ≤ 0) | .gtu => decide (0 < o) | .geu => decide (0 ≤ o)

/-- NV of VCMP. -/
def Cond.flags (c : Cond) (x y : Num) : Flags :=
  if c == .eq || c == .ne then flagSignalling x y else flagAnyNan x y

/-- VCVT·s of one element (R210). -/
def quantise (d : Elem) (rm : Rm) (sat : Bool) (x t : Num) : Nat × Flags :=
  let v := if t.isZero || t.isInf || t.isNan then (Num.nan false, flagNV) else divExact x t
  let r := d.round rm sat v.1
  (r.1, r.2 ||| v.2)

/-! ### Integer forms (R207, R208) -/

/-- An exact I-class value: an integer, in units of 2^-16 for Q16.16. -/
abbrev IVal := Int × Bool

def Elem.ival (x : Elem) (n : Nat) : IVal := (x.rawInt n, x == .q16)

def IVal.lt (a b : IVal) : Bool := decide (a.1 * (if a.2 then 1 else 65536) < b.1 * (if b.2 then 1 else 65536))

def IVal.max (a b : IVal) : IVal := if IVal.lt a b then b else a
def IVal.min (a b : IVal) : IVal := if IVal.lt b a then b else a

/-- D keeps the low bits of a result, as a raw pattern whichever of the formats is Q16.16 (R207, R208, R212). -/
def Elem.low (x : Elem) (v : Int) : Nat := lowBits x.width v

/-- An element that is moved (R216, R255): converted with RNE where the formats differ, bit for bit where they do not. -/
def moveElem (src dst : Elem) (n : Nat) : Nat × Flags := if src = dst then (n, 0) else convertElem src dst rne false n

/-- A bitwise form on the operands extended to 64 bits. -/
def onWords (f : Word → Word → Word) (x y : Int) : Int := ((f (BitVec.ofInt 64 x) (BitVec.ofInt 64 y)).toNat : Int)

/-- An integer form of R208 on raw operands, written to D. -/
def VCmd.integer (v : VCmd) (f : Int → Int → Int) (x y : Nat) : Nat × Flags :=
  (lowBits v.d.elem.width (f (v.xElem.rawInt x) (v.yElem.rawInt y)), 0)

/-- The range of an I-class format as a raw pattern. -/
def Elem.rawRange (x : Elem) : Int × Int :=
  match x with
  | .int w s => (intMin w s, intMax w s)
  | _ => (intMin 32 true, intMax 32 true)

/-- A shift count (R208). -/
def shiftCount (y : Int) : Nat := (y % 64).toNat

/-! ### Complex forms (R218 to R220) -/

/-- An exact sum of products with signs, and NV where it is invalid (R201). -/
def sumFlagged (xs : List (Num × Flags)) : Num × Flags :=
  let vs := xs.map (·.1)
  (sumNum vs, xs.foldl (fun f x => f ||| x.2) (flagIf (vs.any (· == .inf true) && vs.any (· == .inf false)) flagNV)
    ||| flagIf (vs.any Num.signalling) flagNV)

def negF (x : Num × Flags) : Num × Flags := (x.1.neg, x.2)

/-- Imaginary part of T's element, conjugated under .cj. -/
def wIm (cj : Bool) (w : Nat) : Num := if cj then (cpart w 1).neg else cpart w 1

def complexMul (cj : Bool) (rm : Rm) (x w : Nat) : Nat × Flags :=
  let xr := cpart x 0
  let xi := cpart x 1
  let wr := cpart w 0
  let wi := wIm cj w
  cjoin (fp32.finish rm (sumFlagged [mulExact xr wr, negF (mulExact xi wi)]))
    (fp32.finish rm (sumFlagged [mulExact xr wi, mulExact xi wr]))

/-- One half of a butterfly: a + w b, or a - w b. -/
def butterfly (cj minus : Bool) (a b w : Nat) : Nat × Flags :=
  let br := cpart b 0
  let bi := cpart b 1
  let wr := cpart w 0
  let wi := wIm cj w
  let sg (x : Num × Flags) : Num × Flags := if minus then negF x else x
  cjoin (fp32.finish rne (sumFlagged [(cpart a 0, 0), sg (mulExact wr br), sg (negF (mulExact wi bi))]))
    (fp32.finish rne (sumFlagged [(cpart a 1, 0), sg (mulExact wr bi), sg (mulExact wi br)]))

/-- A twiddle factor (R220). -/
def twiddle (l k : Nat) : Nat :=
  let t := turn l k
  let im := if t.2.isZero then t.2 else t.2.neg
  (fp32.convert rne false t.1).1 + (fp32.convert rne false im).1 * 2 ^ 32

/-! ### Elements (R196) -/

/-- Element `i` of an element-wise form, from the elements of S, T and D. -/
def VCmd.elem (v : VCmd) (i x y d : Nat) : Nat × Flags :=
  let xv := v.xElem.value x
  let yv := v.yElem.value y
  let isF := v.xElem.cls == .F
  let pick (f : Num → Num → Num) (g : IVal → IVal → IVal) : Nat × Flags :=
    if isF then v.d.elem.finish rne (f xv yv, flagSignalling xv yv) else (v.d.elem.low (g (v.xElem.ival x) (v.yElem.ival y)).1, 0)
  let one (f : Num → Num) (g : Int → Int) : Nat × Flags :=
    if isF then v.d.elem.finish rne (f xv, 0) else (v.d.elem.low (g (v.xElem.rawInt x)), 0)
  match v.op with
  | .add => v.arith (addExact v.rm) x y
  | .sub => v.arith (fun a b => addExact v.rm a b.neg) x y
  | .mul => v.arith mulExact x y
  | .fma n => v.d.elem.finish v.rm (fmaExact v.rm (if n then xv.neg else xv) yv (v.d.elem.value d))
  | .max => pick Num.max IVal.max
  | .min => pick Num.min IVal.min
  | .abs => one Num.abs fun i => i.natAbs
  | .neg => one Num.neg fun i => -i
  | .clampS =>
    let lo := v.y.toNat % 2 ^ 32
    let hi := v.y.toNat / 2 ^ 32
    if isF then v.d.elem.finish rne (clampNum xv (fp32.decode lo) (fp32.decode hi), 0)
    else
      let b (n : Nat) : IVal := match v.xElem with
        | .int _ false => ((n : Int), false)
        | e => (signedOf 32 n, e == .q16)
      (v.d.elem.low (IVal.min (IVal.max (v.xElem.ival x) (b lo)) (b hi)).1, 0)
  | .clampV =>
    if isF then v.d.elem.finish rne (clampNum xv yv.abs.neg yv.abs, 0)
    else
      let m := v.yElem.ival y
      (v.d.elem.low (IVal.min (IVal.max (v.xElem.ival x) (-(m.1.natAbs : Int), m.2)) ((m.1.natAbs : Int), m.2)).1, 0)
  | .cvt => convertElem v.xElem v.d.elem v.rm v.sat x
  | .cvtS => quantise v.d.elem v.rm v.sat xv yv
  | .exp b => v.d.elem.finish rne (vexpExact b xv)
  | .rcp => v.d.elem.finish rne (vrcpExact xv)
  | .rsq => v.d.elem.finish rne (vrsqExact xv)
  | .sel => if y = 0 then (d, 0) else convertElem v.xElem v.d.elem rne false x
  | .cmp c => (if c.holdsNum xv yv then 1 else 0, if isF then c.flags xv yv else 0)
  | .iota =>
    let n : Int := v.x.toInt + (i : Int) * v.y.toInt
    if v.d.elem.cls = .F then v.d.elem.finish rne (Num.ofInt n, 0) else (lowBits v.d.elem.width n, 0)
  | .fill => (v.x.toNat % 2 ^ v.d.elem.width, 0)
  | .twid => (twiddle (bits v.y 0 5) (v.x.toNat % 2 ^ 32 + i * (v.x.toNat / 2 ^ 32)), 0)
  | .cmul cj => complexMul cj v.rm x y
  | .iadd sat => v.integer (fun a b => if sat then clampTo v.d.elem.rawRange.1 v.d.elem.rawRange.2 (a + b) else a + b) x y
  | .imul => v.integer (· * ·) x y
  | .band => v.integer (onWords (· &&& ·)) x y
  | .bor => v.integer (onWords (· ||| ·)) x y
  | .bxor => v.integer (onWords (· ^^^ ·)) x y
  | .shl => v.integer (fun a b => a * ((2 ^ shiftCount b : Nat) : Int)) x y
  | .shr => v.integer (fun _ b => ((x % 2 ^ v.xElem.width / 2 ^ shiftCount b : Nat) : Int)) x y
  | .sar => v.integer (fun a b => a / ((2 ^ shiftCount b : Nat) : Int)) x y
  | .maskw =>
    let p := v.y.toNat % 2 ^ 32 + i
    if v.x.toNat % 2 ^ 32 ≤ p ∧ p ≤ v.x.toNat / 2 ^ 32 then (d, 0)
    else if v.d.elem.cls = .F then ((v.d.elem.finish rne (.inf true, 0)).1, 0)
    else (lowBits v.d.elem.width v.d.elem.rawRange.1, 0)
  | .sumF => (0, 0) | .sumI => (0, 0) | .rmax => (0, 0) | .topk _ => (0, 0) | .gath => (0, 0) | .scat => (0, 0) | .bfly _ => (0, 0)
  | .flg _ => (0, 0)

/-! ### Whole commands -/

/-- One write of a command: the region, the element, its value, the lane and its flags. -/
structure VWrite where
  r : Region
  i : Nat
  v : Nat
  lane : Nat
  f : Flags
  deriving DecidableEq, Repr

/-- Reduction by VRMAX (R212): the greatest element that is a number. -/
def VCmd.greatest (v : VCmd) (xs : List Nat) : Option Nat :=
  xs.foldl (fun b x =>
    if (v.xElem.value x).isNan then b
    else match b with
      | none => some x
      | some m => if (v.xElem.value m).below (v.xElem.value x) then some x else b) none

/-- Element `i` ranks above element `j` (R215). -/
def ranksAbove (lowest : Bool) (a b : Nat × Num) : Bool :=
  match a.2.isNan, b.2.isNan with
  | true, true => decide (a.1 < b.1)
  | true, false => false
  | false, true => true
  | false, false =>
    let above := if lowest then a.2.below b.2 else b.2.below a.2
    let under := if lowest then b.2.below a.2 else a.2.below b.2
    above || (!under && decide (a.1 < b.1))

/-- Insert an element into a ranked list. -/
def insertRank (lowest : Bool) (a : Nat × Num) : List (Nat × Num) → List (Nat × Num)
  | [] => [a]
  | b :: r => if ranksAbove lowest a b then a :: b :: r else b :: insertRank lowest a r

/-- Indices of the `k` highest-ranked values, from the top rank down. -/
def topRanks (lowest : Bool) (k : Nat) (vs : List Num) : List Nat :=
  (((List.range vs.length).zip vs).foldl (fun l a => (insertRank lowest a l).take k) []).map (·.1)

/-- What a command writes, in order; none where an index of VGATH or VSCAT is out of range (R216). Every element is read before the first is
written, T of a VCMUL too (log entry 93). -/
def VCmd.calc (v : VCmd) (k : Core) (c : Ctx) : Option (List VWrite) :=
  let n := v.d.count
  let xs : List Nat := match v.s with | none => [] | some r => (List.range r.count).map (r.get k)
  let each (f : Nat → Nat × Flags) : Option (List VWrite) :=
    some ((List.range n).map fun i => let r := f i; ⟨v.d, i, r.1, i, r.2⟩)
  let index (i : Nat) : Int := v.yElem.rawInt (v.yAt k i)
  let inRange (m lim : Nat) : Bool := (List.range m).all fun i => decide (0 ≤ index i ∧ index i < (lim : Int))
  match v.op with
  | .sumF =>
    let r := v.d.elem.finish rne (sumFlagged (xs.map fun x => (v.xElem.value x, 0)))
    some [⟨v.d, 0, r.1, 0, r.2⟩]
  | .sumI => some [⟨v.d, 0, v.d.elem.low (xs.foldl (fun a x => a + v.xElem.rawInt x) 0), 0, 0⟩]
  | .rmax =>
    let nv := flagIf (xs.any fun x => (v.xElem.value x).signalling) flagNV
    let r := match v.greatest xs with
      | none => v.d.elem.finish rne (.nan false, 0)
      | some x => convertElem v.xElem v.d.elem rne false x
    some [⟨v.d, 0, r.1, 0, r.2 ||| nv⟩]
  | .topk lowest =>
    let is := topRanks lowest n (xs.map v.xElem.value)
    let at_ (j : Nat) : Nat := is.getD j 0
    some (((List.range n).map fun j => ⟨v.d, j, at_ j, 0, 0⟩) ++
      (match v.t with | none => [] | some r => (List.range n).map fun j => ⟨r, j, xs.getD (at_ j) 0, 0, 0⟩))
  | .gath =>
    if inRange n xs.length then each fun i => moveElem v.xElem v.d.elem (xs.getD (index i).toNat 0) else none
  | .scat =>
    if inRange xs.length n then
      some ((List.range xs.length).map fun i =>
        let r := moveElem v.xElem v.d.elem (xs.getD i 0)
        ⟨v.d, (index i).toNat, r.1, i, r.2⟩)
    else none
  | .bfly cj =>
    let m := n / 2
    each fun i =>
      if i < m then butterfly cj false (xs.getD i 0) (xs.getD (i + m) 0) (v.yAt k i)
      else butterfly cj true (xs.getD (i - m) 0) (xs.getD i 0) (v.yAt k (i - m))
  | .flg _ => each fun i => ((c.vflags.get 0 i).toNat, 0)
  | .cvtS =>
    each fun i => v.elem i (xs.getD i 0) (match v.t with | some r => r.get k (i / 128) | none => 0) 0
  | _ => each fun i => v.elem i (xs.getD i 0) (v.yAt k i) (v.d.get k i)

/-- Carry out writes in order, elements ascending (log entry 92), until one meets a tagged word (R54); the flags of the elements written go to their lanes (R29). The
result is the state, the elements written, and the element that could not be. -/
def applyWrites (core x : Nat) (quiet : Bool) : List VWrite → Nat → State → State × Nat × Option VWrite
  | [], n, s => (s, n, none)
  | w :: r, n, s =>
    if w.r.tagged (s.core core) w.i then (s, n, some w)
    else
      let s := s.modCore core fun k => w.r.put k w.i w.v
      applyWrites core x quiet r (n + 1) (s.modCtx core x fun c => c.raiseLanes quiet [(w.lane, w.f)])

/-! ### The forms -/

def execVaddVv (g : BitVec 4) (d s t : BitVec 5) (rm : BitVec 2) (quiet : Bool) (st : State) : Out :=
  vectorForm g (.add) rm false quiet d s t true true st
def execVaddVs (g : BitVec 4) (d s t : BitVec 5) (rm : BitVec 2) (quiet : Bool) (st : State) : Out :=
  vectorForm g (.add) rm false quiet d s t true false st
def execVsubVv (g : BitVec 4) (d s t : BitVec 5) (rm : BitVec 2) (quiet : Bool) (st : State) : Out :=
  vectorForm g (.sub) rm false quiet d s t true true st
def execVsubVs (g : BitVec 4) (d s t : BitVec 5) (rm : BitVec 2) (quiet : Bool) (st : State) : Out :=
  vectorForm g (.sub) rm false quiet d s t true false st
def execVmulVv (g : BitVec 4) (d s t : BitVec 5) (rm : BitVec 2) (quiet : Bool) (st : State) : Out :=
  vectorForm g (.mul) rm false quiet d s t true true st
def execVmulVs (g : BitVec 4) (d s t : BitVec 5) (rm : BitVec 2) (quiet : Bool) (st : State) : Out :=
  vectorForm g (.mul) rm false quiet d s t true false st
def execVfmaVv (g : BitVec 4) (d s t : BitVec 5) (rm : BitVec 2) (quiet : Bool) (st : State) : Out :=
  vectorForm g (.fma false) rm false quiet d s t true true st
def execVfmaVs (g : BitVec 4) (d s t : BitVec 5) (rm : BitVec 2) (quiet : Bool) (st : State) : Out :=
  vectorForm g (.fma false) rm false quiet d s t true false st
def execVfmaVn (g : BitVec 4) (d s t : BitVec 5) (rm : BitVec 2) (quiet : Bool) (st : State) : Out :=
  vectorForm g (.fma true) rm false quiet d s t true true st
def execVmaxVv (g : BitVec 4) (d s t : BitVec 5) (quiet : Bool) (st : State) : Out :=
  vectorForm g (.max) rne false quiet d s t true true st
def execVmaxVs (g : BitVec 4) (d s t : BitVec 5) (quiet : Bool) (st : State) : Out :=
  vectorForm g (.max) rne false quiet d s t true false st
def execVminVv (g : BitVec 4) (d s t : BitVec 5) (quiet : Bool) (st : State) : Out :=
  vectorForm g (.min) rne false quiet d s t true true st
def execVminVs (g : BitVec 4) (d s t : BitVec 5) (quiet : Bool) (st : State) : Out :=
  vectorForm g (.min) rne false quiet d s t true false st
def execVabs (g : BitVec 4) (d s : BitVec 5) (quiet : Bool) (st : State) : Out :=
  vectorForm g (.abs) rne false quiet d s 0 true false st
def execVneg (g : BitVec 4) (d s : BitVec 5) (quiet : Bool) (st : State) : Out :=
  vectorForm g (.neg) rne false quiet d s 0 true false st
def execVclmpVs (g : BitVec 4) (d s t : BitVec 5) (quiet : Bool) (st : State) : Out :=
  vectorForm g (.clampS) rne false quiet d s t true false st
def execVclmpVv (g : BitVec 4) (d s t : BitVec 5) (quiet : Bool) (st : State) : Out :=
  vectorForm g (.clampV) rne false quiet d s t true true st
def execVcvt (g : BitVec 4) (d s : BitVec 5) (rm : BitVec 2) (sat quiet : Bool) (st : State) : Out :=
  vectorForm g (.cvt) rm sat quiet d s 0 true false st
def execVcvtS (g : BitVec 4) (d s t : BitVec 5) (rm : BitVec 2) (sat quiet : Bool) (st : State) : Out :=
  vectorForm g (.cvtS) rm sat quiet d s t true true st
def execVexp (g : BitVec 4) (d s : BitVec 5) (quiet : Bool) (st : State) : Out :=
  vectorForm g (.exp false) rne false quiet d s 0 true false st
def execVexpB2 (g : BitVec 4) (d s : BitVec 5) (quiet : Bool) (st : State) : Out :=
  vectorForm g (.exp true) rne false quiet d s 0 true false st
def execVrcp (g : BitVec 4) (d s : BitVec 5) (quiet : Bool) (st : State) : Out :=
  vectorForm g (.rcp) rne false quiet d s 0 true false st
def execVrsq (g : BitVec 4) (d s : BitVec 5) (quiet : Bool) (st : State) : Out :=
  vectorForm g (.rsq) rne false quiet d s 0 true false st
def execVsumF (g : BitVec 4) (d s : BitVec 5) (quiet : Bool) (st : State) : Out :=
  vectorForm g (.sumF) rne false quiet d s 0 true false st
def execVsumI (g : BitVec 4) (d s : BitVec 5) (quiet : Bool) (st : State) : Out :=
  vectorForm g (.sumI) rne false quiet d s 0 true false st
def execVrmax (g : BitVec 4) (d s : BitVec 5) (quiet : Bool) (st : State) : Out :=
  vectorForm g (.rmax) rne false quiet d s 0 true false st
def execVsel (g : BitVec 4) (d s t : BitVec 5) (quiet : Bool) (st : State) : Out :=
  vectorForm g (.sel) rne false quiet d s t true true st
def execVcmpEqVv (g : BitVec 4) (d s t : BitVec 5) (quiet : Bool) (st : State) : Out :=
  vectorForm g (.cmp .eq) rne false quiet d s t true true st
def execVcmpEqVs (g : BitVec 4) (d s t : BitVec 5) (quiet : Bool) (st : State) : Out :=
  vectorForm g (.cmp .eq) rne false quiet d s t true false st
def execVcmpNeVv (g : BitVec 4) (d s t : BitVec 5) (quiet : Bool) (st : State) : Out :=
  vectorForm g (.cmp .ne) rne false quiet d s t true true st
def execVcmpNeVs (g : BitVec 4) (d s t : BitVec 5) (quiet : Bool) (st : State) : Out :=
  vectorForm g (.cmp .ne) rne false quiet d s t true false st
def execVcmpLtVv (g : BitVec 4) (d s t : BitVec 5) (quiet : Bool) (st : State) : Out :=
  vectorForm g (.cmp .lt) rne false quiet d s t true true st
def execVcmpLtVs (g : BitVec 4) (d s t : BitVec 5) (quiet : Bool) (st : State) : Out :=
  vectorForm g (.cmp .lt) rne false quiet d s t true false st
def execVcmpLeVv (g : BitVec 4) (d s t : BitVec 5) (quiet : Bool) (st : State) : Out :=
  vectorForm g (.cmp .le) rne false quiet d s t true true st
def execVcmpLeVs (g : BitVec 4) (d s t : BitVec 5) (quiet : Bool) (st : State) : Out :=
  vectorForm g (.cmp .le) rne false quiet d s t true false st
def execVcmpGtVv (g : BitVec 4) (d s t : BitVec 5) (quiet : Bool) (st : State) : Out :=
  vectorForm g (.cmp .gt) rne false quiet d s t true true st
def execVcmpGtVs (g : BitVec 4) (d s t : BitVec 5) (quiet : Bool) (st : State) : Out :=
  vectorForm g (.cmp .gt) rne false quiet d s t true false st
def execVcmpGeVv (g : BitVec 4) (d s t : BitVec 5) (quiet : Bool) (st : State) : Out :=
  vectorForm g (.cmp .ge) rne false quiet d s t true true st
def execVcmpGeVs (g : BitVec 4) (d s t : BitVec 5) (quiet : Bool) (st : State) : Out :=
  vectorForm g (.cmp .ge) rne false quiet d s t true false st
def execVtopkMax (g : BitVec 4) (d s t : BitVec 5) (quiet : Bool) (st : State) : Out :=
  vectorForm g (.topk false) rne false quiet d s t true (t != 0) st
def execVtopkMin (g : BitVec 4) (d s t : BitVec 5) (quiet : Bool) (st : State) : Out :=
  vectorForm g (.topk true) rne false quiet d s t true (t != 0) st
def execVgath (g : BitVec 4) (d s t : BitVec 5) (quiet : Bool) (st : State) : Out :=
  vectorForm g (.gath) rne false quiet d s t true true st
def execVscat (g : BitVec 4) (d s t : BitVec 5) (quiet : Bool) (st : State) : Out :=
  vectorForm g (.scat) rne false quiet d s t true true st
def execViota (g : BitVec 4) (d s t : BitVec 5) (quiet : Bool) (st : State) : Out :=
  vectorForm g (.iota) rne false quiet d s t false false st
def execVfill (g : BitVec 4) (d s : BitVec 5) (quiet : Bool) (st : State) : Out :=
  vectorForm g (.fill) rne false quiet d s 0 false false st
def execVbfly (g : BitVec 4) (d s t : BitVec 5) (quiet : Bool) (st : State) : Out :=
  vectorForm g (.bfly false) rne false quiet d s t true true st
def execVbflyCj (g : BitVec 4) (d s t : BitVec 5) (quiet : Bool) (st : State) : Out :=
  vectorForm g (.bfly true) rne false quiet d s t true true st
def execVtwid (g : BitVec 4) (d s t : BitVec 5) (quiet : Bool) (st : State) : Out :=
  vectorForm g (.twid) rne false quiet d s t false false st
def execVcmul (g : BitVec 4) (d s t : BitVec 5) (rm : BitVec 2) (quiet : Bool) (st : State) : Out :=
  vectorForm g (.cmul false) rm false quiet d s t true true st
def execVcmulCj (g : BitVec 4) (d s t : BitVec 5) (rm : BitVec 2) (quiet : Bool) (st : State) : Out :=
  vectorForm g (.cmul true) rm false quiet d s t true true st
def execViaddVv (g : BitVec 4) (d s t : BitVec 5) (quiet : Bool) (st : State) : Out :=
  vectorForm g (.iadd false) rne false quiet d s t true true st
def execViaddVs (g : BitVec 4) (d s t : BitVec 5) (quiet : Bool) (st : State) : Out :=
  vectorForm g (.iadd false) rne false quiet d s t true false st
def execViaddVvSat (g : BitVec 4) (d s t : BitVec 5) (quiet : Bool) (st : State) : Out :=
  vectorForm g (.iadd true) rne false quiet d s t true true st
def execViaddVsSat (g : BitVec 4) (d s t : BitVec 5) (quiet : Bool) (st : State) : Out :=
  vectorForm g (.iadd true) rne false quiet d s t true false st
def execVimulVv (g : BitVec 4) (d s t : BitVec 5) (quiet : Bool) (st : State) : Out :=
  vectorForm g (.imul) rne false quiet d s t true true st
def execVimulVs (g : BitVec 4) (d s t : BitVec 5) (quiet : Bool) (st : State) : Out :=
  vectorForm g (.imul) rne false quiet d s t true false st
def execVandVv (g : BitVec 4) (d s t : BitVec 5) (quiet : Bool) (st : State) : Out :=
  vectorForm g (.band) rne false quiet d s t true true st
def execVandVs (g : BitVec 4) (d s t : BitVec 5) (quiet : Bool) (st : State) : Out :=
  vectorForm g (.band) rne false quiet d s t true false st
def execVorVv (g : BitVec 4) (d s t : BitVec 5) (quiet : Bool) (st : State) : Out :=
  vectorForm g (.bor) rne false quiet d s t true true st
def execVorVs (g : BitVec 4) (d s t : BitVec 5) (quiet : Bool) (st : State) : Out :=
  vectorForm g (.bor) rne false quiet d s t true false st
def execVxorVv (g : BitVec 4) (d s t : BitVec 5) (quiet : Bool) (st : State) : Out :=
  vectorForm g (.bxor) rne false quiet d s t true true st
def execVxorVs (g : BitVec 4) (d s t : BitVec 5) (quiet : Bool) (st : State) : Out :=
  vectorForm g (.bxor) rne false quiet d s t true false st
def execVshlVv (g : BitVec 4) (d s t : BitVec 5) (quiet : Bool) (st : State) : Out :=
  vectorForm g (.shl) rne false quiet d s t true true st
def execVshlVs (g : BitVec 4) (d s t : BitVec 5) (quiet : Bool) (st : State) : Out :=
  vectorForm g (.shl) rne false quiet d s t true false st
def execVshrVv (g : BitVec 4) (d s t : BitVec 5) (quiet : Bool) (st : State) : Out :=
  vectorForm g (.shr) rne false quiet d s t true true st
def execVshrVs (g : BitVec 4) (d s t : BitVec 5) (quiet : Bool) (st : State) : Out :=
  vectorForm g (.shr) rne false quiet d s t true false st
def execVshrArVv (g : BitVec 4) (d s t : BitVec 5) (quiet : Bool) (st : State) : Out :=
  vectorForm g (.sar) rne false quiet d s t true true st
def execVshrArVs (g : BitVec 4) (d s t : BitVec 5) (quiet : Bool) (st : State) : Out :=
  vectorForm g (.sar) rne false quiet d s t true false st
def execVflg (g : BitVec 4) (d : BitVec 5) (quiet : Bool) (st : State) : Out :=
  vectorForm g (.flg false) rne false quiet d 0 0 false false st
def execVflgClr (g : BitVec 4) (d : BitVec 5) (quiet : Bool) (st : State) : Out :=
  vectorForm g (.flg true) rne false quiet d 0 0 false false st
def execVmaskw (g : BitVec 4) (d s t : BitVec 5) (quiet : Bool) (st : State) : Out :=
  vectorForm g (.maskw) rne false quiet d s t false false st

end Sys2Proof.Machine
end

