-- ==== Sys2Proof/Machine/Group.lean ====
section
/-! DEFINITION. The group multiply (R202 to R204, R235 to R243): the agreement table, the local take, agreement, the blocks of the chain,
completion. -/

namespace Sys2Proof.Machine

/-! ### The agreement table (R236) -/

def State.entry (s : State) (gid seq : Nat) : Option Agree := s.agree.find? fun a => a.matches gid seq

def State.setEntry (s : State) (a : Agree) : State :=
  { s with agree := s.agree.map fun b => if b.matches a.gid a.seq = true then a else b }

def State.freeEntry (s : State) (gid seq : Nat) : State := { s with agree := s.agree.filter fun a => !a.matches gid seq }

def Agree.isAborted (a : Agree) : Bool := match a.state with | .aborted .. => true | _ => false

/-- Room for one more entry: the oldest ABORTED entry makes it where the table is full. -/
def State.roomEntry (s : State) : Option State :=
  if s.agree.length < Config.agreeEntries then some s
  else (s.agree.find? Agree.isAborted).map fun a => { s with agree := s.agree.erase a }

/-- The announcement of this package. -/
def Agree.own (a : Agree) : Option Ann := match a.localRank with | none => none | some r => a.anns.find? fun n => n.rank == r

/-- The announcement of a rank under a mask. -/
def Agree.annOf (a : Agree) (mask r : Nat) : Option Ann := a.anns.find? fun n => n.rank == r && n.mask == mask

/-- Announcements of every member are held. -/
def Agree.complete (a : Agree) (o : Ann) : Bool := (List.range (popcount8 o.mask)).all fun r => (a.annOf o.mask r).isSome

/-- M, N, K, pair and fn are the same in two announcements. -/
def Ann.same (a b : Ann) : Bool := a.m == b.m && a.n == b.n && a.k == b.k && a.fmts == b.fmts && a.fn == b.fn

def Agree.consistent (a : Agree) (o : Ann) : Bool := (List.range (popcount8 o.mask)).all fun r => (a.annOf o.mask r).any o.same

/-! ### Agreement (R236) -/

/-- The shape of the result (R203): layout 2, FP32 or s32, in near memory of a die. It is reserved unsealed, and open to no one. -/
def resultShape (die : Nat) (p : BitVec 16 × BitVec 16) (n : Ann) : Shape :=
  { opened := true, place := die, tier := 1, layout := 2, cols := BitVec.ofNat 14 (n.n - 1), rows := BitVec.ofNat 14 (n.m - 1)
    fword := if accumOf p.1 p.2 = some .integers then 0x0010 else 0x0001 }

/-- A member that holds every announcement compares them; the last rank reserves the result tile. -/
def State.agreeGmma (s : State) (gid seq : Nat) : State :=
  match s.entry gid seq with
  | none => s
  | some a =>
    match a.state, a.own, (s.gmmasOf gid seq).head? with
    | .gathering, some o, some (core, c, g) =>
      if !a.complete o then s
      else if !a.consistent o then s.abortGmma g 2 g.rank
      else if g.rank + 1 = g.size then
        (match s.allocate (dieOf core) (resultShape (dieOf core) (g.fmtA, g.fmtB) o) with
          | .ok (s, t) => (s.modDesc t fun d => { d with opened := false }).setEntry { a with state := .agreed, result := some t }
          | .error _ => s.engineFault core c .tileNospace 0)
      else s.setEntry { a with state := .agreed }
    | _, _, _ => s

/-! ### The local take (R236) -/

/-- What a member announces. -/
def gmmaAnn (g : Gmma) (o : Operands) : Ann :=
  { rank := g.rank, mask := g.mask, m := o.a.rows.toNat + 1, n := o.b.cols.toNat + 1, k := o.a.cols.toNat + 1
    fmts := g.fmtA.toNat + 65536 * g.fmtB.toNat, fn := if g.mc then 1 else 0 }

/-- The first member that cannot be reached. -/
def State.gmmaPeers (s : State) (mask : Nat) : Option Cause :=
  ((List.range 8).filter mask.testBit).findSome? fun m =>
    if s.peerAbsent (s.memberPeer m) then some .peerAbsent else if !s.peerAllowed (s.memberPeer m) then some .peerDenied else none

/-- The engine takes a command under its pair, and its first operands are requested. -/
def State.startMatrix (s : State) (core : Nat) (fmts : BitVec 16 × BitVec 16) (p : Product) : State :=
  s.modCore core fun k => { k with enginePair := some fmts, pins := (p.request 0 0 0).take Config.maxPins }

/-- The take is recorded and announced; without room in the table the command waits in the engine, its timer running. -/
def State.enterGmma (s : State) (core : Nat) (c : Cmd) (g : Gmma) (o : Operands) : State :=
  let n := gmmaAnn g o
  let g' := { g with takenAt := if c.running then g.takenAt else s.cycle }
  let s := s.startMatrix core (g.fmtA, g.fmtB) o.whole
  let entered (s : State) : State :=
    ((s.modCmd core c.serial fun c => { c with running := true, op := .gmma { g' with entered := true, blocks := blockCount n.m n.n } }).sendMembers
      g.mask (.announce n.rank g.gid g.seq n.mask n.m n.n n.k n.fmts n.fn)).agreeGmma g.gid g.seq
  match s.entry g.gid g.seq with
  | some a => entered (s.setEntry { a with anns := a.anns.filter (fun b => b.rank != n.rank) ++ [n], localRank := some g.rank })
  | none => match s.roomEntry with
    | some s => entered { s with agree := s.agree ++ [⟨g.gid, g.seq, [n], some g.rank, .gathering, [], 0, none, none⟩] }
    | none => s.modCmd core c.serial fun c => { c with running := true, op := .gmma g' }

/-- The take of a group multiply: an ABORTED entry completes it at once, a second take of its key is a disagreement, a member that cannot
be reached or an operand that does not fit is an engine fault. -/
def State.takeGmma (s : State) (core : Nat) (c : Cmd) (g : Gmma) : State :=
  let go : State :=
    match s.gmmaPeers g.mask with
    | some e => s.engineFault core c e 0
    | none =>
      match s.operands g.fmtA g.fmtB g.tileA g.tileB with
      | .error e => s.engineFault core c e 0
      | .ok o => s.enterGmma core c g o
  match s.entry g.gid g.seq with
  | none => go
  | some a =>
    match a.state with
    | .aborted cause rank => s.gmmaAborted core c g cause rank
    | _ => if a.localRank.isSome then (s.abortGmma g 2 g.rank).gmmaAborted core c g 2 g.rank else go

/-! ### The chain (R238, R239) -/

/-- One hop: an exact sum of two rounded once, or modulo 2^32. -/
def hop (acc : Accum) (x y : Nat) : Nat :=
  if acc = .integers then (x + y) % 2 ^ 32 else roundSum [fp32.decode x, fp32.decode y]

/-- The engine needs operands that have not come: it waits less than a cycle, or they are late and freeze the core. Which is not given (R87,
R343): a free value. -/
def State.mayFreeze (s : State) (core : Nat) : State :=
  let s' := if Config.freeBool s.freeUse then s.modCore core fun k => { k with frozen := some s.cycle } else s
  { s' with freeUse := s.freeUse + 1 }

/-- After an output block of the running matrix command: what it used is unpinned, and the next is waited for. -/
def State.blockDone (s : State) (core serial : Nat) (p : Product) : State :=
  match s.findCmd core serial with
  | none => s
  | some c =>
    let s := (s.modCmd core serial fun c => { c with progress := c.progress + 1, fetched := false, steps := 0, feWait := none }).modCore core
      fun k => { k with pins := (p.request (c.progress + 1) 0 c.panel).take Config.maxPins }
    if p.blocks ≤ c.progress + 1 then s else s.mayFreeze core

/-- The handle that a member receives (R203). -/
def Gmma.handle (g : Gmma) (t : BitVec 40) : Handle :=
  if g.mc then ⟨false, BitVec.ofNat 5 (31 - bits g.desc 51 2), t⟩ else freshHandle t

/-- A group multiply completes with DONE (R239, R242): its entry is freed. -/
def State.gmmaDone (s : State) (core : Nat) (c : Cmd) (g : Gmma) (t : BitVec 40) : State :=
  let s := (s.removeCmd core c.serial).modCtx core c.ctx fun x => { x with gstat := gstatWord 1 0 0 g.gid g.seq }
  let s := if g.mc ∨ g.rank + 1 = g.size then s.putH core c.ctx g.hx (some (g.handle t)) else s
  s.freeEntry g.gid g.seq

/-- The last rank writes a block into the result tile; after the last it seals the tile and completes. -/
def State.gmmaStore (s : State) (core : Nat) (c : Cmd) (g : Gmma) (p : Product) (t : BitVec 40) (es : List (Nat × Nat)) (blk : List Nat) : State :=
  let s := match s.desc t with
    | none => s
    | some d => (es.zip blk).foldl (fun (s : State) (e : (Nat × Nat) × Nat) => s.setTileElem d (e.1.1 * (d.cols.toNat + 1) + e.1.2) e.2) s
  let s := s.blockDone core c.serial p
  if c.progress + 1 < g.blocks then s
  else ((s.modDesc t fun d => { d with sealed := true, born := s.timeDom }).sendMembers g.mask (.done g.gid g.seq ⟨g.rank, t⟩)).gmmaDone core c g t

/-- A finished block goes on: into the result tile at the last rank, else to the next rank. -/
def State.passBlock (s : State) (core : Nat) (c : Cmd) (g : Gmma) (p : Product) (a : Agree) (es : List (Nat × Nat)) (blk : List Nat) : State :=
  match a.result with
  | some t => (s.setEntry a).gmmaStore core c g p t es blk
  | none =>
    ((s.setEntry { a with ahead := a.ahead + 1 }).send (s.memberPeer (memberOf g.mask (g.rank + 1)))
      (.chain g.gid g.seq ⟨g.rank, blk.map (BitVec.ofNat 64)⟩)).blockDone core c.serial p

/-- One block of a group multiply, once the members agree, the block of the rank before has come and the next rank has room for it (R235). A rank
that takes a block out of its buffer tells the rank before, by a CHAIN without a block (log entry 94). -/
def State.gmmaBlock (s : State) (core : Nat) (c : Cmd) (g : Gmma) (p : Product) : State :=
  match s.entry g.gid g.seq with
  | none => s
  | some a =>
    let es := blockElems p.rows p.cols c.progress
    let own := es.map fun e => s.output p.ops e.1 e.2 0
    if a.state ≠ .agreed ∨ g.blocks ≤ c.progress ∨ (g.rank + 1 < g.size ∧ Config.chainBuffer ≤ a.ahead) then s
    else if g.rank = 0 then s.passBlock core c g p a es own
    else match a.blocks with
      | [] => s
      | b :: r =>
        (s.send (s.memberPeer (memberOf g.mask (g.rank - 1))) (.chain g.gid g.seq ⟨g.rank, []⟩)).passBlock core c g p { a with blocks := r } es
          ((own.zip b).map fun e => hop p.ops.acc e.2.toNat e.1)

end Sys2Proof.Machine
end

