-- ==== Sys2Proof/Machine/EngineEvents.lean ====
section
/-! DEFINITION. Events of the engines: matrix (R66, R67, R87, R88, R199, R200, R231 to R234), vector and special-function unit (R29, R54, R77,
R192, R196, R205, R222), copy engine (R41, R53, R65, R68 to R72, R176, R177, R223 to R227). An event whose condition does not hold changes
nothing. -/

namespace Sys2Proof.Machine

/-! ### Waits for full granules (R77) -/

/-- The first empty granule that a region with fe = 1 meets over some of its elements. -/
def Region.firstEmpty (r : Region) (k : Core) (is : List Nat) : Option Nat :=
  if !r.fe then none
  else is.findSome? fun i => [r.pos i / 2, (r.pos i + r.elem.nibbles - 1) / 2].findSome? fun o =>
    if k.isFull o then none else some (o / 16)

def Region.firstEmptyAll (r : Region) (k : Core) : Option Nat := r.firstEmpty k (List.range r.count)

/-- The first empty granule that the reads of a command meet: of a gather those of S that its indices name, once they can be read. -/
def VCmd.firstEmpty (v : VCmd) (k : Core) : Option Nat :=
  match v.op with
  | .gath =>
    let named (r : Region) : List Nat := (List.range v.d.count).filterMap fun i =>
      let j := v.yElem.rawInt (v.yAt k i)
      if 0 ≤ j ∧ j < (r.count : Int) then some j.toNat else none
    (v.t.toList.findSome? fun r => r.firstEmptyAll k).or (v.s.toList.findSome? fun r => r.firstEmpty k (named r))
  | _ => v.reads.findSome? fun r => r.firstEmptyAll k

/-- A command waits for a granule; the wait began when it first found that granule empty. -/
def State.waitGranule (s : State) (core serial gran : Nat) : State :=
  s.modCmd core serial fun c => { c with feWait := match c.feWait with
    | some (t, g) => if g = gran then some (t, g) else some (s.cycle, gran)
    | none => some (s.cycle, gran) }

def execFeTimeoutEngine (core serial : Nat) (st : State) : Out :=
  .next (match st.findCmd core serial with
    | none => st
    | some c => match c.feWait with
      | none => st
      | some (t, g) =>
        if t + Config.watchdog ≤ st.cycle ∧ (st.core core).isFull (16 * g) = false ∧ (st.core core).awake = true then
          st.engineFault core c .feTimeout (BitVec.ofNat 64 (16 * g - c.win))
        else st)

/-- Window offset of an element of a region. -/
def Region.offset (r : Region) (i : Nat) : Word := BitVec.ofNat 64 (r.pos i / 2 - r.win)

/-! ### The matrix engine -/

/-- The matrix command that the engine runs. -/
def Core.matrixCmd (k : Core) : Option Cmd := k.cmds.find? fun c => c.engine == some .matrix && c.running

/-- The engine takes an MMA or MMAC whose operands pass R199. -/
def State.takeMma (s : State) (core : Nat) (c : Cmd) (p : BitVec 16 × BitVec 16) (ta tb : BitVec 40) (row0 col0 rows cols : Nat) : State :=
  match s.operands p.1 p.2 ta tb with
  | .error e => s.engineFault core c e 0
  | .ok o =>
    if o.windowOk row0 col0 rows cols then
      (s.startMatrix core p ⟨o, row0, col0, rows, cols⟩).modCmd core c.serial fun c => { c with running := true }
    else s.engineFault core c .tileShape 0

def execMatrixCommandTake (core : Nat) (st : State) : Out :=
  let k := st.core core
  .next (if !k.awake then st
    else match k.matrixCmd with
    | some c => (match c.op with | .gmma g => if g.entered then st else st.takeGmma core c g | _ => st)
    | none => match k.cmds.find? fun c => c.engine == some .matrix && k.eligible c with
      | none => st
      | some c => match c.op with
        | .mma _ fa fb ta tb _ row0 col0 rows cols => st.takeMma core c (fa, fb) ta tb row0 col0 rows cols
        | .gmma g => st.takeGmma core c g
        | _ => st)

/-- What the running matrix command multiplies: its operands as their descriptors stand now (R65; log entry 88), and the window. -/
def State.product (s : State) (c : Cmd) : Option Product :=
  match c.op with
  | .mma _ fa fb ta tb _ row0 col0 rows cols => (s.operands fa fb ta tb).toOption.map fun o => ⟨o, row0, col0, rows, cols⟩
  | .gmma g => (s.operands g.fmtA g.fmtB g.tileA g.tileB).toOption.map Operands.whole
  | _ => none

/-- The engine goes through the blocks of the command: at once, for a group multiply from its agreement on (R237). -/
def State.multiplies (s : State) (c : Cmd) : Bool :=
  match c.op with
  | .gmma g => (s.agree.find? fun a => a.matches g.gid g.seq).any fun a => a.state == .agreed
  | _ => true

/-- The fetch unit has no pins for all that the engine needs next (R67): it requests this alone, and the engine, which starves, freezes the core. It
waits without a freeze for the first panel of the command (R232). -/
def State.awaitPins (s : State) (core : Nat) (c : Cmd) (p : Product) : State :=
  let s := s.modCore core fun k => { k with pins := (p.request c.progress c.steps c.panel).take Config.maxPins }
  if p.early c.progress c.panel then s else s.modCore core fun k => { k with frozen := k.frozen.or (some s.cycle) }

/-- Operands arrive for the next positions of K (R66): a frozen core goes on; poison in a block that is read faults the command (R32, R67). What the
engine has used, and a panel in the stash, is unpinned, what it needs next is requested as far as there are pins (R67, R232; log entry 88). -/
def State.fetchStep (s : State) (core : Nat) (c : Cmd) (p : Product) : State :=
  let need := p.request c.progress c.steps c.panel
  if s.blocksPoisoned need then s.engineFault core c .memUncorr 0
  else if !need.all (s.core core).pins.contains then s.awaitPins core c p
  else
    let panel := p.panelAfter c.progress c.panel
    let late := p.awaitsPanel c.progress c.panel
    let upto := if late then c.steps else Nat.min (c.steps + Config.fetchStep) p.depth
    let all := !late && decide (p.depth ≤ upto)
    let next := if all then p.request (c.progress + 1) 0 panel else p.request c.progress upto panel
    let used := if late then [] else p.inUse c.progress c.steps
    let s := ((s.unfreeze core).modCmd core c.serial fun c => { c with steps := upto, fetched := all, panel := panel }).modCore core fun k =>
      { k with pins := (used ++ next).eraseDups.take Config.maxPins }
    if all || p.early c.progress panel then s else s.mayFreeze core

def execTileFetchBlockArrival (core : Nat) (st : State) : Out :=
  .next (match (st.core core).matrixCmd with
    | none => st
    | some c => match st.product c with
      | none => st
      | some p => if c.fetched = true ∨ p.blocks ≤ c.progress ∨ st.multiplies c = false then st else st.fetchStep core c p)

/-- A block of an MMA or MMAC: the accumulators are read first, full ones only where D asks for it; the results are written in order. -/
def State.mmaBlock (s : State) (core : Nat) (c : Cmd) (acc : Bool) (d : Region) (p : Product) : State :=
  let k := s.core core
  let es := blockElems p.rows p.cols c.progress
  let at_ (e : Nat × Nat) : Nat := e.1 * p.cols + e.2
  match (if acc then d.firstEmpty k (es.map at_) else none) with
  | some g => s.waitGranule core c.serial g
  | none =>
    let ws : List VWrite := es.map fun e =>
      ⟨d, at_ e, s.output p.ops (p.row0 + e.1) (p.col0 + e.2) (if acc then d.get k (at_ e) else 0), 0, 0⟩
    match applyWrites core c.ctx true ws 0 s with
    | (s, _, some w) => s.engineFault core c .handleClobber (w.r.offset w.i)
    | (s, _, none) =>
      let s := s.blockDone core c.serial p
      if p.blocks ≤ c.progress + 1 then s.removeCmd core c.serial else s

def execMatrixBlockComplete (core : Nat) (st : State) : Out :=
  .next (if !(st.core core).awake then st
    else match (st.core core).matrixCmd with
    | none => st
    | some c => if !c.fetched then st
      else match c.op, st.product c with
      | .mma acc _ _ _ _ d .., some p => st.mmaBlock core c acc d p
      | .gmma g, some p => st.gmmaBlock core c g p
      | _, _ => st)

/-- The freeze watchdog (R88). -/
def execFreezeTimeout (core : Nat) (st : State) : Out :=
  .next (match (st.core core).frozen, (st.core core).matrixCmd with
    | some t, some c => if t + Config.watchdog ≤ st.cycle then st.engineFault core c .freezeTimeout 0 else st
    | _, _ => st)

/-! ### The vector engine and the special-function unit -/

/-- VFLG, with or without .clr. -/
def Cmd.isVflg (c : Cmd) : Bool := match c.op with | .vec v => (match v.op with | .flg _ => true | _ => false) | _ => false

/-- VFLG starts after every earlier vector command of its context, and none of its later ones starts before it has read (R222). -/
def Core.flagOrder (k : Core) (c : Cmd) : Bool :=
  !k.cmds.any fun e => decide (e.serial < c.serial) && e.ctx == c.ctx && e.queue == some .vector && (c.isVflg || e.isVflg)

/-- A unit starts its oldest command that may start. -/
def State.startUnit (s : State) (core : Nat) (e : Engine) : State :=
  let k := s.core core
  if !k.awake || k.cmds.any (fun c => c.engine == some e && c.running) then s
  else match k.cmds.find? fun c => c.engine == some e && k.eligible c && k.flagOrder c with
  | none => s
  | some c => s.modCmd core c.serial fun c => { c with running := true }

/-- A vector command reads its sources, computes, and writes in order (R192, R196). VFLG.clr clears the lanes it has read whatever its quiet bit
(R29, R222; log entry 108). -/
def State.runVector (s : State) (core : Nat) (c : Cmd) (v : VCmd) : State :=
  let k := s.core core
  match v.firstEmpty k with
  | some g => s.waitGranule core c.serial g
  | none =>
    match v.calc k (k.ctx c.ctx) with
    | none => s.engineFault core c .indexRange 0
    | some ws =>
      let s := match v.op with
        | .flg true => s.modCtx core c.ctx fun x => { x with vflags := x.vflags.filter fun e => !decide (e.1 < v.d.count) }
        | _ => s
      match applyWrites core c.ctx v.quiet ws 0 s with
      | (s, n, some w) => s.engineFault core { c with progress := n } .handleClobber (w.r.offset w.i)
      | (s, _, none) => s.removeCmd core c.serial

/-- A unit completes its running command. -/
def State.completeUnit (s : State) (core : Nat) (e : Engine) : State :=
  if !(s.core core).awake then s
  else match (s.core core).cmds.find? fun c => c.engine == some e && c.running with
  | none => s
  | some c => match c.op with | .vec v => s.runVector core c v | _ => s

def execVectorCommandStart (core : Nat) (st : State) : Out := .next (st.startUnit core .vector)
def execVectorCommandComplete (core : Nat) (st : State) : Out := .next (st.completeUnit core .vector)
def execSfuCommandStart (core : Nat) (st : State) : Out := .next (st.startUnit core .sfu)
def execSfuCommandComplete (core : Nat) (st : State) : Out := .next (st.completeUnit core .sfu)

/-! ### Copy commands start (R65, R68, R69, R225) -/

/-- The copy command of a context that is next to start, if it may. A move waits for an earlier move of its tile to end. -/
def State.nextCopy (s : State) (core x : Nat) : Option Cmd :=
  let k := s.core core
  match k.cmds.find? fun c => c.ctx == x && c.engine == some .copy && !c.running && !c.wasCut with
  | none => none
  | some c =>
    let moving := match c.op with | .move t .. => (s.desc t).any Desc.moving | _ => false
    if k.eligible c && !moving then some c else none

/-- The tile that a copy reads passes R224. A tile homed elsewhere is checked there. -/
def State.copySourceFault (s : State) (k : CopyCmd) : Option Cause :=
  match k.src with
  | .tile t off =>
    if !s.isHome t then none
    else match s.desc t with
    | none => some .tileIndex
    | some d => if d.opened || !d.sealed then some .tileOpen else if d.bytes < off + k.len then some .tileIndex else none
  | _ => none

/-- A copy starts: a new tile is allocated on the die of its slice. -/
def State.startCopy (s : State) (core : Nat) (c : Cmd) (k : CopyCmd) : State :=
  match s.copySourceFault k with
  | some e => s.engineFault core c e 0
  | none => match k.dst with
    | .newTile w h none =>
      let sh := Shape.ofWord w
      (match s.allocate (sh.place / 32) sh with
        | .error e => s.engineFault core c e 0
        | .ok (s, t) => s.modCmd core c.serial fun c => { c with running := true, op := .copy { k with dst := .newTile w h (some t) } })
    | _ => s.modCmd core c.serial fun c => { c with running := true }

/-- A move starts (R65): its target takes the blocks and M is set. An open tile is refused wherever it lies (log entry 110). -/
def State.startMove (s : State) (core : Nat) (c : Cmd) (t : BitVec 40) (w : Word) : State :=
  match s.desc t with
  | none => s.removeCmd core c.serial
  | some d =>
    let tier := bits w 0 2
    let place := bits w 2 7
    if d.opened then s.engineFault core c .tileOpen 0
    else if placeOf d.storage.toNat = (place, tier) then s.removeCmd core c.serial
    else match s.findRun (heapRange tier place) d.bytes with
    | none => s.engineFault core c (if tier = 2 then .sliceFull else .tileNospace) 0
    | some base =>
      let run (o : CmdOp) : CmdOp := match o with | .move t w dl i m _ => .move t w dl i m (some (base, base + d.bytes)) | o => o
      let s := s.modCmd core c.serial fun c => { c with running := true, op := run c.op }
      { s.modDesc t fun d => { d with moving := true } with freeUse := s.freeUse + 1 }

/-- The copy engine runs up to four commands, those that a marker has cut apart (R325); it takes them from the contexts in turn. -/
def execCopyCommandStart (core : Nat) (st : State) : Out :=
  let k := st.core core
  let busy := (k.cmds.filter fun c => c.engine == some .copy && c.running && !c.wasCut).length
  .next (if !k.awake || decide (4 ≤ busy) then st
    else match ([1, 2, 3, 4].map fun i => (k.copyTurn + i) % 4).findSome? (st.nextCopy core) with
    | none => st
    | some c =>
      let s := st.modCore core fun k => { k with copyTurn := c.ctx }
      match c.op with
      | .copy q => s.startCopy core c q
      | .move t w .. => s.startMove core c t w
      | _ => s.modCmd core c.serial fun c => { c with running := true })

/-! ### Chunks start (R40, R72) -/

/-- Bytes of the chunk that are not yet in a piece. -/
def CopyCmd.rest (k : CopyCmd) : Nat := Nat.min (k.len - k.started) (Config.chunk - k.started % Config.chunk)

/-- A translation made at the next byte: kept to the end of the chunk, or of the frame that has `room` bytes left (R40). -/
def CopyCmd.keep (k : CopyCmd) (room : Nat) (p : Place) (staged : Bool) : Kept := ⟨k.started, k.started + Nat.min k.rest room, p, staged⟩

/-- The translation that serves the next byte, if one is kept. -/
def CopyCmd.stillKept (k : CopyCmd) (t : Option Kept) : Option Kept := t.filter fun t => decide (t.first ≤ k.started ∧ k.started < t.upto)

/-- The place `n` bytes on. -/
def Place.plus (p : Place) (n : Nat) : Place :=
  match p with
  | .ls o => .ls (o + n)
  | .pa a => .pa (a + n)
  | .far q a => .far q (a + n)
  | .farTile t o => .farTile t (o + n)
  | .window => .window

/-- A virtual endpoint of a copy, translated at its next byte. -/
def State.copyVa (s : State) (core x : Nat) (k : CopyCmd) (a : Access) (va : Nat) : Except (Cause × Nat) (Kept × State) :=
  match s.translate core x a va with
  | .error e => .error (e, va)
  | .ok (t, f) =>
    let s := s.modCore core fun k => k.keepFrame f
    let room := 2 ^ 21 - va % 2 ^ 21
    if t.mode = .localWin then
      (if isHubSpace t.pa then .error (.pageClass, va) else .ok (k.keep room (.pa t.pa) false, s))
    else .ok (k.keep room (.far t.peer.toNat t.pa) (t.mode == .staged), s)

/-- Where the copy reads its next byte: by the translation that it keeps, else by a new one. A tile's storage is read as its descriptor names it
at the start of the chunk (R65; log entry 88). -/
def State.copyFrom (s : State) (core : Nat) (c : Cmd) (k : CopyCmd) : Except (Cause × Nat) (Kept × State) :=
  match k.stillKept k.srcKept, k.src with
  | some t, _ => .ok (t, s)
  | none, .ls o => .ok (k.keep k.rest (.ls (c.win + o + k.started)) false, s)
  | none, .va a => s.copyVa core c.ctx k .copyRead (a + k.started)
  | none, .tile t off =>
    match s.desc t with
    | some d => .ok (k.keep k.rest (.pa (d.storage.toNat + off + k.started)) false, s)
    | none => .ok (k.keep k.rest (.farTile t (off + k.started)) false, s)

/-- Where the copy writes its next byte. -/
def State.copyInto (s : State) (core : Nat) (c : Cmd) (k : CopyCmd) : Except (Cause × Nat) (Kept × State) :=
  match k.stillKept k.dstKept, k.dst with
  | some t, _ => .ok (t, s)
  | none, .ls o => .ok (k.keep k.rest (.ls (c.win + o + k.started)) false, s)
  | none, .va a => s.copyVa core c.ctx k .copyWrite (a + k.started)
  | none, .newTile _ _ t =>
    match t.bind s.desc with
    | some d => .ok (k.keep k.rest (.pa (d.storage.toNat + k.started)) false, s)
    | none => .ok (k.keep k.rest .window false, s)
  | none, .remote _ => .ok (k.keep k.rest .window false, s)

/-- The read that a piece sends to another package. -/
def State.askFar (s : State) (core : Nat) (c : Cmd) (k : CopyCmd) (src : Place) (staged : Bool) (len : Nat) : State :=
  match src with
  | .far p a =>
    s.deliver p (.remoteAccess s.peer.toNat core c.ctx (7 + if staged then 512 else 0) a 0 (BitVec.ofNat 64 len) c.pc (pieceNo c.serial k.started) [])
  | .farTile t o =>
    let stop := match k.src with | .tile _ off => Nat.min (off + k.len) (2 ^ 32 - 1) | _ => 0
    s.deliver (homePeer t)
      (.remoteAccess s.peer.toNat core c.ctx (7 + 256) o (t.setWidth 64) (BitVec.ofNat 64 (stop * 2 ^ 32 + len)) c.pc (pieceNo c.serial k.started) [])
  | _ => s

/-- A piece of a chunk starts, up to where one of its translations ends (R40). At most two are in progress (R72). A fault waits for the pieces
before it. -/
def State.startPiece (s : State) (core : Nat) (c : Cmd) (k : CopyCmd) : State :=
  if k.len ≤ k.started ∨ 2 ≤ k.inFlight.length ∨ (k.cut = true ∧ k.started % Config.chunk = 0) then s
  else
    match (do let a ← s.copyFrom core c k; let b ← a.2.copyInto core c k; pure (a.1, b)) with
    | .error (e, va) => if k.inFlight.isEmpty then s.engineFault core c e (BitVec.ofNat 64 va) else s
    | .ok (a, b, s') =>
      let src := a.place.plus (k.started - a.first)
      let dst := b.place.plus (k.started - b.first)
      let len := Nat.min a.upto b.upto - k.started
      let k' : CopyCmd := { k with
        started := k.started + len, inFlight := k.inFlight ++ [⟨k.started, len, src, dst, none, false⟩], srcKept := some a, dstKept := some b }
      (s'.modCmd core c.serial fun c => { c with op := .copy k' }).askFar core c k src a.staged len

def execCopyChunkStart (core serial : Nat) (st : State) : Out :=
  .next (match st.findCmd core serial with
    | none => st
    | some c => match c.op with
      | .copy k => if c.running && (st.core core).awake then st.startPiece core c k else st
      | _ => st)

/-! ### Chunks complete (R32, R54, R70, R71, R224) -/

/-- The first piece in progress is gone; its bytes have landed, those of `carry` apart, which wait to be written. After the last the command
completes (R193). -/
def State.pieceDone (s : State) (core : Nat) (c : Cmd) (k : CopyCmd) (q : Chunk) (carry : List Byte := []) : State :=
  let landed := k.landed + q.len
  if k.len ≤ landed then
    let s := s.removeCmd core c.serial
    match k.dst with
    | .newTile _ h (some t) => s.putH core c.ctx h (some (freshHandle t))
    | _ => s
  else
    let put (o : CmdOp) : CmdOp := match o with
      | .copy k => .copy { k with landed := landed, inFlight := k.inFlight.drop 1, carry := carry }
      | o => o
    s.modCmd core c.serial fun c => { c with op := put c.op, progress := landed / Config.chunk * Config.chunk }

/-- Change the first piece in progress. -/
def State.modPiece (s : State) (core serial : Nat) (f : Chunk → Chunk) : State :=
  let put (o : CmdOp) : CmdOp := match o with
    | .copy k => .copy { k with inFlight := (k.inFlight.take 1).map f ++ k.inFlight.drop 1 }
    | o => o
  s.modCmd core serial fun c => { c with op := put c.op }

/-- The bytes of a piece that another package has read have come. -/
def State.gotPiece (s : State) (core serial start : Nat) (bs : List (Byte × Bool)) : State :=
  let put (o : CmdOp) : CmdOp := match o with
    | .copy k => .copy { k with inFlight := k.inFlight.map fun q => if q.start = start then { q with got := some bs } else q }
    | o => o
  s.modCmd core serial fun c => { c with op := put c.op }

/-- Bytes with their marks as a message carries them: the bytes, then one byte for each mark. -/
def unmark (bs : List Byte) : List (Byte × Bool) :=
  let n := bs.length / 2
  (bs.take n).zip ((bs.drop n).map (· != 0))

/-- Source bytes that the command itself has written since it began: before or after is not given (R224), a free value for each. -/
def overlay (old : Tab (Byte × Bool)) (use start : Nat) (bs : List (Byte × Bool)) : List (Byte × Bool) :=
  if old.isEmpty then bs
  else ((List.range bs.length).zip bs).map fun e =>
    match old.look (start + e.1) with
    | some b => if Config.freeBool (use + e.1) then b else e.2
    | none => e.2

/-- What the first piece reads, with poison marks, and the state that leaves; none while it has not come or its homes cannot take its lines
(R263). -/
def State.pieceRead (s : State) (core : Nat) (k : CopyCmd) (q : Chunk) : Option (State × List (Byte × Bool)) :=
  match q.src with
  | .ls o => some (s, (List.range q.len).map fun i => ((s.core core).lsByte (o + i), false))
  | .pa a =>
    if s.rangeQuiet a q.len then
      let s := s.takeRange a q.len
      let bs := (s.readBytes a q.len).zip (s.marks a q.len)
      some (if k.old.isEmpty then s else { s with freeUse := s.freeUse + q.len }, overlay k.old s.freeUse q.start bs)
    else none
  | _ => q.got.map fun bs => (s, bs)

/-- Source bytes of a virtual range that a write of the piece is about to change and no piece has read yet. -/
def State.keepOld (s : State) (core : Nat) (c : Cmd) (k : CopyCmd) (q : Chunk) (pa : Nat) : State :=
  match k.src, k.dst with
  | .va a, .va b =>
    let unread := q.start + q.len
    let hits := (List.range q.len).filterMap fun i =>
      let v := b + q.start + i
      if a + unread ≤ v ∧ v < a + k.len ∧ (k.old.look (v - a)).isNone = true then
        some (v - a, (s.byte (pa + i), s.poison.get false ((pa + i) / 32))) else none
    if hits.isEmpty then s
    else
      let put (o : CmdOp) : CmdOp := match o with
        | .copy k => .copy { k with old := hits.foldl (fun t e => t.put e.1 e.2) k.old }
        | o => o
      s.modCmd core c.serial fun c => { c with op := put c.op }
  | _, _ => s

/-- The first byte of a range that lies in a tagged word. -/
def firstTagged (tag : Nat → Bool) (n : Nat) : Nat := ((List.range n).find? tag).getD 0

/-- The first line of a range whose shadow the pool refuses, as an offset in the range. -/
def State.firstFull (s : State) (pa n : Nat) : Nat :=
  match (linesOf pa n).find? fun l => (s.takeToWrite pa (128 * l + 1 - pa)).isNone with
  | none => 0
  | some l => 128 * l - pa

/-- The bytes of a piece, and its marks. -/
def plain (bs : List (Byte × Bool)) : List Byte := bs.map (·.1)
def marksIn (bs : List (Byte × Bool)) : List Bool := bs.map (·.2)

/-- A piece is written to memory of this package: on lines at rest, with shadows, carrying its marks. -/
def State.pieceToMem (s : State) (core : Nat) (c : Cmd) (k : CopyCmd) (q : Chunk) (pa : Nat) (bs : List (Byte × Bool)) : State :=
  if !s.writeQuiet pa q.len then s.askRefills (s.rangeRefills pa q.len)
  else if s.anyTag pa q.len then s.engineFault core c .handleClobber (k.dstAddr (q.start + firstTagged (fun i => s.tag (pa + i)) q.len))
  else match s.takeToWrite pa q.len with
  | none => s.engineFault core c .snapFull (k.dstAddr (q.start + s.firstFull pa q.len))
  | some s' => (((s'.keepOld core c k q pa).writeMarked pa (plain bs) (marksIn bs))).pieceDone core c k q

/-- A piece goes to the local store of the core: by whole granules, what is left of the last waits for its other bytes (R70). -/
def State.pieceToLs (s : State) (core : Nat) (c : Cmd) (k : CopyCmd) (q : Chunk) (o : Nat) (bs : List Byte) : State :=
  let all := k.carry ++ bs
  let n := all.length / 16 * 16
  let at_ := o - k.carry.length
  if (s.core core).lsAnyTag at_ n then
    s.engineFault core c .handleClobber (k.dstAddr (q.start - k.carry.length + firstTagged (fun i => (s.core core).lsTag (at_ + i)) n))
  else (s.modCore core fun m => (m.lsWriteBytes at_ (all.take n)).fillRange at_ n).pieceDone core c k q (all.drop n)

/-- A piece goes to another window: with the rest of its chunk, as one arrival (R294). -/
def State.pieceToWindow (s : State) (core : Nat) (c : Cmd) (k : CopyCmd) (q : Chunk) (w : Word) (bs : List Byte) : State :=
  let all := k.carry ++ bs
  let upto := q.start + q.len
  if upto < k.len ∧ upto % Config.chunk ≠ 0 then s.pieceDone core c k q all
  else
    (s.modPiece core c.serial fun q => { q with sent := true }).deliver (destPeer w)
      (.cpyrArrival s.peer.toNat core c.serial (destCore w) (destCtx w) ⟨destOffset w, k.len⟩ (destOffset w + upto - all.length) (destFlag w) all)

/-- A piece is written where it goes. -/
def State.pieceWrite (s : State) (core : Nat) (c : Cmd) (k : CopyCmd) (q : Chunk) (bs : List (Byte × Bool)) : State :=
  let bad : Option Nat := match q.dst with | .ls _ => (marksIn bs).idxOf? true | .window => (marksIn bs).idxOf? true | _ => none
  match bad with
  | some i => s.engineFault core c .memUncorr (k.srcAddr (q.start + i))
  | none =>
    match q.dst with
    | .ls o => s.pieceToLs core c k q o (plain bs)
    | .pa a => s.pieceToMem core c k q a bs
    | .far p a =>
      (s.modPiece core c.serial fun q => { q with sent := true }).deliver p
        (.remoteAccess s.peer.toNat core c.ctx 8 a 0 0 c.pc (pieceNo c.serial q.start) (plain bs ++ markBytes (marksIn bs)))
    | .farTile _ _ => s
    | .window => match k.dst with | .remote w => s.pieceToWindow core c k q w (plain bs) | _ => s

/-- The first piece in progress goes on: it is read and written here or sent on its way; one that is on its way waits. -/
def State.pieceGoes (s : State) (core : Nat) (c : Cmd) (k : CopyCmd) (q : Chunk) : State :=
  if q.sent then s else match s.pieceRead core k q with
  | none => s
  | some (s, bs) => s.pieceWrite core c k q bs

/-- An answer to a piece that has been sent to another package or window: the bytes that it reads, or that it is written there; one for a command
that is gone is counted. Or, by the number of the command alone, its first piece goes on. -/
def execCopyChunkComplete (core serial : Nat) (bytes : List Byte) (st : State) : Out :=
  let no := numberOf serial
  let answer : Bool := decide (serial % 2 ^ 33 ≠ 0)
  .next (if core = noCore then st.recordEnd serial false else match st.findCmd core no with
    | none => if answer then st.unstray core no else st
    | some c => match c.op with
      | .copy k =>
        if answer && !bytes.isEmpty then st.gotPiece core no (startOf serial) (unmark bytes)
        else if !(st.core core).awake then (if answer then st.post [.copyChunkComplete core serial bytes] else st)
        else (match k.inFlight with
          | [] => st
          | q :: _ => if answer then (if q.sent then st.pieceDone core c k q else st) else st.pieceGoes core c k q)
      | _ => st)

/-- The arrival of a CPYR is over at a core. -/
def Core.endArrival (k : Core) (peer src serial : Nat) : Core :=
  { k with arrivals := k.arrivals.filter fun a => !(a.peer == peer && a.core == src && a.serial == serial) }

/-- Bytes of a CPYR have arrived (R84): with the first it is entered, at the place that the core's next command would have; what has been written
no longer holds anything up. -/
def Core.arrive (k : Core) (peer src serial first upto : Nat) : Core :=
  let before := match k.arrivals.find? fun a => a.peer == peer && a.core == src && a.serial == serial with
    | some a => a.before
    | none => k.nextSerial
  let k := k.endArrival peer src serial
  if first < upto then { k with arrivals := k.arrivals ++ [⟨peer, src, serial, first, upto, before⟩] } else k

/-- A chunk of a CPYR reaches its window (R71, R226, R294): the whole range of the command, of `total` bytes from `base`, must lie in it. With the
last byte the flag counts. An arrival without bytes says that the rest of the command does not come. -/
def execCpyrArrival (peer src serial core ctx : Nat) (whole : CopyRange) (off q : Nat) (bytes : List Byte) (st : State) : Out :=
  let x := st.ctx core ctx
  let at_ := x.winBase + off
  let ended := st.modCore core fun k => k.endArrival peer src serial
  .next (if bytes.isEmpty then ended
    else if !st.openTo core ctx peer || decide (x.winLen < whole.base + whole.total) then ended.deliver peer (.copyDestRefusal src serial)
    else if (st.core core).lsAnyTag at_ bytes.length then
      ended.deliver peer (.remoteRefusal src 0 0 ⟨pieceNo serial 0 + 1, false, 0⟩ Cause.handleClobber.code.toNat)
    else
      let s := st.modCore core fun k => ((k.lsWriteBytes at_ bytes).fillRange at_ bytes.length).arrive peer src serial (at_ + bytes.length)
        (x.winBase + whole.base + whole.total)
      (if off + bytes.length = whole.base + whole.total then s.addFlag core ctx q 1 else s).deliver peer (.copyChunkComplete src (pieceNo serial 0) []))

/-- A refused arrival: the engine fault of its command; for one that is gone the answer is counted. -/
def execCopyDestRefusal (core serial : Nat) (st : State) : Out :=
  .next (match st.findCmd core serial with
    | none => st.unstray core serial
    | some c => (st.engineFault core c .copyDestDenied c.farVa).unstray core serial)

/-! ### Moves (R41, R65) -/

/-- The storage of a moved tile changes in one step at its home; the old blocks stay while a pin or a copy still reads them. -/
def State.switchStorage (s : State) (t : BitVec 40) (d : Desc) (base : Nat) : State :=
  let old := (d.storage.toNat, d.storage.toNat + d.bytes)
  let s := s.writeMarked base (s.readBytes old.1 d.bytes) (s.marks old.1 d.bytes)
  let s := s.setDesc t { d with storage := BitVec.ofNat 45 base, moving := false }
  { s with oldBlocks := s.oldBlocks ++ [old] }

def execTmoveStorageSwitch (core serial : Nat) (st : State) : Out :=
  .next (if !(st.core core).awake then st
    else match st.findCmd core serial with
    | none => st
    | some c => match c.op with
      | .move t _ _ _ migr (some (base, _)) =>
        if migr && !c.fetched then st
        else
          let s := match st.desc t with | none => st | some d => st.switchStorage t d base
          s.removeCmd core serial
      | _ => st)

/-- The last byte of a MIGR is readable at the target: a late arrival counts at the die of its core (R41). -/
def execMigrArrival (core serial : Nat) (st : State) : Out :=
  .next (if !(st.core core).awake then st
    else match st.findCmd core serial with
    | none => st
    | some c => match c.op with
      | .move _ _ deadline issued true (some _) =>
        if c.fetched then st
        else
          let s := st.modCmd core serial fun c => { c with fetched := true }
          if deadline ≠ 0 ∧ deadline < st.cycle - issued then
            let e := s.slips.get (0, 0) (dieOf core)
            { s with slips := s.slips.set (0, 0) (dieOf core) (BitVec.ofNat 8 core, min (e.2 + 1) (2 ^ 48 - 1)) }
          else s
      | _ => st)

/-! ### Tiles written by the copy engine (R53, R176, R177) -/

/-- Write the elements of a region into a tile from an element on, in row-major order. -/
def State.writeRegion (s : State) (core : Nat) (r : Region) (d : Desc) (n : Nat) : State :=
  (List.range r.count).foldl (fun s i => s.setTileElem d (n + i) (r.get (s.core core) i)) s

def execTsealRegionComplete (core serial : Nat) (st : State) : Out :=
  .next (if !(st.core core).awake then st
    else match st.findCmd core serial with
    | none => st
    | some c => match c.op with
      | .seal h hd r =>
        if !c.running then st
        else match r.firstEmptyAll (st.core core) with
        | some g => st.waitGranule core serial g
        | none =>
          let s := match st.desc hd.tile with | none => st | some d => st.writeRegion core r d 0
          let s := s.modDesc hd.tile fun d => { d with opened := false, sealed := true }
          ((s.modCtx core c.ctx fun x => x.closeTile hd.tile).removeCmd core serial).putH core c.ctx h (some hd)
      | _ => st)

/-- The copy of an update holds the value: the token is dropped (R53), once the drop queue has room. -/
def State.updateRead (s : State) (core : Nat) (c : Cmd) (tok : Handle) : State :=
  let put (o : CmdOp) : CmdOp := match o with | .update h t cp _ w => .update h t cp true w | o => o
  (s.modCmd core c.serial fun c => { c with op := put c.op }).modCtx core c.ctx fun x =>
    { x with drops := x.drops ++ [⟨tok.tile, tok.e, c.bundle, false⟩] }

/-- The copy of an update reads its source: storage of this package at once, of another across the fabric. -/
def execUpdateCopyComplete (core serial : Nat) (bytes : List Byte) (st : State) : Out :=
  let again (s : State) : State := if bytes.isEmpty then s else s.post [.updateCopyComplete core serial bytes]
  .next (match st.findCmd core serial with
    | none => st
    | some c => match c.op with
      | .update _ tok (some cp) false _ =>
        if !(st.core core).awake || (c.engine.isSome && !c.running) || !(st.ctx core c.ctx).dropRoom then again st
        else match st.desc cp.tile with
        | none => st
        | some d =>
          let base := d.storage.toNat
          if bytes.isEmpty then
            (match st.desc tok.tile with
              | some q =>
                let n := Nat.min d.bytes q.bytes
                (st.writeMarked base (st.readBytes q.storage.toNat n) (st.marks q.storage.toNat n)).updateRead core c tok
              | none =>
                if c.fetched then st
                else (st.modCmd core serial fun c => { c with fetched := true }).deliver (homePeer tok.tile)
                  (.remoteAccess st.peer.toNat core c.ctx (7 + 768) 0 (tok.tile.setWidth 64) (BitVec.ofNat 64 d.bytes) c.pc (pieceNo serial 0) []))
          else
            let bs := unmark bytes
            (st.writeMarked base (plain bs) (marksIn bs)).updateRead core c tok
      | _ => st)

/-- The write of an update: into the copy, or into the storage it reuses. -/
def execUpdateWriteComplete (core serial : Nat) (st : State) : Out :=
  .next (match st.findCmd core serial with
    | none => st
    | some c => match c.op with
      | .update h tok cp read w =>
        if !(st.core core).awake || (c.engine.isSome && !c.running) || (cp.isSome && !read) then st
        else
          let res := cp.getD tok
          let finish (s : State) : State := (s.removeCmd core serial).putH core c.ctx h (some res)
          (match w, st.desc res.tile with
            | .opened, _ => finish st
            | _, none => finish st
            | .elem n v, some d => finish (st.setTileElem d n v.toNat)
            | .region n r, some d => match r.firstEmptyAll (st.core core) with
              | some g => st.waitGranule core serial g
              | none => finish (st.writeRegion core r d n))
      | _ => st)

end Sys2Proof.Machine
end

