-- ==== Sys2Proof/Machine/GroupEvents.lean ====
section
/-! DEFINITION. Messages and timers of the group multiply (R235 to R243). -/

namespace Sys2Proof.Machine

/-- ANNOUNCE: recorded, in a new entry where none is held; a full table discards it. -/
def execAnnounce (rank gid seq mask m n k fmts fn : Nat) (st : State) : Out :=
  let ann : Ann := ⟨rank, mask, m, n, k, fmts, fn⟩
  .next (match st.entry gid seq with
    | some a =>
      if a.localRank = some rank then st
      else (st.setEntry { a with anns := a.anns.filter (fun b => !(b.rank == rank && b.mask == mask)) ++ [ann] }).agreeGmma gid seq
    | none =>
      if st.agree.length < Config.agreeEntries then
        { st with agree := st.agree ++ [⟨gid, seq, [ann], none, .gathering, [], 0, none, none⟩] }
      else st)

/-- The running group multiply that still waits for agreement. -/
def State.gathering (s : State) (core : Nat) : Option (Cmd × Gmma) :=
  match (s.core core).matrixCmd with
  | none => none
  | some c => match c.op with
    | .gmma g =>
      if g.entered then
        (match (s.entry g.gid g.seq).map Agree.state with | some .gathering => some (c, g) | _ => none)
      else some (c, g)
    | _ => none

/-- The agreement timer (R236, R237): the member aborts with cause TIMEOUT; one that found no room holds no entry. -/
def execGmmaAgreementTimeout (core : Nat) (st : State) : Out :=
  .next (match st.gathering core with
    | none => st
    | some (c, g) =>
      if g.takenAt + g.timeout ≤ st.cycle then
        (if g.entered then st.abortGmma g 1 g.rank
          else (st.sendMembers g.mask (.abort g.gid g.seq 1 g.rank g.rank)).gmmaAborted core c g 1 g.rank)
      else st)

/-- CHAIN: a block of the rank before, in the buffer of 16 (R235), which has room for it because its sender counts; or, without a block, the word of
the next rank that it has used one (log entry 94). An aborted multiply discards both. -/
def execChain (gid seq : Nat) (part : ChainPart) (st : State) : Out :=
  .next (match st.entry gid seq with
    | none => st
    | some a =>
      if a.isAborted then st
      else if part.block.isEmpty then (if a.localRank.any (· + 1 == part.rank) then st.setEntry { a with ahead := a.ahead - 1 } else st)
      else if Config.chainBuffer ≤ a.blocks.length then st.post [.chain gid seq part]
      else if a.localRank.all (· == part.rank + 1) then st.setEntry { a with blocks := a.blocks ++ [part.block] }
      else st)

/-- The cycle and the sender of the ABORT that an entry records. -/
def State.hear (s : State) (gid seq sender : Nat) : State :=
  match s.entry gid seq with
  | none => s
  | some a => s.setEntry { a with heard := some (s.cycle, sender) }

/-- Of two ABORTs of one cycle the second is the one to record (R241): what completed with the first has its cause and rank. -/
def State.recordAnew (s : State) (gid seq cause rank cause' rank' : Nat) : State :=
  let old := gstatWord 2 cause rank gid seq
  let new := gstatWord 2 cause' rank' gid seq
  { s with cores := s.cores.map fun e => (e.1, { e.2 with ctxs := e.2.ctxs.map fun x => (x.1, if x.2.gstat = old then { x.2 with gstat := new } else x.2) }) }

/-- Of two ABORTs of one cycle the one that names the lower rank is recorded, then the one of the lower sending rank (R241). -/
def outranks (rank sender rank' sender' : Nat) : Bool := decide (rank < rank') || (rank == rank' && decide (sender < sender'))

/-- The ABORT of this cycle for a key that the table has no place for. -/
def State.heardOf (s : State) (gid seq : Nat) : Option Heard := s.heard.find? fun h => h.gid == gid && h.seq == seq && h.cycle == s.cycle

/-- An ABORT for a key that has no entry and finds no room: it ends the multiplies that wait for room. -/
def State.abortUnkept (s : State) (h : Heard) : State :=
  match s.heardOf h.gid h.seq with
  | none => { s.abortHere h.gid h.seq h.cause h.rank with heard := h :: s.heard }
  | some k =>
    if outranks h.rank h.sender k.rank k.sender then
      { s.recordAnew h.gid h.seq k.cause k.rank h.cause h.rank with heard := h :: s.heard.erase k }
    else s

/-- ABORT (R240, R241): the first for a key decides, and of those of one cycle the one that outranks the others. One for a key without an entry leaves
an ABORTED entry, where the table has room. -/
def execAbort (gid seq cause rank sender : Nat) (st : State) : Out :=
  .next (match st.entry gid seq with
    | some a => (match a.state with
      | .aborted c r =>
        if a.heard.any fun h => h.1 == st.cycle && outranks rank sender r h.2 then
          (st.setEntry { a with state := .aborted cause rank, heard := some (st.cycle, sender) }).recordAnew gid seq c r cause rank
        else st
      | _ => (st.abortHere gid seq cause rank).hear gid seq sender)
    | none => match st.roomEntry with
      | none => st.abortUnkept ⟨gid, seq, cause, rank, sender, st.cycle⟩
      | some s => (({ s with agree := s.agree ++ [⟨gid, seq, [], none, .gathering, [], 0, none, none⟩] } : State).abortHere gid seq cause rank).hear
          gid seq sender)

/-- DONE, of the last rank: the member completes. One whose command has gone since gives the weight it was to receive back (R51). -/
def execDone (gid seq : Nat) (result : DoneWith) (st : State) : Out :=
  .next (match st.entry gid seq, (st.gmmasOf gid seq).head? with
    | some _, some (core, c, g) => if g.entered = true ∧ result.rank + 1 = g.size then st.gmmaDone core c g result.tile else st
    | some a, none => match a.isAborted, a.own with
      | false, some o =>
        let s := st.freeEntry gid seq
        if o.fn = 1 then s.homeDrop ⟨false, BitVec.ofNat 5 (31 - (popcount8 o.mask).log2), result.tile⟩ else s
      | _, _ => st
    | none, _ => st)

/-- Rank of a member under a mask. -/
def rankOf (mask member : Nat) : Nat := popcount8 (mask % 2 ^ member)

/-- One taken group multiply at the loss of a member (R243). -/
def State.memberLost (s : State) (core : Nat) (c : Cmd) (g : Gmma) (member : Nat) : State :=
  let r := rankOf g.mask member
  if !g.mask.testBit member then s
  else if !sentLast c g then
    (if g.entered then s.abortGmma g 5 r
      else (s.sendMembers g.mask (.abort g.gid g.seq 5 r g.rank)).gmmaAborted core c g 5 r)
  else if r + 1 = g.size then s.abortHere g.gid g.seq 5 r
  else s

/-- A member of the bond is reported disabled (R243). -/
def execGmmaMemberLost (member : Nat) (st : State) : Out :=
  let taken := st.cores.flatMap fun e => e.2.cmds.filterMap fun c => match c.op with
    | .gmma g => if c.running then some (e.1, c, g) else none
    | _ => none
  .next (if st.memberPeer member = st.peer.toNat then st
    else taken.foldl (fun s e => s.memberLost e.1 e.2.1 e.2.2 member) st)

end Sys2Proof.Machine
end

