-- ==== Sys2Proof/Machine/FabricEvents.lean ====
section
/-! DEFINITION. The fabric: wiring (R285, R286), routes (R287, R288), links (R291, R292, R336), time (R293), peer state (R342, R243),
combining (R290). -/

namespace Sys2Proof.Machine

/-- A link that has not trained. -/
def Link.off : Link where
  trained := false
  disabled := false
  farPeer := 0
  farPort := 0
  retrains := 0
  txSeq := 0
  rxSeq := 0
  txCtr := 0
  rxCtr := 0
  replay := []
  resend := 0
  queue := []
  arriving := []
  badRun := 0
  nakOut := none
  keyEpoch := 0
  txKey := 0
  rxKey := 0
  salt := 0
  last := none

def State.link (s : State) (p : Nat) : Link := s.links.get Link.off p

def State.setLink (s : State) (p : Nat) (l : Link) : State := { s with links := s.links.put p l }

/-! ### Wiring (R285, R286) -/

/-- Product of two indices of GF(25): index i stands for i mod 5 + (i / 5) t, with t² = 2. -/
def gfMul (i j : Nat) : Nat := (i % 5 * (j % 5) + 2 * (i / 5 * (j / 5))) % 5 + 5 * ((i % 5 * (j / 5) + i / 5 * (j % 5)) % 5)

def gfAdd (i j : Nat) : Nat := (i % 5 + j % 5) % 5 + 5 * ((i / 5 + j / 5) % 5)

def gfSub (i j : Nat) : Nat := (i % 5 + 5 - j % 5) % 5 + 5 * ((i / 5 + 5 - j / 5) % 5)

/-- A nonzero square. -/
def gfSquare (i : Nat) : Bool := i != 0 && (List.range 25).any fun z => gfMul z z == i

/-- Two bonds are joined by a domain link. -/
def bondsJoined (a b : Nat) : Bool :=
  let x (k : Nat) : Nat := k / 25 % 25
  let y (k : Nat) : Nat := k % 25
  let diff := gfSub (y a) (y b)
  decide (a ≤ Config.lastBond ∧ b ≤ Config.lastBond) &&
    (match a / 625, b / 625 with
      | 0, 0 => x a == x b && gfSquare diff
      | 1, 1 => x a == x b && diff != 0 && !gfSquare diff
      | 0, _ => y a == gfAdd (gfMul (x b) (x a)) (y b)
      | _, _ => y b == gfAdd (gfMul (x a) (x b)) (y a))

/-- The far end that a port is wired to: a bond port's is given, a domain port joins a domain port of a joined bond. -/
def State.wired (s : State) (port farPeer farPort : Nat) : Bool :=
  let p := s.peer.toNat
  if port < 7 then farPeer == p / 8 * 8 + (p % 8 + port + 1) % 8 && farPort == 6 - port
  else decide (port < 12 ∧ 7 ≤ farPort ∧ farPort < 12) && bondsJoined (p / 8) (farPeer / 8)

/-- The far end is the one that the cabling word of the port expects. -/
def cablingMatches (w : Word) (farPeer farPort : Nat) : Bool := w.getLsbD 63 && bits w 4 14 == farPeer && bits w 0 4 == farPort

/-! ### Training (R285, R336) -/

/-- The keys of both directions and the salt, as the exchange of a number gives them: the end with the lower peer number is the requester. -/
def State.rekey (s : State) (port : Nat) (l : Link) : Link :=
  let lower := decide (s.peer.toNat < l.farPeer)
  let ends := if lower then [s.peer.toNat, port, l.farPeer, l.farPort] else [l.farPeer, l.farPort, s.peer.toNat, port]
  let secret (k : Nat) : Nat := Config.linkSecret (ends ++ [l.keyEpoch + 1, k])
  { l with keyEpoch := l.keyEpoch + 1, txKey := secret (if lower then 0 else 1), rxKey := secret (if lower then 1 else 0), salt := BitVec.ofNat 32 (secret 2) }

/-! ### Routes (R287, R288) -/

/-- A message that the two ends of a link exchange themselves. -/
def linkLevel : Instr → Bool
  | .linkTrain .. => true
  | .timeSyncReceive .. => true
  | .controlFlitReceive .. => true
  | _ => false

/-- Ports whose links are trained. -/
def State.ports (s : State) : List Nat := (s.links.filter fun e => e.2.trained).map (·.1)

/-- One of a list of ports, by a free value. -/
def State.pickPort (s : State) (ps : List Nat) : Option Nat := ps[Config.freeNat s.freeUse % ps.length]?

def State.bond (s : State) : Nat := s.peer.toNat / 8

/-- Bond ports whose links are trained. -/
def State.bondPorts (s : State) : List Nat := s.ports.filter fun p => decide (p < 7)

/-- The port to a bond that is joined to this one: its domain link at this package, else the bond hop to the member that carries it (R287). -/
def State.joinedPort (s : State) (b : Nat) : Option Nat :=
  (s.ports.find? fun p => decide (7 ≤ p) && (s.link p).farPeer / 8 == b).or
    (s.bondPorts.find? fun p => (s.link p).farPeer % 8 == Config.linkMember s.bond b % 8)

/-- The bond that the route tables name between two bonds that are not joined: one that is joined to both (R287). -/
def transitBetween (a b : Nat) : Nat :=
  let ts := (List.range (Config.lastBond + 1)).filter fun t => bondsJoined a t && bondsJoined t b
  ts.getD (Config.transitBond a b 0 % ts.length) b

/-- The port of the minimal route to another bond. -/
def State.towardBond (s : State) (b : Nat) : Option Nat :=
  s.joinedPort (if bondsJoined s.bond b then b else transitBetween s.bond b)

/-- The port of the minimal route to a package: within the bond its own link, or another member where that is down (R243). -/
def State.minimalPort (s : State) (peer : Nat) : Option Nat :=
  if peer / 8 = s.bond then (s.bondPorts.find? fun p => (s.link p).farPeer == peer).or (s.pickPort s.bondPorts)
  else s.towardBond (peer / 8)

/-- The ports of the eight non-minimal routes that are held for the bond of a package, each by way of the minimal route to a bond chosen at random
(R288). -/
def State.otherPorts (s : State) (peer : Nat) : List Nat :=
  (List.range 8).filterMap fun i =>
    let t := Config.transitBond s.bond (peer / 8) (i + 1) % (Config.lastBond + 1)
    if t = s.bond then none else s.towardBond t

/-- The port that a packet takes: the minimal route's unless more than 32 flits wait there and fewer at one of a non-minimal route; which of these is a
free value (log entry 98). -/
def State.routePort (s : State) (peer : Nat) : Option Nat :=
  match s.minimalPort peer with
  | none => s.pickPort (s.otherPorts peer)
  | some p =>
    let n := (s.link p).queue.length
    let others := (s.otherPorts peer).filter fun q => decide ((s.link q).queue.length < n)
    if 32 < n ∧ others ≠ [] then s.pickPort others else some p

/-- The flits of the message at a place of the outbox, of which the last is the one that brings it. -/
def messageFlits (n place : Nat) : List Load := List.replicate n ⟨1, 0⟩ ++ [⟨1, place + 1⟩]

/-- A message takes its route: its flits, whose number is not given, wait at one port. -/
def State.takeRoute (s : State) (place peer : Nat) : Option State :=
  (s.routePort peer).map fun p =>
    let l := s.link p
    { s.setLink p { l with queue := l.queue ++ messageFlits (Config.freeNat (s.freeUse + 1) % 2048) place } with freeUse := s.freeUse + 2 }

/-- The next message takes its route. -/
def State.routeNext (s : State) : State :=
  match s.outbox[s.routed]? with
  | none => s
  | some (peer, e) =>
    if linkLevel e then { s with routed := s.routed + 1 }
    else match s.takeRoute s.routed peer with
    | none => s
    | some t => { t with routed := s.routed + 1 }

/-! ### Link state (R243, R342) -/

/-- A control flit on every trained link: whether a package is reached. -/
def State.sendControl (s : State) (peer : Nat) (up : Bool) : State :=
  s.ports.foldl (fun s p =>
    let l := s.link p
    (s.setLink p { l with queue := l.queue ++ [⟨3, 2 * peer + if up then 1 else 0⟩] }).send l.farPeer (.controlFlitReceive peer up)) s

/-- Flits of a link that the far end has not acknowledged, and those that wait behind them. -/
def Link.unsent (l : Link) : List Load := l.replay.map (·.2) ++ l.queue

/-- A link is disabled. Its messages that have not arrived take another route where there is one (R243); the others are told. -/
def State.dropLink (s : State) (port : Nat) : State :=
  let l := s.link port
  let s := s.setLink port { l with trained := false, disabled := true }
  let places := (l.unsent.filter fun f => f.kind == 1 && f.payload != 0).map fun f => f.payload - 1
  let s :=
    if s.ports = [] then s
    else places.foldl (fun s k => match s.outbox[k]? with | none => s | some (peer, _) => (s.takeRoute k peer).getD s)
      (s.setLink port { s.link port with replay := [], queue := [] })
  if l.trained then s.sendControl l.farPeer false else s

/-! ### Training (R285, R336) -/

/-- LINK_TRAIN: each end sends its peer number and port; the far end is checked, and keys are exchanged; a link that fails either is disabled. A
package that a link trains to is not disabled (R342), and what waits for the link goes out on it. -/
def execLinkTrain (port farPeer farPort : Nat) (keysOk : Bool) (st : State) : Out :=
  let l := { st.link port with farPeer := farPeer, farPort := farPort }
  let ok := st.wired port farPeer farPort && cablingMatches (st.cabling.get 0 port) farPeer farPort && keysOk
  let said := st.send farPeer (.linkTrain farPort st.peer.toNat port keysOk)
  .next (if 12 ≤ port then st
    else if ok then
      ({ said.setLink port { st.rekey port l with trained := true, disabled := false, txSeq := 0, rxSeq := 0, txCtr := 0, rxCtr := 0, replay := []
                                                  resend := 0, queue := l.unsent, badRun := 0, nakOut := none, last := none } with
        disabledPeers := st.disabledPeers.set false farPeer false } : State).sendControl farPeer true
    else
      let s := said.dropLink port
      s.setLink port { s.link port with farPeer := farPeer, farPort := farPort })

/-! ### Flits and retry (R291, R292) -/

/-- A flit goes out: its header carries the last number received in order, or with NAK the number that is expected; the counter advances. -/
def Link.put (l : Link) (load : Load) (seq : BitVec 12) : Link :=
  { l with
    last := some ⟨l.txCtr, load, seq, l.nakOut.getD (l.rxSeq - 1), l.nakOut.isSome⟩
    txCtr := l.txCtr + 1, nakOut := none }

/-- One slot of a trained link: a flit to be sent again, the next that waits while the replay buffer holds fewer than 128, else an idle flit. -/
def Link.slot (l : Link) : Link :=
  if l.trained = false then l
  else match (if l.resend = 0 then none else l.replay[l.replay.length - l.resend]?) with
  | some (seq, load) => { l.put load seq with resend := l.resend - 1 }
  | none => match l.queue with
    | [] => l.put ⟨0, 0⟩ l.txSeq
    | load :: r =>
      if l.replay.length < 128 then
        { l.put load l.txSeq with queue := r, replay := l.replay ++ [(l.txSeq, load)], txSeq := l.txSeq + 1 }
      else l.put ⟨0, 0⟩ l.txSeq

/-- A cycle of the links: a message takes its route, and on each trained link a slot goes out or does not yet: how many cycles a slot takes is not
given exactly (R285). -/
def State.linkCycle (s : State) : State :=
  if s.links = [] then s
  else
    let s := s.routeNext
    { s with
      links := s.links.map fun e => (e.1, if Config.freeBool (s.freeUse + e.1) then e.2.slot else e.2)
      freeUse := s.freeUse + 12 }

/-- Flits acknowledged up to a sequence number leave the replay buffer. -/
def acknowledged (ack : BitVec 12) (q : List (BitVec 12 × Load)) : List (BitVec 12 × Load) :=
  if q.any (·.1 == ack) then (q.dropWhile (·.1 != ack)).drop 1 else q

/-- What a flit brings that is delivered: a data flit the next messages of those that the far end has sent, as many as end with it; a time-sync flit its
time-stamp; a control flit the link state of a package. -/
def delivered (port : Nat) (l : Link) (b : FlitBody) : List Instr :=
  match b.kind with
  | 1 => l.arriving.take b.x
  | 2 => [.timeSyncReceive port l.farPeer (BitVec.ofNat 64 b.x)]
  | 3 => [.controlFlitReceive b.x (b.y != 0)]
  | _ => []

/-- A flit is delivered: its number is no longer expected, and its messages have arrived. -/
def Link.deliver (l : Link) (b : FlitBody) : Link :=
  { l with rxSeq := l.rxSeq + 1, nakOut := none, arriving := if b.kind = 1 then l.arriving.drop b.x else l.arriving }

/-- FLIT_RECEIVE: the receiver's counter advances whatever comes. A corrupt flit is answered by a NAK, and the sixteenth in a run makes the
link retrain; an intact one acknowledges, and is delivered when its number is the expected one. -/
def execFlitReceive (port ctr : Nat) (body : FlitBody) (seq ack : Nat) (nak tagOk : Bool) (st : State) : Out :=
  let l := st.link port
  let corrupt := !tagOk || ctr % 2 ^ 32 != l.rxCtr.toNat % 2 ^ 32
  let l := { l with rxCtr := l.rxCtr + 1 }
  .next (if !l.trained then st
    else if corrupt then
      let s := st.setLink port { l with badRun := l.badRun + 1, nakOut := some l.rxSeq }
      if 16 ≤ l.badRun + 1 then s.post [.linkRetrain port] else s
    else
      let l := { l with badRun := 0, replay := if nak then l.replay else acknowledged (BitVec.ofNat 12 ack) l.replay }
      let l := { l with resend := Nat.min l.resend l.replay.length }
      let next := decide (body.kind ≠ 0 ∧ BitVec.ofNat 12 seq = l.rxSeq)
      (st.setLink port (if next then l.deliver body else l)).post
        ((if nak then [.nakReceive port ack] else []) ++ if next then delivered port l body else []))

/-- NAK_RECEIVE: the flits before the named one are acknowledged, the others are sent again, each in a slot of its own. -/
def execNakReceive (port seq : Nat) (st : State) : Out :=
  let l := st.link port
  let n := BitVec.ofNat 12 seq
  let left := if l.replay.any (·.1 == n) then l.replay.dropWhile (·.1 != n) else l.replay
  .next (if l.trained then st.setLink port { l with replay := left, resend := left.length } else st)

/-- LINK_RETRAIN: KEY_UPDATE gives new keys, both counters are at 0, every unacknowledged flit is to be sent again. Whether the update succeeds is
a free value: a link whose exchange fails is disabled (R336). -/
def execLinkRetrain (port : Nat) (st : State) : Out :=
  let l := st.link port
  let l := { l with retrains := l.retrains + 1, rxCtr := 0, txCtr := 0, resend := l.replay.length, badRun := 0, nakOut := none }
  .next (if l.trained = false then st
    else if Config.freeBool st.freeUse then { st.setLink port (st.rekey port l) with freeUse := st.freeUse + 1 }
    else ({ st.setLink port l with freeUse := st.freeUse + 1 } : State).dropLink port)

/-! ### Time (R293) -/

/-- TIME_SYNC_SEND: a time-sync flit with the package's time-stamp goes to the far end. -/
def execTimeSyncSend (port : Nat) (st : State) : Out :=
  let l := st.link port
  .next (if l.trained then
      (st.setLink port { l with queue := l.queue ++ [⟨2, 0⟩] }).send l.farPeer (.timeSyncReceive l.farPort st.peer.toNat st.timeDom)
    else st)

/-- TIME_SYNC_RECEIVE: a new estimate of the offset. A package that joins steps forward once; afterwards only its rate changes. -/
def execTimeSyncReceive (port peer : Nat) (stamp : Word) (st : State) : Out :=
  let est := Config.offsetEstimate peer stamp st.timeDom st.freeUse
  let s := { st with timeJoined := true, freeUse := st.freeUse + 1 }
  .next (if !(st.link port).trained then st
    else if st.timeSource then { s with timeLocked := true, timeOffset := 0 }
    else if !st.timeJoined ∧ 0 < est then { s with ticks := st.ticks + 360360 * est.natAbs, timeOffset := 0, timeLocked := true }
    else { s with timeOffset := 360360 * est, timeLocked := lockedAt (360360 * est) })

/-! ### Peer state (R342) -/

/-- The package is not reached any longer: the homes keep no word for it, and the loss of a member of this bond is reported to its group
multiplies. -/
def State.peerLost (s : State) (peer : Nat) : State :=
  let s := { s with reserves := s.reserves.filter fun e => e.1 / 1024 != peer }
  if peer / 8 = s.peer.toNat / 8 then s.post [.gmmaMemberLost (peer % 8)] else s

/-- CONTROL_FLIT_RECEIVE: whether some enabled link reaches a package. A change is passed on over the trained links. -/
def execControlFlitReceive (peer : Nat) (reachable : Bool) (st : State) : Out :=
  .next (if !st.population.get false peer || peer == st.peer.toNat then st
    else
      let s := { st with disabledPeers := st.disabledPeers.set false peer (!reachable) }
      let s := if st.disabledPeers.get false peer = reachable then s.sendControl peer reachable else s
      if reachable then s else s.peerLost peer)

/-! ### Combining (R290) -/

/-- A request as a router combines it: package, core, context, number of the request, addend. -/
abbrev Request := Nat × Nat × Nat × Nat × Word

def Request.addend (r : Request) : Nat := r.2.2.2.2.toNat

/-- The sum that one request carries. -/
def sumOf (reqs : List Request) : Nat := reqs.foldl (fun n r => n + r.addend) 0

/-- The old values that the combined requests receive. -/
def splitReply (n : Nat) (old : Nat) : List Request → List Word
  | [] => []
  | x :: r => BitVec.ofNat 64 (old % 2 ^ n) :: splitReply n (old + x.addend) r

/-- Every request may add to the word: none would be refused, so that the router may combine them. -/
def State.combines (s : State) (pa size : Nat) (reqs : List Request) : Bool :=
  decide (2 ≤ reqs.length) && pa % size == 0 && paExists pa && !isHubSpace pa && !frameReserved (paTier pa) (paFrame pa) &&
    (reqs.all fun r => s.partition.get false r.1 && s.exported 1 pa true)

/-- The adds at their home: one atomic step, one write; the reply goes to the router. None where the home would refuse them. -/
def State.addCombined (s : State) (router kind pa : Nat) (wide : Bool) (reqs : List Request) : Option State :=
  let size := if wide then 8 else 4
  if s.tag pa || (kind == 0 && s.poisoned pa size) then none
  else (s.takeToWrite pa size).map fun t =>
    let t := { t with reserves := t.reserves.filter fun e => !(e.2 == lineOf pa && reqs.any fun r => keeper r.1 r.2.1 r.2.2.1 == e.1) }
    let old := t.readNat pa size
    (t.writeNat pa size ((old + sumOf reqs) % 2 ^ (8 * size))).deliver router (.combinedReplySplit ⟨kind, pa, wide⟩ (BitVec.ofNat 64 old) reqs)

/-- Weight returns of one tile at its home: one return, one acknowledgement. -/
def State.returnCombined (s : State) (router : Nat) (t : BitVec 40) (wide : Bool) (reqs : List Request) : State :=
  let s := (reqs.filter fun r => r.2.1 == noCore && r.2.2.1 == 1).foldl (fun s _ => s.countScale t (· - 1)) s
  (s.returnWeight t (sumOf reqs)).deliver router (.combinedReplySplit ⟨2, t.toNat, wide⟩ 0 reqs)

/-- Adds that the home would refuse are not combined: each comes by itself and is answered or refused, and the router forgets them. -/
def State.addsApart (s : State) (place : CombineAt) (wide : Bool) (reqs : List Request) : State :=
  let op := (if place.kind = 0 then 2 else 3) + 16 * if wide then 8 else 4
  let s := s.post (reqs.map fun r => .remoteAccess r.1 r.2.1 r.2.2.1 op place.key r.2.2.2.2 0 0 r.2.2.2.1 [])
  if place.router = s.peer.toNat then s else s.deliver place.router (.combinedReplySplit ⟨place.kind + 4, place.key, wide⟩ 0 reqs)

/-- ROUTER_COMBINE: requests of one kind and width for one word or descriptor become one, which goes on to the home, or is performed there. -/
def execRouterCombine (place : CombineAt) (wide : Bool) (reqs : List Request) (st : State) : Out :=
  let here := decide (place.router = st.peer.toNat)
  let kept (s : State) : State := if here then { s with combined := s.combined ++ [⟨place.kind, place.key, wide, reqs⟩] } else s
  .next (if place.home ≠ st.peer.toNat then (kept st).send place.home (.routerCombine place wide reqs)
    else if place.kind = 2 then (kept st).returnCombined place.router (BitVec.ofNat 40 place.key) wide reqs
    else if st.combines place.key (if wide then 8 else 4) reqs then
      st.atHome (.routerCombine place wide reqs) fun s =>
        ((s.addCombined place.router place.kind place.key wide reqs).map kept).getD (s.addsApart place wide reqs)
    else st.addsApart place wide reqs)

/-- What one request of a combination receives: the old value of an ATOM.add, the acknowledgement of a CADD or a drop. -/
def State.answerCombined (s : State) (kind key : Nat) (r : Request) (v : Word) : State :=
  match kind with
  | 0 => s.deliver r.1 (.variableResultArrival r.2.1 r.2.2.1 false r.2.2.2.1 v)
  | 1 => s.deliver r.1 (.remoteAcknowledgement r.2.1 ⟨r.2.2.1, false, r.2.2.2.1 / 64⟩)
  | _ => if r.2.1 = noCore then s else s.deliver r.1 (.dropAck r.2.1 r.2.2.1 (BitVec.ofNat 40 key))

/-- COMBINED_REPLY_SPLIT: each request receives the old value plus the addends before its own. A kind of 4 or more says that the home has taken them
apart and answers each. -/
def execCombinedReplySplit (what : CombineKey) (old : Word) (reqs : List Request) (st : State) : Out :=
  let k : Combination := ⟨what.kind % 4, what.key, what.wide, reqs⟩
  let s := { st with combined := st.combined.erase k }
  .next (if !st.combined.contains k then st
    else if 4 ≤ what.kind then s
    else (reqs.zip (splitReply (if what.wide then 64 else 32) old.toNat reqs)).foldl (fun s e => s.answerCombined what.kind what.key e.1 e.2) s)

end Sys2Proof.Machine
end

