-- ==== Sys2Proof/Machine/Float.lean ====
section
/-! DEFINITION. Scalar floating point (R149 to R153). The forms stand in slot 1, on the a file. -/

namespace Sys2Proof.Machine

/-- Write an FP32 result and its flags. -/
def State.wrF (s : State) (d : BitVec 5) (lat : Nat) (v : Word × Flags) : State := (s.wrA d v.1 lat).raise v.2 lat

/-- A rounding form on two operands. -/
def float3 (g : BitVec 4) (d s t : BitVec 5) (rm : Rm) (lat : Nat) (f : Rm → Num → Num → Num × Flags) (st : State) : Out :=
  guarded g st fun z => .ok (z.wrF d lat (finish32 rm (f rm (f32 (z.opA s)) (f32 (z.opA t)))))

def execFadd (g : BitVec 4) (d s t : BitVec 5) (rm : BitVec 2) (st : State) : Out := float3 g d s t rm 4 addExact st

def execFsub (g : BitVec 4) (d s t : BitVec 5) (rm : BitVec 2) (st : State) : Out :=
  float3 g d s t rm 4 (fun m x y => addExact m x y.neg) st

def execFmul (g : BitVec 4) (d s t : BitVec 5) (rm : BitVec 2) (st : State) : Out :=
  float3 g d s t rm 4 (fun _ x y => mulExact x y) st

def execFfma (g : BitVec 4) (d s t : BitVec 5) (rm : BitVec 2) (st : State) : Out :=
  guarded g st fun z => .ok (z.wrF d 4 (finish32 rm (fmaExact rm (f32 (z.opA s)) (f32 (z.opA t)) (f32 (z.opA d)))))

def execFdiv (g : BitVec 4) (d s t : BitVec 5) (rm : BitVec 2) (st : State) : Out :=
  float3 g d s t rm 12 (fun _ x y => divExact x y) st

def execFsqrt (g : BitVec 4) (d s : BitVec 5) (rm : BitVec 2) (st : State) : Out :=
  guarded g st fun z => .ok (z.wrF d 14 (finish32 rm (sqrtExact (f32 (z.opA s)))))

/-- FMIN and FMAX (R151): the chosen operand is exact in FP32, so that only the signalling flag can be raised. -/
def floatPick (g : BitVec 4) (d s t : BitVec 5) (f : Num → Num → Num) (st : State) : Out :=
  guarded g st fun z =>
    let x := f32 (z.opA s)
    let y := f32 (z.opA t)
    .ok (z.wrF d 4 (BitVec.ofNat 64 (fp32.convert rne false (f x y)).1, flagSignalling x y))

def execFmin (g : BitVec 4) (d s t : BitVec 5) (st : State) : Out := floatPick g d s t Num.min st
def execFmax (g : BitVec 4) (d s t : BitVec 5) (st : State) : Out := floatPick g d s t Num.max st

/-! ### FCMP (R152) -/

/-- Equality and order of numbers; false with a NaN. -/
def numEq (x y : Num) : Bool := !x.isNan && !y.isNan && x.cmp y == 0
def numLt (x y : Num) : Bool := !x.isNan && !y.isNan && decide (x.cmp y < 0)
def numLe (x y : Num) : Bool := !x.isNan && !y.isNan && decide (x.cmp y ≤ 0)

def floatCmp (g : BitVec 4) (d : BitVec 3) (s t : BitVec 5) (f : Num → Num → Bool) (nv : Num → Num → Flags) (st : State) : Out :=
  guarded g st fun z =>
    let x := f32 (z.opA s)
    let y := f32 (z.opA t)
    .ok ((z.wrP d (f x y) 4).raise (nv x y) 4)

def execFcmpEq (g : BitVec 4) (d : BitVec 3) (s t : BitVec 5) (st : State) : Out := floatCmp g d s t numEq flagSignalling st
def execFcmpLt (g : BitVec 4) (d : BitVec 3) (s t : BitVec 5) (st : State) : Out := floatCmp g d s t numLt flagAnyNan st
def execFcmpLe (g : BitVec 4) (d : BitVec 3) (s t : BitVec 5) (st : State) : Out := floatCmp g d s t numLe flagAnyNan st
def execFcmpUn (g : BitVec 4) (d : BitVec 3) (s t : BitVec 5) (st : State) : Out :=
  floatCmp g d s t (fun x y => x.isNan || y.isNan) flagSignalling st
def execFcmpNe (g : BitVec 4) (d : BitVec 3) (s t : BitVec 5) (st : State) : Out :=
  floatCmp g d s t (fun x y => !numEq x y) flagSignalling st

/-! ### FCVT (R153) -/

/-- A conversion: how the source is read and how the result is formed. -/
def floatCvt (g : BitVec 4) (d s : BitVec 5) (f : Word → Nat × Flags) (st : State) : Out :=
  guarded g st fun z =>
    let r := f (z.opA s)
    .ok (z.wrF d 4 (BitVec.ofNat 64 r.1, r.2))

/-- The low bits of a register as a float of a format. -/
def lowFloat (f : FloatFmt) (n : Nat) (w : Word) : Num := f.decode (w.toNat % 2 ^ n)

def execFcvtF32S64 (g : BitVec 4) (d s : BitVec 5) (rm : BitVec 2) (sat : Bool) (st : State) : Out :=
  floatCvt g d s (fun w => fp32.convert rm sat (Num.ofInt w.toInt)) st
def execFcvtF32Z64 (g : BitVec 4) (d s : BitVec 5) (rm : BitVec 2) (sat : Bool) (st : State) : Out :=
  floatCvt g d s (fun w => fp32.convert rm sat (Num.ofInt w.toNat)) st
def execFcvtS64F32 (g : BitVec 4) (d s : BitVec 5) (rm : BitVec 2) (_sat : Bool) (st : State) : Out :=
  floatCvt g d s (fun w => convertInt 64 true 0 rm (f32 w)) st
def execFcvtZ64F32 (g : BitVec 4) (d s : BitVec 5) (rm : BitVec 2) (_sat : Bool) (st : State) : Out :=
  floatCvt g d s (fun w => convertInt 64 false 0 rm (f32 w)) st
def execFcvtF32Bf16 (g : BitVec 4) (d s : BitVec 5) (rm : BitVec 2) (sat : Bool) (st : State) : Out :=
  floatCvt g d s (fun w => fp32.convert rm sat (lowFloat bf16 16 w)) st
def execFcvtBf16F32 (g : BitVec 4) (d s : BitVec 5) (rm : BitVec 2) (sat : Bool) (st : State) : Out :=
  floatCvt g d s (fun w => bf16.convert rm sat (f32 w)) st
def execFcvtF32F16 (g : BitVec 4) (d s : BitVec 5) (rm : BitVec 2) (sat : Bool) (st : State) : Out :=
  floatCvt g d s (fun w => fp32.convert rm sat (lowFloat fp16 16 w)) st
def execFcvtF16F32 (g : BitVec 4) (d s : BitVec 5) (rm : BitVec 2) (sat : Bool) (st : State) : Out :=
  floatCvt g d s (fun w => fp16.convert rm sat (f32 w)) st

end Sys2Proof.Machine
end

