-- ==== Sys2Proof/Machine/LaunchEvents.lean ====
section
/-! DEFINITION. Events of the front end: packets (R298, R299, R302), residency (R303, R309), dispatch (R304), completion (R306, R307),
doorbells (R330, R332), writes of the hub control space (R309). -/

namespace Sys2Proof.Machine

/-! ### Reading a packet (R299, R302) -/

/-- What a packet's region resolves to: the chain, the address space, the priority, the fault-domain flag. -/
structure Resolved where
  chain : List Nat
  asid : BitVec 12
  prio : Nat
  fdom : Bool
  deriving DecidableEq, Repr

/-- Resolve a region block; none where the chain is longer than 16 blocks, names no block, or its root leaves a field unset. -/
def State.resolveRegion (s : State) (b : Nat) : Option Resolved :=
  match s.regionChain 16 b with
  | none => none
  | some ch =>
    if s.rootOk ch then
      some ⟨ch, BitVec.ofNat 12 (s.regionField ch 0 12 2), s.regionField ch 5 9 1 % 16, s.regionField ch 6 10 1 % 2 == 1⟩
    else none

/-- The launch that a child packet names as its parent. -/
def State.parentOf (s : State) (id : Nat) : Option Launch := if id = 0 then none else s.launches.find? fun l => l.id == id

/-- The region block that a packet names: a task's zero is its own region. -/
def State.packetRegion (s : State) (p : Packet) (parent : Nat) : Nat :=
  match s.parentOf parent with
  | some l => if p.region = 0 then l.chain.headD 0 else p.region
  | none => p.region

/-- The region is one that the sender may name: any from the host, its own or a descendant from a task. -/
def State.regionAllowed (s : State) (r : Resolved) (parent : Nat) : Bool :=
  parent == 0 || (match s.parentOf parent with | some l => r.chain.contains (l.chain.headD 0) | none => false)

/-- The address space under which a lease list is read (R299): that of the region which issued the packet, for a packet of the host that of the
region it names (log entry 97). -/
def State.issuingAsid (s : State) (r : Resolved) (parent : Nat) : BitVec 12 :=
  match s.parentOf parent with | some l => l.asid | none => r.asid

/-- The shape of a packet is as R299 asks, with what its region resolves to and its lease. An error names what a peer has yet to send, or nothing
where the packet is rejected. -/
def State.validate (s : State) (bs : List Byte) (parent : Nat) : Except (Option Wanted) (Resolved × List (Nat × Nat)) :=
  let p := Packet.ofBytes bs
  match s.resolveRegion (s.packetRegion p parent) with
  | none => .error none
  | some r =>
    if packetFields bs && s.packetCores p && p.barsOk && r.asid != 0 && s.regionAllowed r parent then
      (match s.listBytes p.die (s.issuingAsid r parent) p.listParts with
        | .error e => .error e
        | .ok ls => match leaseEntries ls p.nlease with
          | none => .error none
          | some lease =>
            if leaseHolds lease p.code.toNat 1 && (p.record == 0 || leaseHolds lease p.record 32) then .ok (r, lease) else .error none)
    else .error none

/-- A launch as the front end makes it of a packet. -/
def State.launchOf (s : State) (proc : Nat) (bs : List Byte) (parent : Nat) : Launch :=
  let p := Packet.ofBytes bs
  let base : Launch :=
    { id := s.nextLaunch, parent := parent, proc := proc, pkt := p, chain := [], asid := 0, prio := 0, fdom := false, lease := [], near := 0
      state := .ended 1, live := 0, faults := 0, status := 0, record := .unwritten }
  match s.validate bs parent with
  | .error _ =>
    (match s.resolveRegion (s.packetRegion p parent) with
      | none => base
      | some r => { base with chain := r.chain, asid := r.asid })
  | .ok (r, lease) =>
    let l := { base with chain := r.chain, asid := r.asid, prio := r.prio, fdom := r.fdom, lease := lease
                         near := s.nearFrames p r.asid lease, state := .pending }
    if s.withinLimits l then l else { l with state := .ended 2 }

/-- The next launch identifier: 32 bits, never 0. -/
def nextId (n : Nat) : Nat := if n + 1 < 2 ^ 32 then n + 1 else 1

/-- The bytes of the packet at an address, and the launch that it names as its parent. -/
def State.packetAt (s : State) (at_ : Nat) : List Byte × Nat :=
  let bs := (s.takeRange at_ 128).readBytes at_ 128
  (bs, ofBytes ((bs.drop 104).take 8) % 2 ^ 32)

/-- The ranges of this package that the front end reads for a packet, as its home (R263): its entry and its lease list. The region blocks stand in
the hub's cache (R314). -/
def State.frontReads (s : State) (at_ : Nat) (bs : List Byte) (parent : Nat) : List (Nat × Nat) :=
  let p := Packet.ofBytes bs
  let list : List (Nat × Nat) := match s.resolveRegion (s.packetRegion p parent) with
    | none => []
    | some r => p.listParts.filterMap fun e => match s.vaPlace p.die (s.issuingAsid r parent) e.1 with
      | some (q, pa) => if q = s.peer.toNat then some (pa, e.2) else none
      | none => none
  (at_, 128) :: list

/-- The slot whose entry is read next (R308): in slot order from the place that the round has reached. -/
def State.nextSlot (s : State) : Option Nat :=
  ((List.range 64).map fun i => (s.slotTurn + i) % 64).find? fun n => (s.qslot n).mapped && (s.qslot n).head != (s.qslot n).tail

/-- The hub accepts launches (R293): its package has stepped its time forward, or is the time source. -/
def State.acceptsLaunches (s : State) : Bool := s.timeJoined || s.timeSource

/-- The front end takes the packet at the head of a slot; the next slot is next. -/
def State.takePacket (s : State) (slot : Nat) (q : QSlot) : State :=
  let at_ := q.entry q.head.toNat
  let (bs, parent) := s.packetAt at_
  let l := s.launchOf q.proc.toNat bs parent
  let s := { s with
    slots := s.slots.put slot { q with head := q.head + 1 }
    slotTurn := (slot + 1) % 64
    frontGot := []
    nextLaunch := nextId s.nextLaunch
    launches := s.launches ++ [l] }
  match l.state with
  | .pending => s.testResidency l
  | _ => s.post [.launchComplete l.id]

/-- LAUNCH_PACKET_READ: the entry of the slot that is next in the round, once the lines that the front end reads are at rest and a peer has sent
what it needs of it. -/
def execLaunchPacketRead (slot : Nat) (st : State) : Out :=
  let q := st.qslot slot
  let at_ := q.entry q.head.toNat
  if st.nextSlot ≠ some slot ∨ st.acceptsLaunches = false then .next st
  else if !paExists at_ then .fault (.noFrame at_)
  else
    let (bs, parent) := st.packetAt at_
    let reads := st.frontReads at_ bs parent
    .next (if !(reads.all fun r => st.rangeQuiet r.1 r.2) then st
      else match st.validate bs parent with
        | .error (some w) => st.frontAsk w
        | _ => (reads.foldl (fun s r => s.takeRange r.1 r.2) st).takePacket slot q)

/-! ### Residency (R303, R309) -/

/-- The launch of an identifier, if it waits for residency. -/
def State.waitingLaunch (s : State) (id : Nat) : Option Launch :=
  s.launches.find? fun l => l.id == id && l.state == .waitingResidency

def execResidencyAnswer (id : Nat) (st : State) : Out :=
  .next (match st.waitingLaunch id with | none => st | some l => st.testResidency l)

def execResidencyDiscard (id : Nat) (st : State) : Out :=
  .next (match st.waitingLaunch id with
    | none => st
    | some _ =>
      let stop (l : Launch) : Launch := if l.id = id then { l with state := .ended 4 } else l
      ({ st with launches := st.launches.map stop }).post [.launchComplete id])

/-! ### Dispatch (R304) -/

/-- Dispatch one launch: its tasks start together, and its demand as it is now is charged. -/
def State.dispatchLaunch (s : State) (l : Launch) : State :=
  match s.placement l with
  | none => s
  | some ts =>
    let l := s.current l
    let s := (s.charge l).startTasks l ts 0
    let run (k : Launch) : Launch := if k.id = l.id then { k with state := .running, live := ts.length, near := l.near } else k
    ({ s with launches := s.launches.map run }).post ((l.pkt.cores.filter fun c => (s.core c).gated).map fun c => .coreWake c)

/-- DISPATCH: pending launches that have lost a frame ask for it again, then the first launch whose conditions hold starts; it waits while the
lines of the region blocks that it charges are not at rest, and for the refills that their shadows take (R51). -/
def execDispatch (st : State) : Out :=
  let lost := st.launches.filter fun l => l.state == .pending && !(st.missing l).isEmpty
  let s := lost.foldl (fun s l => s.testResidency l) st
  .next (match s.nextLaunchToRun with
    | none => s
    | some l => if s.chainReady l.chain then s.dispatchLaunch l else s.askRefills (s.usageRefills l.chain))

/-! ### Completion (R306, R307) -/

/-- A ring entry that has not been read names a parent. -/
def State.unreadChild (s : State) (id : Nat) : Bool :=
  s.slots.any fun e => (List.range e.2.fill).any fun i => s.homeNat (e.2.entry (e.2.head.toNat + i) + 104) 4 == id

/-- Every task has ended and every child has completed. -/
def State.launchOver (s : State) (l : Launch) : Bool :=
  (match l.state with | .running => l.live == 0 | .ended _ => true | _ => false) &&
    !(s.launches.any fun k => k.parent == l.id) && !s.unreadChild l.id

/-- The status that a launch reports. -/
def Launch.final (l : Launch) : Nat := match l.state with | .ended n => n | _ => l.status

/-- The completion record. -/
def State.recordBytes (s : State) (l : Launch) : List Byte :=
  toBytes 8 l.pkt.tag.toNat ++ toBytes 4 l.final ++ toBytes 4 l.faults ++ toBytes 8 s.timeDom.toNat ++ toBytes 4 l.id ++ toBytes 4 0

/-- Where the record goes, the package and the address there; none where it does not translate under the region's asid or reaches a frame that is
not mortar, and for a packet whose region is none. -/
def State.recordPlace (s : State) (l : Launch) : Option (Nat × Nat) :=
  if l.chain.isEmpty then none else s.mortarPlace l.pkt.die l.asid l.pkt.record

/-- Step 1 of a completion: the record is written, its skip counted, or it goes to a peer, whose answer is awaited. -/
def State.writeRecord (s : State) (l : Launch) : State :=
  match s.recordPlace l with
  | none => { s with skippedRecords := s.skippedRecords + 1 }
  | some (p, pa) =>
    if p = s.peer.toNat then s.deviceWrite pa (s.recordBytes l)
    else
      let sent (k : Launch) : Launch := if k.id = l.id then { k with record := .sent } else k
      ({ s with launches := s.launches.map sent } : State).deliver p
        (.remoteAccess s.peer.toNat noCore 0 8 pa 0 0 0 l.id (s.recordBytes l ++ List.replicate 32 0))

/-- The record of a launch is still to be written. -/
def Launch.owesRecord (l : Launch) : Bool := l.record == .unwritten && l.pkt.record != 0

/-- Step 3: the flag rises as by an RPOST that no context has sent. -/
def State.raiseFlag (s : State) (w : Word) : State :=
  if w.getLsbD 63 = false then s
  else
    let p := bits w 24 14
    if s.peerAbsent p || !s.peerAllowed p then { s with refusedFlags := s.refusedFlags + 1 }
    else s.deliver p (.rpostArrival s.peer.toNat noCore 0 (bits w 0 8) (bits w 8 2) (bits w 40 4) 1 0)

/-- The charges and cores that a launch still holds are given up. -/
def State.releaseLaunch (s : State) (l : Launch) : State :=
  if l.state ≠ .running then s
  else
    let s := l.chain.foldl (fun s b => s.setUsage b fun u => [u.getD 0 0, u.getD 1 0, u.getD 2 0, u.getD 3 0 - l.near]) s
    if l.pkt.barcfg = 0 then s else l.pkt.cores.foldl (fun s c => s.modCore c fun k => { k with barcfg := 0 }) s

/-- The refills that the shadows of what a completion writes take (R51): of the region blocks, and of the record. -/
def State.completionRefills (s : State) (l : Launch) : List (BitVec 40) :=
  (if l.state = .running then s.usageRefills l.chain else []) ++
    (if l.owesRecord then (match s.recordPlace l with | some (p, pa) => if p = s.peer.toNat then s.rangeRefills pa 32 else [] | none => []) else [])

/-- The lines that the completion writes are at rest, and its refills have come. -/
def State.completionQuiet (s : State) (l : Launch) : Bool :=
  (l.state != .running || s.chainQuiet l.chain) &&
    (!l.owesRecord || (match s.recordPlace l with | some (p, pa) => p != s.peer.toNat || s.rangeQuiet pa 32 | none => true)) &&
    s.haveRefills (s.completionRefills l)

/-- Whether the record of a launch goes to a peer. -/
def State.recordIsFar (s : State) (l : Launch) : Bool := match s.recordPlace l with | some (p, _) => p != s.peer.toNat | none => false

/-- Steps 2 and 3, and the launch is gone: its parent's completion may follow. -/
def State.completeLaunch (s : State) (l : Launch) : State :=
  let s := (s.releaseLaunch l).raiseFlag l.pkt.flag
  let s := { s with launches := s.launches.filter fun k => k.id != l.id }
  if l.parent = 0 then s else s.post [.launchComplete l.parent]

def execLaunchComplete (id : Nat) (st : State) : Out :=
  .next (match st.launches.find? fun l => l.id == id with
    | none => st
    | some l =>
      if !st.launchOver l || l.record == .sent then st
      else if !st.completionQuiet l then (st.askRefills (st.completionRefills l)).post [.launchComplete id]
      else if !l.owesRecord then st.completeLaunch l
      else if st.recordIsFar l then st.writeRecord l
      else (st.writeRecord l).completeLaunch l)

/-! ### Doorbells and registers (R309, R330, R332) -/

/-- A new tail of the admin ring of 64 entries, from the host. -/
def State.ringAdmin (s : State) (t : BitVec 24) : State :=
  if (t - s.adminTail).toNat ≤ 64 - (s.adminTail - s.adminHead).toNat then { s with adminTail := t }
  else { s with badDoorbells := s.badDoorbells + 1 }

/-- DOORBELL: a write of the memory BAR at an offset: a slot's doorbell, the admin doorbell; no other offset is one. -/
def execDoorbell (off : Nat) (word : Word) (st : State) : Out :=
  .next (if off = 0x800 then st.ringAdmin (word.setWidth 24)
    else if 0x1000 ≤ off ∧ off < 0x1200 ∧ off % 8 = 0 then st.ringDoorbell ((off - 0x1000) / 8) (word.setWidth 24)
    else st)

/-- ADMIN_DOORBELL: a write of the admin doorbell. -/
def execAdminDoorbell (word : Word) (st : State) : Out := .next (st.ringAdmin (word.setWidth 24))

def execRegisterWrite (off : Nat) (v : Word) (st : State) : Out := .next (st.hubWrite off v)

end Sys2Proof.Machine
end

