-- ==== Sys2Proof/Machine/HostEvents.lean ====
section
/-! DEFINITION. Events of the host port: admin commands (R331 to R335, R337, R339), trace (R337, R338), power (R339), resets (R340). -/

namespace Sys2Proof.Machine

/-! ### The port (R329) -/

/-- What a host may look for in the device's capability structures: a rate in tenths of GT/s; `other` is an option that R329 does not list. -/
inductive HostOption where
  | physicalFunctions | other | width (lanes : Nat) | rate (tenths : Nat) | flitMode | virtualFunctions | msixVectors | configuration | memoryBar | doeMailbox
  | cxlCache | cxlMem | backInvalidate | multiLogical | portRouting | dynamicCapacity | linkIde | selectiveStreams
  deriving DecidableEq, Repr

/-- What the structures report of an option: its size, 1 for one without a size, 0 for one that is absent. -/
def HostOption.reported : HostOption → Nat
  | .width n => if n = 16 ∨ n = 8 ∨ n = 4 then 1 else 0
  | .rate n => if [640, 320, 160, 80, 50, 25].contains n then 1 else 0
  | .physicalFunctions => 1
  | .other => 0
  | .flitMode => 1
  | .virtualFunctions => 0
  | .msixVectors => 64
  | .configuration => 1
  | .memoryBar => 1
  | .doeMailbox => 1
  | .cxlCache => Config.cacheLines
  | .cxlMem => 2 ^ 39
  | .backInvalidate => 1
  | .multiLogical => 0
  | .portRouting => 0
  | .dynamicCapacity => 0
  | .linkIde => 1
  | .selectiveStreams => 0

/-! ### Admin commands (R332) -/

/-- Completion statuses. -/
def statusOk : Nat := 0
def statusInvalid : Nat := 1
def statusBusy : Nat := 2
def statusAuthFail : Nat := 3
def statusUnsupported : Nat := 4

/-- Bytes of a host buffer. -/
def State.hostBytes (s : State) (at_ n : Nat) : List Byte := (List.range n).map fun i => s.hostMem.get 0 (at_ + i)

def State.hostNat (s : State) (at_ n : Nat) : Nat := ofBytes (s.hostBytes at_ n)

/-- An entry of the admin ring: the command, its identifier, the host buffer and its length; `at_` is its host address. -/
structure AdminEntry where
  at_ : Nat
  opcode : Nat
  id : Nat
  buf : Nat
  len : Nat
  deriving DecidableEq, Repr

/-- The entry that runs next; none in an empty ring. -/
def State.adminEntry (s : State) : Option AdminEntry :=
  if s.adminHead = s.adminTail then none
  else
    let a := s.adminBase + 64 * (s.adminHead.toNat % 64)
    some ⟨a, s.hostNat a 2, s.hostNat (a + 2) 2, s.hostNat (a + 8) 8, s.hostNat (a + 16) 4⟩

/-- A parameter of an entry: `n` bytes from byte `off` of the 44 on. Where the parameters of a command lie among them is not given
(log entry 99). -/
def State.param (s : State) (e : AdminEntry) (off n : Nat) : Nat := s.hostNat (e.at_ + 20 + off) n

/-- The buffer and the parameters of an entry are zero. -/
def State.unused (s : State) (e : AdminEntry) : Bool := e.buf == 0 && e.len == 0 && (s.hostBytes (e.at_ + 20) 44).all (· == 0)

/-- The command of an entry, with the parameters that its event carries. -/
def State.command (s : State) (e : AdminEntry) : Instr :=
  match e.opcode with
  | 0x01 => .features (s.param e 0 16)
  | 0x02 => .resync e.buf
  | 0x03 => if (s.param e 0 4).testBit 0 then .clearSlip else .clearErrors
  | 0x04 => .fwLoad e.buf e.len
  | 0x05 => .spdm (s.hostBytes e.buf e.len)
  | 0x06 =>
    if (s.param e 0 4).testBit 0 then .traceReadout (s.param e 4 2) e.buf
    else .trace (s.param e 4 2) (s.param e 6 1) (s.param e 7 1) (s.param e 8 1) (BitVec.ofNat 64 (s.param e 12 8)) (s.param e 10 2)
  | 0x07 => .power (s.param e 0 4)
  | 0x08 => .fwActivate (s.unused e)
  | op => .adminUnsupported op

/-- The command that is next in the ring. -/
def State.nextCommand (s : State) : Option Instr := s.adminEntry.map s.command

/-- An MSI-X vector is raised, unless it is masked (64 and up in `msix`). -/
def State.raiseVector (s : State) (v : Nat) : State := if s.msix.get false (64 + v) then s else { s with msix := s.msix.set false v true }

/-- Run one admin command, if it is the next in the ring: it takes its entry, writes a completion and raises vector 0. -/
def State.admin (s : State) (cmd : Instr) (f : AdminEntry → State → State × Nat × Word) : State :=
  match s.adminEntry with
  | none => s
  | some e =>
    if s.command e ≠ cmd then s
    else
      let r := f e { s with adminHead := s.adminHead + 1 }
      ({ r.1 with completions := r.1.completions ++ [⟨e.id, r.2.1, r.2.2⟩] } : State).raiseVector 0

/-- The 16 bytes of a completion: the identifier, the status and the result, in order (log entry 99). -/
def Completion.bytes (k : Completion) : List Byte := toBytes 2 k.id ++ toBytes 6 k.status ++ toBytes 8 k.result.toNat

/-- FEATURES (R331): one answer before the next reset. -/
def execFeatures (word : Nat) (st : State) : Out :=
  let a := BitVec.ofNat 128 word
  .next (st.admin (.features word) fun _ s =>
    let t := { s with featuresTried := true }
    if s.featuresTried then (s, statusBusy, 0)
    else if a &&& ~~~s.offered = 0 then ({ t with accepted := some a }, statusOk, 0)
    else (t, statusInvalid, 0))

/-! ### RESYNC (R333) -/

def bytes8 (w : Word) : List Byte := toBytes 8 w.toNat

/-- A snapshot range register (R271). -/
def State.snapBytes (s : State) (r : Nat) : List Byte :=
  match s.snaps.look r with
  | none => toBytes 16 0
  | some k => toBytes 16 (k.gen.toNat * 2 ^ 96 + 2 ^ 80 + k.level * 2 ^ 77 + k.owner * 2 ^ 64 + k.len * 2 ^ 42 + k.base)

/-- Contexts of a core that hold a task, as four bits. -/
def State.taskBits (s : State) (c : Nat) : Nat :=
  [0, 1, 2, 3].foldl (fun n x => n + if (s.ctx c x).task.isSome then 2 ^ x else 0) 0

/-- A link as fields. -/
def Link.fields (l : Link) : List Nat := [if l.trained then 1 else 0, if l.disabled then 1 else 0, l.farPeer, l.farPort, l.retrains]

/-- A bank that holds no image. -/
def Bank.empty : Bank := ⟨false, 0, 0, some []⟩

/-- The firmware image that runs. -/
def State.activeBank (s : State) : Bank := s.banks.get Bank.empty s.bank

/-- The 4 KiB summary. The words of links and of the time lock hold the fields that R333 names in a layout that it does not give. -/
def State.summary (s : State) : List Byte :=
  bytes8 Config.devid ++ toBytes 8 s.activeBank.version ++ toBytes 8 s.activeBank.rollback ++ toBytes 8 s.resets ++
  toBytes 16 s.offered.toNat ++ toBytes 16 (s.accepted.getD 0).toNat ++
  ([0, 1, 2, 3].flatMap fun d => bytes8 (s.slipWord d)) ++
  ((List.range 16).flatMap fun i => toBytes 4 (s.ecc.get 0 i).toNat) ++ List.replicate 96 0 ++
  ((List.range 64).flatMap fun n => bytes8 (s.qslot n).word0 ++ bytes8 (s.qslot n).word1) ++
  ((List.range 16).flatMap s.snapBytes) ++
  ((List.range 128).flatMap fun i => toBytes 1 (s.taskBits (2 * i) + 16 * s.taskBits (2 * i + 1))) ++
  ((List.range 12).flatMap fun p => bytes8 (Config.summaryWord p (s.link p).fields)) ++
  bytes8 (Config.summaryWord 12 [if s.timeLocked then 1 else 0, s.timeOffset.natAbs / 360360, if s.timeOffset < 0 then 1 else 0]) ++
  bytes8 (Config.summaryWord 13 [if s.timeLocked then 1 else 0, s.timeOffset.natAbs / 360360, if s.timeOffset < 0 then 1 else 0]) ++
  toBytes 4 s.refusedFlags.toNat ++ toBytes 4 s.skippedRecords.toNat ++ toBytes 4 s.doubleFaults.toNat ++ toBytes 4 s.badDoorbells.toNat ++
  ([0, 1, 2, 3].flatMap fun d => toBytes 4 (s.poolUse d)) ++ List.replicate 2288 0

/-- Write bytes into a buffer of the host. -/
def State.toHost (s : State) (buf : Nat) (bs : List Byte) : State :=
  { s with hostMem := ((List.range bs.length).zip bs).foldl (fun t e => t.set 0 (buf + e.1) e.2) s.hostMem }

def execResync (buf : Nat) (st : State) : Out := .next (st.admin (.resync buf) fun _ s => (s.toHost buf s.summary, statusOk, 0))

/-- CLEAR of the slip counters where bit 0 is set, of the error counters where bit 1 is. -/
def State.cleared (s : State) (slip errors : Bool) : State :=
  { s with slips := if slip then [] else s.slips, ecc := if errors then [] else s.ecc }

/-- CLEAR with bit 0. -/
def execClearSlip (st : State) : Out := .next (st.admin .clearSlip fun e s => (s.cleared true ((s.param e 0 4).testBit 1), statusOk, 0))

/-- CLEAR without bit 0. -/
def execClearErrors (st : State) : Out := .next (st.admin .clearErrors fun e s => (s.cleared false ((s.param e 0 4).testBit 1), statusOk, 0))

/-! ### Firmware (R334) -/

/-- Bytes of an ML-DSA-44 signature (R334) and public key (of the standard; log entry 100). -/
def signatureBytes : Nat := 2420
def keyBytes : Nat := 1312

/-- A field of an image's header of 64 bytes. Only the fields are given, not their places (log entry 100). -/
def imageField (bs : List Byte) (off n : Nat) : Nat := ofBytes ((bs.drop off).take n)

def imageVersion (bs : List Byte) : Nat := imageField bs 8 8
def imageRollback (bs : List Byte) : Nat := imageField bs 16 8
def imageBody (bs : List Byte) : Nat := imageField bs 24 8

/-- An image with its key verifies: its magic and length, the hash of its key, the signature over its header and body. -/
def imageOk (bs : List Byte) : Bool :=
  let n := 64 + imageBody bs
  let key := (bs.drop (n + signatureBytes)).take keyBytes
  imageField bs 0 4 == 0x51465751 && decide (n + signatureBytes + keyBytes ≤ bs.length) && Config.sha3 key == Config.fusedKey &&
    Config.signed key (Config.sha3 (bs.take n)) ((bs.drop n).take signatureBytes)

/-- FW_LOAD: the image in the host buffer goes to the bank that does not run, and is verified. -/
def execFwLoad (buf len : Nat) (st : State) : Out :=
  .next (st.admin (.fwLoad buf len) fun _ s =>
    let bs := s.hostBytes buf len
    let ok := imageOk bs && decide (s.fusedRollback ≤ imageRollback bs)
    ({ s with banks := s.banks.put (1 - s.bank) ⟨ok, imageVersion bs, imageRollback bs, some bs⟩ }, if ok then statusOk else statusAuthFail, 0))

/-- Some context holds a task, or some task is saved. -/
def State.anyTask (s : State) : Bool := s.cores.any fun e => e.2.holdsTask || !e.2.saved.isEmpty

/-- FW_ACTIVATE: the verified bank for the device reset that completes it (R340). -/
def execFwActivate (unused : Bool) (st : State) : Out :=
  .next (st.admin (.fwActivate unused) fun _ s =>
    if !unused then (s, statusInvalid, 0)
    else if s.anyTask then (s, statusBusy, 0)
    else if (s.banks.get Bank.empty (1 - s.bank)).valid then (({ s with nextBank := 1 - s.bank } : State).post [.deviceReset], statusOk, 0)
    else (s, statusInvalid, 0))

/-! ### Attestation (R335) -/

/-- The flows that are answered: request codes with the codes of their responses (of the SPDM standard; log entry 101). -/
def spdmFlows : List (Nat × Nat) :=
  [(0x84, 0x04), (0xE1, 0x61), (0xE3, 0x63), (0x81, 0x01), (0x82, 0x02), (0x83, 0x03), (0xE0, 0x60), (0xE4, 0x64), (0xE5, 0x65), (0xE9, 0x69)]

/-- The image that runs, and the cabling table, as bytes. -/
def State.cablingBytes (s : State) : List Byte := (List.range 12).flatMap fun p => toBytes 8 (s.cabling.get 0 p).toNat

/-- The measurements: the hashes of the boot code, the active image and the cabling table. -/
def State.measurements (s : State) : List Nat :=
  [Config.bootHash, Config.sha3 (s.activeBank.image.getD []), Config.sha3 s.cablingBytes]

/-- The algorithms: of signatures, of hashes, of key agreement. -/
def spdmAlgorithms : List SpdmAlgorithm := [.mlDsa44, .sha3, .mlKem768]

/-- What NEGOTIATE_ALGORITHMS (0xE3) leaves negotiated; GET_VERSION (0x84) begins anew. -/
def State.negotiated (s : State) (code : Nat) : List SpdmAlgorithm :=
  if code = 0xE3 then spdmAlgorithms else if code = 0x84 then [] else s.algorithms

/-- The parts of an answer that are given: the identifiers of the algorithms that it selects, the three measurements of GET_MEASUREMENTS (0xE0). -/
def State.spdmGiven (s : State) (code : Nat) : List Byte :=
  if code = 0xE3 then (List.range 3).flatMap Config.algorithmId
  else if code = 0xE0 then s.measurements.flatMap (toBytes 32)
  else []

/-- The answer to an SPDM message: version 1.3 and the code of the response, or of an error for a request that is not listed; then the parts that
are given; the rest is not (log entry 101). -/
def State.spdmAnswer (s : State) (msg : List Byte) : State × List Byte :=
  let code := (msg.getD 1 0).toNat
  match spdmFlows.find? fun f => f.1 == code with
  | none => (s, [0x13, 0x7F, 0x07, msg.getD 1 0])
  | some (_, r) =>
    ({ s with spdm := if code = 0x84 then [code] else s.spdm ++ [code], algorithms := s.negotiated code, freeUse := s.freeUse + 1 },
      [0x13, BitVec.ofNat 8 r] ++ s.spdmGiven code ++ Config.spdmBody msg s.spdm s.measurements s.freeUse)

/-- SPDM: the message stands in the host buffer, and so does the answer. -/
def execSpdm (msg : List Byte) (st : State) : Out :=
  .next (st.admin (.spdm msg) fun e s =>
    let r := s.spdmAnswer msg
    (r.1.toHost e.buf r.2, statusOk, BitVec.ofNat 64 r.2.length))

def execDoeMailboxMessage (msg : List Byte) (st : State) : Out :=
  let r := st.spdmAnswer msg
  .next { r.1 with mailbox := r.2 }

/-! ### Trace (R337, R338) -/

/-- TRACE: classes, trigger and post-count of a context; the buffer is armed. -/
def execTrace (core ctx classes trigger : Nat) (arg : Word) (post : Nat) (st : State) : Out :=
  .next (st.admin (.trace core ctx classes trigger arg post) fun _ s =>
    if core < 256 ∧ ctx < 4 ∧ classes < 8 ∧ trigger < 4 ∧ post < 4096 then
      (s.modCore core fun k => { k with trace := k.trace.put ctx ⟨BitVec.ofNat 3 classes, trigger, arg, post⟩, traceState := .armed }, statusOk, 0)
    else (s, statusInvalid, 0))

/-- A trace record in memory. -/
def TraceRec.bytes (r : TraceRec) : List Byte :=
  bytes8 (BitVec.ofNat 64 (r.cls % 4 * 2 ^ 62 + r.ctx % 4 * 2 ^ 60 + r.data.toNat)) ++ bytes8 r.time

/-- TRACE with bit 0: the records go to the host, oldest first (log entry 71), and the buffer is armed again. -/
def execTraceReadout (core buf : Nat) (st : State) : Out :=
  .next (st.admin (.traceReadout core buf) fun _ s =>
    if core < 256 then
      ((s.toHost buf ((s.core core).traceBuf.reverse.flatMap TraceRec.bytes)).modCore core fun k => { k with traceBuf := [], traceState := .armed },
        statusOk, 0)
    else (s, statusInvalid, 0))

/-- TRACE_TRIGGER: TIME.dom has reached the value of an armed trigger. Triggers on events fire with their event (Ops). -/
def execTraceTrigger (core : Nat) (st : State) : Out :=
  let k := st.core core
  .next (match (if k.traceState = .armed then k.trace.find? fun e => e.2.trigger == 3 && decide (e.2.arg.toNat ≤ st.timeDom.toNat) else none) with
    | none => st
    | some (x, cfg) => st.modCore core fun k =>
        { k with traceState := .counting cfg.post, traceBuf := (⟨st.timeDom, 3, x, cfg.arg.setWidth 40⟩ :: k.traceBuf).take 4096 })

/-- TRACE_BUFFER_FREEZE: the post-count is exhausted. -/
def execTraceBufferFreeze (core : Nat) (st : State) : Out :=
  .next (if (st.core core).traceState = .counting 0 then st.modCore core fun k => { k with traceState := .frozen } else st)

/-! ### Power (R339) -/

/-- POWER: the cap, from 900 W to 1,900 W. -/
def execPower (watts : Nat) (st : State) : Out :=
  .next (st.admin (.power watts) fun _ s =>
    if 900 ≤ watts ∧ watts ≤ 1900 then ({ s with powerCap := watts }, statusOk, 0) else (s, statusInvalid, 0))

/-- Cores that the cap may gate, from the highest number down. -/
def State.toGate (s : State) : Option Nat := ((List.range 256).reverse).find? fun c => !(s.core c).gated && s.mayGate c

/-- POWER_THROTTLE: a clock in steps of 125 MHz from 875 to 1,750; above the cap at the lowest clock, idle cores are gated one by one;
under it again, gated cores that a dispatch has named wake. -/
def execPowerThrottle (mhz : Nat) (overCap : Bool) (st : State) : Out :=
  let clock := if 875 ≤ mhz ∧ mhz ≤ 1750 ∧ mhz % 125 = 0 then mhz else st.mhz
  let exceeds := overCap && clock == 875
  let s := { st with mhz := clock, overCap := exceeds }
  .next (if exceeds then (match s.toGate with | none => s | some c => (s.modCore c fun k => { k with capGated := true }).post [.corePowerGate c])
    else s.post ((s.cores.filter fun e => e.2.gated && e.2.holdsTask).map fun e => .coreWake e.1))

/-! ### Other commands and resets (R332, R340) -/

def execAdminUnsupported (opcode : Nat) (st : State) : Out := .next (st.admin (.adminUnsupported opcode) fun _ s => (s, statusUnsupported, 0))

/-- The boot code verifies the image of a bank. Whether the image that the part came with verifies is a free value. -/
def State.bankOk (s : State) (b : Nat) : Bool :=
  match (s.banks.get Bank.empty b).image with | some bs => imageOk bs | none => Config.freeBool s.freeUse

/-- The bank that boots: the selected one, or the other where its check fails (R334). -/
def State.bootBank (s : State) : Nat := if s.bankOk s.nextBank then s.nextBank else 1 - s.nextBank

/-- What outlives a device reset: the part, its banks, the bank last activated and the fuses, the host's memory and the completions there, what it has
sent; the free values go on. -/
def State.rebooted (s : State) : State :=
  { State.reset with
    peer := s.peer, disabledCores := s.disabledCores, banks := s.banks, bank := s.bootBank, nextBank := s.nextBank, fusedRollback := s.fusedRollback
    completions := s.completions, hostMem := s.hostMem, adminBase := s.adminBase, outbox := s.outbox, routed := s.outbox.length
    freeUse := s.freeUse + 1 }

/-- DEVICE_RESET: near, far and host memory keep their bytes and marks, the slices are cleared, no handle survives. -/
def execDeviceReset (st : State) : Out :=
  .next { st.rebooted with
    mem := st.mem.filter fun e => paTier e.1 != 2
    poison := st.poison.filter fun e => paTier (e.1 * 32) != 2
    resets := st.resets + 1 }

/-- POWER_ON_RESET: as a device reset; nothing has written memory yet (log entry 1), the resets count from 0. -/
def execPowerOnReset (st : State) : Out := .next { st.rebooted with resets := 0 }

/-- CXL_RESET: the bridge issues REJOIN, and its halves return to HI and DI as the homes learn of it; a memory clear clears far memory. -/
def execCxlReset (clear : Bool) (st : State) : Out :=
  let s := { st with incOwn := st.incOwn.set false bridgeAgent (!st.inc bridgeAgent) }
  let s := s.post ((List.range 128).map fun k => .rejoinNotice bridgeAgent k)
  .next (if clear then
      { s with
        mem := s.mem.filter fun e => paTier e.1 != 0
        tags := s.tags.filter fun e => paTier (e.1 * 8) != 0
        poison := s.poison.filter fun e => paTier (e.1 * 32) != 0 }
    else s)

/-- A doorbell on its way. -/
def isDoorbell : Instr → Bool
  | .doorbell _ _ => true
  | .adminDoorbell _ => true
  | _ => false

/-- FUNCTION_LEVEL_RESET: the admin queue and the mailbox are empty, every vector masked, doorbells discarded, slots unmapped, the feature word
dropped and offered again. -/
def execFunctionLevelReset (st : State) : Out :=
  .next { st with
    adminHead := st.adminTail
    mailbox := []
    spdm := []
    algorithms := []
    featuresTried := false
    msix := (List.range 64).foldl (fun t v => t.set false (64 + v) true) []
    agenda := st.agenda.filter fun e => !isDoorbell e
    slots := st.slots.map fun e => (e.1, { e.2 with mapped := false })
    accepted := none }

end Sys2Proof.Machine
end

