-- ==== Sys2Proof/Machine/Integer.lean ====
section
/-! DEFINITION. The integer and compare forms (R139 to R146).

`int3` and `int3w` are the register forms on 64 and on 32 bits, `int2` the forms of one operand, `intI` and `intIw` the immediate
forms; the clusters are R92's, the latencies R97's. -/

namespace Sys2Proof.Machine

/-! ### Shared operations -/

/-- A 64-bit register form. -/
def int3 (g : BitVec 4) (d s t : BitVec 5) (lat : Nat) (f : Word → Word → Word) (st : State) : Out :=
  guarded g st fun z => .ok (z.wrX d (f (z.opX s) (z.opX t)) lat)

/-- A .w variant on two values: the low 32 bits, the result sign-extended (R139). -/
def onW (f : BitVec 32 → BitVec 32 → BitVec 32) (x y : Word) : Word := (f (x.setWidth 32) (y.setWidth 32)).signExtend 64

def int3w (g : BitVec 4) (d s t : BitVec 5) (lat : Nat) (f : BitVec 32 → BitVec 32 → BitVec 32) (st : State) : Out :=
  int3 g d s t lat (onW f) st

/-- A form of one operand. -/
def int2 (g : BitVec 4) (d s : BitVec 5) (f : Word → Word) (st : State) : Out :=
  guarded g st fun z => .ok (z.wrX d (f (z.opX s)) 1)

/-- An immediate form (R143): the register form with the immediate in place of X[t]. -/
def intI (g : BitVec 4) (d s : BitVec 5) (imm : Word) (f : Word → Word → Word) (st : State) : Out :=
  guarded g st fun z => .ok (z.wrX d (f (z.opX s) imm) 1)

/-- Bits [127:64] of the signed and of the unsigned product. -/
def mulHigh (x y : Word) : Word := (x.signExtend 128 * y.signExtend 128).extractLsb' 64 64
def mulHighU (x y : Word) : Word := (x.setWidth 128 * y.setWidth 128).extractLsb' 64 64

/-- Quotients and remainders of R142, at either width. -/
def quotS {n : Nat} (x y : BitVec n) : BitVec n := if y = 0 then BitVec.allOnes n else x.sdiv y
def quotU {n : Nat} (x y : BitVec n) : BitVec n := if y = 0 then BitVec.allOnes n else x / y
def remS {n : Nat} (x y : BitVec n) : BitVec n := if y = 0 then x else x.srem y
def remU {n : Nat} (x y : BitVec n) : BitVec n := if y = 0 then x else x % y

/-- Shifts and the rotation by the low six or five bits of the count (R141). -/
def shlBy {n : Nat} (x y : BitVec n) : BitVec n := x <<< (y.toNat % n)
def shrBy {n : Nat} (x y : BitVec n) : BitVec n := x >>> (y.toNat % n)
def sraBy {n : Nat} (x y : BitVec n) : BitVec n := x.sshiftRight (y.toNat % n)
def rotrBy {n : Nat} (x y : BitVec n) : BitVec n := x.rotateRight (y.toNat % n)

/-- Leading zeros, trailing zeros, set bits. -/
def clz64 (x : Word) : Word := if x = 0 then 64 else BitVec.ofNat 64 (63 - x.toNat.log2)
def ctz64 (x : Word) : Word := BitVec.ofNat 64 (((List.range 64).find? fun k => x.getLsbD k).getD 64)
def popc64 (x : Word) : Word := BitVec.ofNat 64 ((List.range 64).filter fun k => x.getLsbD k).length

def minS (x y : Word) : Word := if y.slt x then y else x
def maxS (x y : Word) : Word := if x.slt y then y else x
def minU (x y : Word) : Word := if y.ult x then y else x
def maxU (x y : Word) : Word := if x.ult y then y else x

/-- A condition of R106 on two register values (R145). -/
def Cond.holds (c : Cond) (x y : Word) : Bool :=
  match c with
  | .eq => x == y | .ne => x != y
  | .lt => x.slt y | .le => x.sle y | .gt => y.slt x | .ge => y.sle x
  | .ltu => x.ult y | .leu => x.ule y | .gtu => y.ult x | .geu => y.ule x

/-- CMP and CMPI (R145). -/
def compare (g : BitVec 4) (d : BitVec 3) (c : Cond) (s : BitVec 5) (y : State → Word) (st : State) : Out :=
  guarded g st fun z => .ok (z.wrP d (c.holds (z.opX s) (y z)) 1)

/-! ### Register forms (R141) -/

def execAdd (g : BitVec 4) (d s t : BitVec 5) (st : State) : Out := int3 g d s t 1 (· + ·) st
def execAddW (g : BitVec 4) (d s t : BitVec 5) (st : State) : Out := int3w g d s t 1 (· + ·) st
def execSub (g : BitVec 4) (d s t : BitVec 5) (st : State) : Out := int3 g d s t 1 (· - ·) st
def execSubW (g : BitVec 4) (d s t : BitVec 5) (st : State) : Out := int3w g d s t 1 (· - ·) st
def execMul (g : BitVec 4) (d s t : BitVec 5) (st : State) : Out := int3 g d s t 3 (· * ·) st
def execMulW (g : BitVec 4) (d s t : BitVec 5) (st : State) : Out := int3w g d s t 3 (· * ·) st
def execMulh (g : BitVec 4) (d s t : BitVec 5) (st : State) : Out := int3 g d s t 3 mulHigh st
def execMulhu (g : BitVec 4) (d s t : BitVec 5) (st : State) : Out := int3 g d s t 3 mulHighU st
def execDiv (g : BitVec 4) (d s t : BitVec 5) (st : State) : Out := int3 g d s t 20 quotS st
def execDivW (g : BitVec 4) (d s t : BitVec 5) (st : State) : Out := int3w g d s t 12 quotS st
def execDivu (g : BitVec 4) (d s t : BitVec 5) (st : State) : Out := int3 g d s t 20 quotU st
def execDivuW (g : BitVec 4) (d s t : BitVec 5) (st : State) : Out := int3w g d s t 12 quotU st
def execRem (g : BitVec 4) (d s t : BitVec 5) (st : State) : Out := int3 g d s t 20 remS st
def execRemW (g : BitVec 4) (d s t : BitVec 5) (st : State) : Out := int3w g d s t 12 remS st
def execRemu (g : BitVec 4) (d s t : BitVec 5) (st : State) : Out := int3 g d s t 20 remU st
def execRemuW (g : BitVec 4) (d s t : BitVec 5) (st : State) : Out := int3w g d s t 12 remU st
def execAnd (g : BitVec 4) (d s t : BitVec 5) (st : State) : Out := int3 g d s t 1 (· &&& ·) st
def execOr (g : BitVec 4) (d s t : BitVec 5) (st : State) : Out := int3 g d s t 1 (· ||| ·) st
def execXor (g : BitVec 4) (d s t : BitVec 5) (st : State) : Out := int3 g d s t 1 (· ^^^ ·) st
def execShl (g : BitVec 4) (d s t : BitVec 5) (st : State) : Out := int3 g d s t 1 shlBy st
def execShlW (g : BitVec 4) (d s t : BitVec 5) (st : State) : Out := int3w g d s t 1 shlBy st
def execShr (g : BitVec 4) (d s t : BitVec 5) (st : State) : Out := int3 g d s t 1 shrBy st
def execShrW (g : BitVec 4) (d s t : BitVec 5) (st : State) : Out := int3w g d s t 1 shrBy st
def execSra (g : BitVec 4) (d s t : BitVec 5) (st : State) : Out := int3 g d s t 1 sraBy st
def execSraW (g : BitVec 4) (d s t : BitVec 5) (st : State) : Out := int3w g d s t 1 sraBy st
def execRotr (g : BitVec 4) (d s t : BitVec 5) (st : State) : Out := int3 g d s t 1 rotrBy st
def execRotrW (g : BitVec 4) (d s t : BitVec 5) (st : State) : Out := int3w g d s t 1 rotrBy st
def execMin (g : BitVec 4) (d s t : BitVec 5) (st : State) : Out := int3 g d s t 1 minS st
def execMax (g : BitVec 4) (d s t : BitVec 5) (st : State) : Out := int3 g d s t 1 maxS st
def execMinu (g : BitVec 4) (d s t : BitVec 5) (st : State) : Out := int3 g d s t 1 minU st
def execMaxu (g : BitVec 4) (d s t : BitVec 5) (st : State) : Out := int3 g d s t 1 maxU st
def execClz (g : BitVec 4) (d s : BitVec 5) (st : State) : Out := int2 g d s clz64 st
def execCtz (g : BitVec 4) (d s : BitVec 5) (st : State) : Out := int2 g d s ctz64 st
def execPopc (g : BitVec 4) (d s : BitVec 5) (st : State) : Out := int2 g d s popc64 st
def execSextB (g : BitVec 4) (d s : BitVec 5) (st : State) : Out := int2 g d s (extend true 8) st
def execSextH (g : BitVec 4) (d s : BitVec 5) (st : State) : Out := int2 g d s (extend true 16) st
def execSextW (g : BitVec 4) (d s : BitVec 5) (st : State) : Out := int2 g d s (extend true 32) st
def execZextB (g : BitVec 4) (d s : BitVec 5) (st : State) : Out := int2 g d s (extend false 8) st
def execZextH (g : BitVec 4) (d s : BitVec 5) (st : State) : Out := int2 g d s (extend false 16) st
def execZextW (g : BitVec 4) (d s : BitVec 5) (st : State) : Out := int2 g d s (extend false 32) st

/-- SEL (R146). -/
def execSel (g : BitVec 4) (d s t : BitVec 5) (p : BitVec 4) (st : State) : Out :=
  guarded g st fun z => .ok (z.wrX d (if z.opP p then z.opX s else z.opX t) 1)

/-! ### Comparisons (R145) -/

def execCmpEq (g : BitVec 4) (d : BitVec 3) (s t : BitVec 5) (st : State) : Out :=
  compare g d .eq s (fun z => z.opX t) st
def execCmpNe (g : BitVec 4) (d : BitVec 3) (s t : BitVec 5) (st : State) : Out :=
  compare g d .ne s (fun z => z.opX t) st
def execCmpLt (g : BitVec 4) (d : BitVec 3) (s t : BitVec 5) (st : State) : Out :=
  compare g d .lt s (fun z => z.opX t) st
def execCmpLe (g : BitVec 4) (d : BitVec 3) (s t : BitVec 5) (st : State) : Out :=
  compare g d .le s (fun z => z.opX t) st
def execCmpLtu (g : BitVec 4) (d : BitVec 3) (s t : BitVec 5) (st : State) : Out :=
  compare g d .ltu s (fun z => z.opX t) st
def execCmpLeu (g : BitVec 4) (d : BitVec 3) (s t : BitVec 5) (st : State) : Out :=
  compare g d .leu s (fun z => z.opX t) st
def execCmpiEq (g : BitVec 4) (d : BitVec 3) (s : BitVec 5) (imm : BitVec 13) (st : State) : Out :=
  compare g d .eq s (fun _ => imm.signExtend 64) st
def execCmpiNe (g : BitVec 4) (d : BitVec 3) (s : BitVec 5) (imm : BitVec 13) (st : State) : Out :=
  compare g d .ne s (fun _ => imm.signExtend 64) st
def execCmpiLt (g : BitVec 4) (d : BitVec 3) (s : BitVec 5) (imm : BitVec 13) (st : State) : Out :=
  compare g d .lt s (fun _ => imm.signExtend 64) st
def execCmpiLe (g : BitVec 4) (d : BitVec 3) (s : BitVec 5) (imm : BitVec 13) (st : State) : Out :=
  compare g d .le s (fun _ => imm.signExtend 64) st
def execCmpiLtu (g : BitVec 4) (d : BitVec 3) (s : BitVec 5) (imm : BitVec 13) (st : State) : Out :=
  compare g d .ltu s (fun _ => imm.signExtend 64) st
def execCmpiLeu (g : BitVec 4) (d : BitVec 3) (s : BitVec 5) (imm : BitVec 13) (st : State) : Out :=
  compare g d .leu s (fun _ => imm.signExtend 64) st
def execCmpiGt (g : BitVec 4) (d : BitVec 3) (s : BitVec 5) (imm : BitVec 13) (st : State) : Out :=
  compare g d .gt s (fun _ => imm.signExtend 64) st
def execCmpiGe (g : BitVec 4) (d : BitVec 3) (s : BitVec 5) (imm : BitVec 13) (st : State) : Out :=
  compare g d .ge s (fun _ => imm.signExtend 64) st
def execCmpiGtu (g : BitVec 4) (d : BitVec 3) (s : BitVec 5) (imm : BitVec 13) (st : State) : Out :=
  compare g d .gtu s (fun _ => imm.signExtend 64) st
def execCmpiGeu (g : BitVec 4) (d : BitVec 3) (s : BitVec 5) (imm : BitVec 13) (st : State) : Out :=
  compare g d .geu s (fun _ => imm.signExtend 64) st

/-! ### Immediate forms (R143, R144) -/

def execAddi (g : BitVec 4) (d s : BitVec 5) (imm : BitVec 15) (st : State) : Out :=
  intI g d s (imm.signExtend 64) (· + ·) st
def execAndi (g : BitVec 4) (d s : BitVec 5) (imm : BitVec 15) (st : State) : Out :=
  intI g d s (imm.signExtend 64) (· &&& ·) st
def execOri (g : BitVec 4) (d s : BitVec 5) (imm : BitVec 15) (st : State) : Out :=
  intI g d s (imm.signExtend 64) (· ||| ·) st
def execXori (g : BitVec 4) (d s : BitVec 5) (imm : BitVec 15) (st : State) : Out :=
  intI g d s (imm.signExtend 64) (· ^^^ ·) st
def execAddiW (g : BitVec 4) (d s : BitVec 5) (imm : BitVec 15) (st : State) : Out :=
  intI g d s (imm.signExtend 64) (onW (· + ·)) st
def execShli (g : BitVec 4) (d s : BitVec 5) (imm : BitVec 6) (st : State) : Out :=
  intI g d s (imm.setWidth 64) shlBy st
def execShliW (g : BitVec 4) (d s imm : BitVec 5) (st : State) : Out :=
  intI g d s (imm.setWidth 64) (onW shlBy) st
def execShri (g : BitVec 4) (d s : BitVec 5) (imm : BitVec 6) (st : State) : Out :=
  intI g d s (imm.setWidth 64) shrBy st
def execShriW (g : BitVec 4) (d s imm : BitVec 5) (st : State) : Out :=
  intI g d s (imm.setWidth 64) (onW shrBy) st
def execSrai (g : BitVec 4) (d s : BitVec 5) (imm : BitVec 6) (st : State) : Out :=
  intI g d s (imm.setWidth 64) sraBy st
def execSraiW (g : BitVec 4) (d s imm : BitVec 5) (st : State) : Out :=
  intI g d s (imm.setWidth 64) (onW sraBy) st

def execMovi (g : BitVec 4) (d : BitVec 5) (imm : BitVec 21) (st : State) : Out :=
  guarded g st fun z => .ok (z.wrX d (imm.signExtend 64) 1)

def execMovhi (g : BitVec 4) (d : BitVec 5) (imm : BitVec 21) (st : State) : Out :=
  guarded g st fun z => .ok (z.wrX d ((z.opX d <<< 21) ||| imm.setWidth 64) 1)

end Sys2Proof.Machine
end

