-- ==== Sys2Proof/Machine/LocalStore.lean ====
section
/-! DEFINITION. Local-store loads and stores (R158, R159). They may stand in slots 2 and 3, on the b file. -/

namespace Sys2Proof.Machine

/-- The bytes of the local store as they stood before the bundle (R103). -/
def State.lsBefore (s : State) (o n : Nat) : Nat := ofBytes ((List.range n).map fun i => s.iss.ls.get 0 (o + i))

/-- The full bit of a granule before the bundle. -/
def State.fullBefore (s : State) (o : Nat) : Bool := s.iss.full.get false (o / 16)

/-- The full/empty variants: none; a load that waits for full and leaves or clears the bit; a store that sets the bit, at once or
once it is empty. -/
inductive Fe where
  | plain | fw | fc | fs | fe
  deriving DecidableEq, Repr

/-- What the variant waits for (R158): full for a load, empty for STS.fe. -/
def Fe.waits (f : Fe) (full : Bool) : Bool :=
  match f with
  | .plain => false
  | .fw => !full
  | .fc => !full
  | .fs => false
  | .fe => full

/-- A wait joins those of the bundle; one that goes on keeps the cycle in which it began. -/
def addWait (w : FeWait) (ws : List FeWait) : List FeWait := if ws.any (fun v => v.slot == w.slot) then ws else ws ++ [w]

/-- A full/empty wait whose condition holds is over (R159): a later one of its bundle begins anew. -/
def Core.dropWaits (k : Core) (x : Nat) : Core :=
  k.modCtx x fun y => { y with feWait := y.feWait.filter fun w => k.isFull (y.winBase + w.addr.toNat) != w.full }

/-- Block while the granule is not as the variant asks; the cycle in which the wait began stays known (R159). -/
def feBlock (f : Fe) (o : Nat) (a : Word) (s : State) : Eff Unit :=
  if f.waits (s.fullBefore o) then
    .error (.block (s.modMe fun x => { x with feWait := addWait ⟨s.cycle, s.iss.slot, a, f != .fe⟩ x.feWait }))
  else .ok ()

/-- A load of the local store. -/
def loadLs (g : BitVec 4) (d : BitVec 5) (ea : State → Word) (size : Nat) (signed : Bool) (f : Fe) (st : State) : Out :=
  guarded g st fun z => do
    let o ← lsAddr z (ea z) size
    afterAcquires z
    blockIf (z.lsWaits o size false) z
    feBlock f o (ea z) z
    let z := z.wrB d (widen signed size (z.lsBefore o size)) 3
    .ok (if f = .fc then z.modMyCore fun k => k.setFull o false else z)

/-- A store to the local store: a tagged word is not written over (R54), nor one that slot 2 has just tagged (log entry 86). -/
def storeLs (g : BitVec 4) (d : BitVec 5) (ea : State → Word) (size : Nat) (f : Fe) (st : State) : Out :=
  guarded g st fun z => do
    let o ← lsAddr z (ea z) size
    trapIf (z.iss.tags.get false (o / 8) || z.myCore.lsTag o) .handleClobber (ea z)
    afterAcquires z
    blockIf (z.lsWaits o size true) z
    feBlock f o (ea z) z
    let v := (z.opB d).toNat
    .ok (z.modMyCore fun k => let k := k.lsWrite o size v; if f = .plain then k else k.setFull o true)

/-- Effective addresses of the offset and the indexed forms (R156). -/
def eaOff (s : BitVec 5) (off : BitVec 12) (size : Nat) (z : State) : Word := offsetEa (z.opB s) off size
def eaIdx (s t : BitVec 5) (z : State) : Word := z.opB s + z.opB t

/-! ### Loads -/

def execLdsD (g : BitVec 4) (d s : BitVec 5) (off : BitVec 12) (st : State) : Out :=
  loadLs g d (eaOff s off 8) 8 false .plain st
def execLdsW (g : BitVec 4) (d s : BitVec 5) (off : BitVec 12) (st : State) : Out :=
  loadLs g d (eaOff s off 4) 4 true .plain st
def execLdsWu (g : BitVec 4) (d s : BitVec 5) (off : BitVec 12) (st : State) : Out :=
  loadLs g d (eaOff s off 4) 4 false .plain st
def execLdsH (g : BitVec 4) (d s : BitVec 5) (off : BitVec 12) (st : State) : Out :=
  loadLs g d (eaOff s off 2) 2 true .plain st
def execLdsHu (g : BitVec 4) (d s : BitVec 5) (off : BitVec 12) (st : State) : Out :=
  loadLs g d (eaOff s off 2) 2 false .plain st
def execLdsB (g : BitVec 4) (d s : BitVec 5) (off : BitVec 12) (st : State) : Out :=
  loadLs g d (eaOff s off 1) 1 true .plain st
def execLdsBu (g : BitVec 4) (d s : BitVec 5) (off : BitVec 12) (st : State) : Out :=
  loadLs g d (eaOff s off 1) 1 false .plain st
def execLdsFw (g : BitVec 4) (d s : BitVec 5) (off : BitVec 12) (st : State) : Out :=
  loadLs g d (eaOff s off 8) 8 false .fw st
def execLdsFc (g : BitVec 4) (d s : BitVec 5) (off : BitVec 12) (st : State) : Out :=
  loadLs g d (eaOff s off 8) 8 false .fc st
def execLdsXD (g : BitVec 4) (d s t : BitVec 5) (st : State) : Out :=
  loadLs g d (eaIdx s t) 8 false .plain st
def execLdsXW (g : BitVec 4) (d s t : BitVec 5) (st : State) : Out :=
  loadLs g d (eaIdx s t) 4 true .plain st
def execLdsXWu (g : BitVec 4) (d s t : BitVec 5) (st : State) : Out :=
  loadLs g d (eaIdx s t) 4 false .plain st
def execLdsXH (g : BitVec 4) (d s t : BitVec 5) (st : State) : Out :=
  loadLs g d (eaIdx s t) 2 true .plain st
def execLdsXHu (g : BitVec 4) (d s t : BitVec 5) (st : State) : Out :=
  loadLs g d (eaIdx s t) 2 false .plain st
def execLdsXB (g : BitVec 4) (d s t : BitVec 5) (st : State) : Out :=
  loadLs g d (eaIdx s t) 1 true .plain st
def execLdsXBu (g : BitVec 4) (d s t : BitVec 5) (st : State) : Out :=
  loadLs g d (eaIdx s t) 1 false .plain st

/-! ### Stores -/

def execStsD (g : BitVec 4) (d s : BitVec 5) (off : BitVec 12) (st : State) : Out :=
  storeLs g d (eaOff s off 8) 8 .plain st
def execStsW (g : BitVec 4) (d s : BitVec 5) (off : BitVec 12) (st : State) : Out :=
  storeLs g d (eaOff s off 4) 4 .plain st
def execStsH (g : BitVec 4) (d s : BitVec 5) (off : BitVec 12) (st : State) : Out :=
  storeLs g d (eaOff s off 2) 2 .plain st
def execStsB (g : BitVec 4) (d s : BitVec 5) (off : BitVec 12) (st : State) : Out :=
  storeLs g d (eaOff s off 1) 1 .plain st
def execStsFs (g : BitVec 4) (d s : BitVec 5) (off : BitVec 12) (st : State) : Out :=
  storeLs g d (eaOff s off 8) 8 .fs st
def execStsFe (g : BitVec 4) (d s : BitVec 5) (off : BitVec 12) (st : State) : Out :=
  storeLs g d (eaOff s off 8) 8 .fe st
def execStsXD (g : BitVec 4) (d s t : BitVec 5) (st : State) : Out :=
  storeLs g d (eaIdx s t) 8 .plain st
def execStsXW (g : BitVec 4) (d s t : BitVec 5) (st : State) : Out :=
  storeLs g d (eaIdx s t) 4 .plain st
def execStsXH (g : BitVec 4) (d s t : BitVec 5) (st : State) : Out :=
  storeLs g d (eaIdx s t) 2 .plain st
def execStsXB (g : BitVec 4) (d s t : BitVec 5) (st : State) : Out :=
  storeLs g d (eaIdx s t) 1 .plain st

end Sys2Proof.Machine
end

