-- ==== Sys2Proof/Machine/Predicate.lean ====
section
/-! DEFINITION. The predicate and cross-cluster forms (R147, R148). -/

namespace Sys2Proof.Machine

/-- A predicate form on two predicates. -/
def pred2 (g : BitVec 4) (d : BitVec 3) (s t : BitVec 4) (f : Bool → Bool → Bool) (st : State) : Out :=
  guarded g st fun z => .ok (z.wrP d (f (z.opP s) (z.opP t)) 1)

def execPand (g : BitVec 4) (d : BitVec 3) (s t : BitVec 4) (st : State) : Out := pred2 g d s t (· && ·) st
def execPor (g : BitVec 4) (d : BitVec 3) (s t : BitVec 4) (st : State) : Out := pred2 g d s t (· || ·) st
def execPxor (g : BitVec 4) (d : BitVec 3) (s t : BitVec 4) (st : State) : Out := pred2 g d s t (· != ·) st

def execPnot (g : BitVec 4) (d : BitVec 3) (s : BitVec 4) (st : State) : Out :=
  guarded g st fun z => .ok (z.wrP d (!z.opP s) 1)

/-- XAB: from the a file to the b file, readable from the second bundle after it (R80). -/
def execXab (g : BitVec 4) (d s : BitVec 5) (st : State) : Out :=
  guarded g st fun z => .ok (z.wrB d (z.opA s) 2 true)

/-- XBA: from the b file to the a file. -/
def execXba (g : BitVec 4) (d s : BitVec 5) (st : State) : Out :=
  guarded g st fun z => .ok (z.wrA d (z.opB s) 2 true)

/-- XBA.h: the raw bits of a handle register, 0 for an invalid one. -/
def execXbaH (g : BitVec 4) (d : BitVec 5) (h : BitVec 6) (st : State) : Out :=
  guarded g st fun z => .ok (z.wrA d (match z.opH h with | none => 0 | some v => v.toWord) 2 true)

end Sys2Proof.Machine
end

