-- ==== Sys2Proof/Machine/Dispatch.lean ====
section
/-! DEFINITION. The meaning of every instruction: one arm per constructor of Instr. -/

namespace Sys2Proof.Machine

def exec (i : Instr) (st : State) : Host.Outcome State Fault Refusal :=
  match i with
  | .stallCountElapse core ctx => Sys2Proof.Machine.execStallCountElapse core ctx st
  | .variableResultArrival core ctx isH n v => Sys2Proof.Machine.execVariableResultArrival core ctx isH n v st
  | .trapTake core ctx => Sys2Proof.Machine.execTrapTake core ctx st
  | .taskEnd core ctx => Sys2Proof.Machine.execTaskEnd core ctx st
  | .preemptRequest core ctx => Sys2Proof.Machine.execPreemptRequest core ctx st
  | .quiesceMarkerReturn core ctx eng => Sys2Proof.Machine.execQuiesceMarkerReturn core ctx eng st
  | .matrixCommandTake core => Sys2Proof.Machine.execMatrixCommandTake core st
  | .matrixBlockComplete core => Sys2Proof.Machine.execMatrixBlockComplete core st
  | .tileFetchBlockArrival core => Sys2Proof.Machine.execTileFetchBlockArrival core st
  | .freezeTimeout core => Sys2Proof.Machine.execFreezeTimeout core st
  | .feTimeoutEngine core serial => Sys2Proof.Machine.execFeTimeoutEngine core serial st
  | .feTimeoutScalar core ctx => Sys2Proof.Machine.execFeTimeoutScalar core ctx st
  | .vectorCommandStart core => Sys2Proof.Machine.execVectorCommandStart core st
  | .vectorCommandComplete core => Sys2Proof.Machine.execVectorCommandComplete core st
  | .sfuCommandStart core => Sys2Proof.Machine.execSfuCommandStart core st
  | .sfuCommandComplete core => Sys2Proof.Machine.execSfuCommandComplete core st
  | .copyCommandStart core => Sys2Proof.Machine.execCopyCommandStart core st
  | .copyChunkStart core serial => Sys2Proof.Machine.execCopyChunkStart core serial st
  | .copyChunkComplete core serial bytes => Sys2Proof.Machine.execCopyChunkComplete core serial bytes st
  | .cpyrArrival peer src serial core ctx whole off q bytes => Sys2Proof.Machine.execCpyrArrival peer src serial core ctx whole off q bytes st
  | .copyDestRefusal core serial => Sys2Proof.Machine.execCopyDestRefusal core serial st
  | .tmoveStorageSwitch core serial => Sys2Proof.Machine.execTmoveStorageSwitch core serial st
  | .oldBlocksReturn index => Sys2Proof.Machine.execOldBlocksReturn index st
  | .migrArrival core serial => Sys2Proof.Machine.execMigrArrival core serial st
  | .dropRelease core ctx => Sys2Proof.Machine.execDropRelease core ctx st
  | .dropArrival tile e peer core ctx => Sys2Proof.Machine.execDropArrival tile e peer core ctx st
  | .dropAck core ctx tile => Sys2Proof.Machine.execDropAck core ctx tile st
  | .refillRequest tile peer core ctx => Sys2Proof.Machine.execRefillRequest tile peer core ctx st
  | .refillReply core ctx tile => Sys2Proof.Machine.execRefillReply core ctx tile st
  | .uniquenessQuery tile e peer core ctx => Sys2Proof.Machine.execUniquenessQuery tile e peer core ctx st
  | .uniquenessAnswer core ctx tile unique => Sys2Proof.Machine.execUniquenessAnswer core ctx tile unique st
  | .descriptorRead tile peer core ctx elem => Sys2Proof.Machine.execDescriptorRead tile peer core ctx elem st
  | .descriptorReply core ctx tile words => Sys2Proof.Machine.execDescriptorReply core ctx tile words st
  | .tileAllocate core ctx shape => Sys2Proof.Machine.execTileAllocate core ctx shape st
  | .allocationReply core ctx tile => Sys2Proof.Machine.execAllocationReply core ctx tile st
  | .updateCopyComplete core serial bytes => Sys2Proof.Machine.execUpdateCopyComplete core serial bytes st
  | .updateWriteComplete core serial => Sys2Proof.Machine.execUpdateWriteComplete core serial st
  | .tsealRegionComplete core serial => Sys2Proof.Machine.execTsealRegionComplete core serial st
  | .barrierArrival core ctx unit => Sys2Proof.Machine.execBarrierArrival core ctx unit st
  | .rpostArrival peer src srcCtx core ctx q amount pc => Sys2Proof.Machine.execRpostArrival peer src srcCtx core ctx q amount pc st
  | .rpostAck core post => Sys2Proof.Machine.execRpostAck core post st
  | .rpostRefusal core post pc => Sys2Proof.Machine.execRpostRefusal core post pc st
  | .remoteAccess peer src srcCtx op pa x y pc n bytes => Sys2Proof.Machine.execRemoteAccess peer src srcCtx op pa x y pc n bytes st
  | .remoteRefusal core ctx pc what cause => Sys2Proof.Machine.execRemoteRefusal core ctx pc what cause st
  | .homeAccess peer src srcCtx op pa x y pc n bytes => Sys2Proof.Machine.execHomeAccess peer src srcCtx op pa x y pc n bytes st
  | .gets agent line inc => Sys2Proof.Machine.execGets agent line inc st
  | .getm agent line inc => Sys2Proof.Machine.execGetm agent line inc st
  | .getu agent line inc => Sys2Proof.Machine.execGetu agent line inc st
  | .upg agent line inc => Sys2Proof.Machine.execUpg agent line inc st
  | .putm agent line inc => Sys2Proof.Machine.execPutm agent line inc st
  | .pute agent line inc => Sys2Proof.Machine.execPute agent line inc st
  | .putu agent line inc dest sums => Sys2Proof.Machine.execPutu agent line inc dest sums st
  | .fwdGets owner req line => Sys2Proof.Machine.execFwdGets owner req line st
  | .fwdGetm owner req line => Sys2Proof.Machine.execFwdGetm owner req line st
  | .inv agent req line course => Sys2Proof.Machine.execInv agent req line course st
  | .recall agent req line => Sys2Proof.Machine.execRecall agent req line st
  | .data way line dues excl => Sys2Proof.Machine.execData way line dues excl st
  | .ackcount agent line dues => Sys2Proof.Machine.execAckcount agent line dues st
  | .invack way line => Sys2Proof.Machine.execInvack way line st
  | .putack agent line => Sys2Proof.Machine.execPutack agent line st
  | .shadow sender ctx line => Sys2Proof.Machine.execShadow sender ctx line st
  | .shadowTaken core ctx line gen => Sys2Proof.Machine.execShadowTaken core ctx line gen st
  | .shadowFull core ctx line => Sys2Proof.Machine.execShadowFull core ctx line st
  | .rejoinNotice agent slice => Sys2Proof.Machine.execRejoinNotice agent slice st
  | .leaseAcquired core ctx => Sys2Proof.Machine.execLeaseAcquired core ctx st
  | .leaseExpire core ctx slot => Sys2Proof.Machine.execLeaseExpire core ctx slot st
  | .spinvNotice core asid base len => Sys2Proof.Machine.execSpinvNotice core asid base len st
  | .spinvAck core ctx => Sys2Proof.Machine.execSpinvAck core ctx st
  | .corePowerGate core => Sys2Proof.Machine.execCorePowerGate core st
  | .coreWake core => Sys2Proof.Machine.execCoreWake core st
  | .powerThrottle mhz overCap => Sys2Proof.Machine.execPowerThrottle mhz overCap st
  | .doorbell off word => Sys2Proof.Machine.execDoorbell off word st
  | .adminDoorbell word => Sys2Proof.Machine.execAdminDoorbell word st
  | .launchPacketRead slot => Sys2Proof.Machine.execLaunchPacketRead slot st
  | .residencyAnswer id => Sys2Proof.Machine.execResidencyAnswer id st
  | .residencyDiscard id => Sys2Proof.Machine.execResidencyDiscard id st
  | .dispatch => Sys2Proof.Machine.execDispatch st
  | .launchComplete id => Sys2Proof.Machine.execLaunchComplete id st
  | .registerWrite off v => Sys2Proof.Machine.execRegisterWrite off v st
  | .announce rank gid seq mask m n k fmts fn => Sys2Proof.Machine.execAnnounce rank gid seq mask m n k fmts fn st
  | .gmmaAgreementTimeout core => Sys2Proof.Machine.execGmmaAgreementTimeout core st
  | .chain gid seq part => Sys2Proof.Machine.execChain gid seq part st
  | .abort gid seq cause rank sender => Sys2Proof.Machine.execAbort gid seq cause rank sender st
  | .done gid seq result => Sys2Proof.Machine.execDone gid seq result st
  | .gmmaMemberLost member => Sys2Proof.Machine.execGmmaMemberLost member st
  | .linkTrain port farPeer farPort keysOk => Sys2Proof.Machine.execLinkTrain port farPeer farPort keysOk st
  | .flitReceive port ctr body seq ack nak tagOk => Sys2Proof.Machine.execFlitReceive port ctr body seq ack nak tagOk st
  | .nakReceive port seq => Sys2Proof.Machine.execNakReceive port seq st
  | .linkRetrain port => Sys2Proof.Machine.execLinkRetrain port st
  | .timeSyncSend port => Sys2Proof.Machine.execTimeSyncSend port st
  | .timeSyncReceive port peer stamp => Sys2Proof.Machine.execTimeSyncReceive port peer stamp st
  | .controlFlitReceive peer reachable => Sys2Proof.Machine.execControlFlitReceive peer reachable st
  | .routerCombine place wide reqs => Sys2Proof.Machine.execRouterCombine place wide reqs st
  | .combinedReplySplit what old reqs => Sys2Proof.Machine.execCombinedReplySplit what old reqs st
  | .hostHalfRequest line half ask => Sys2Proof.Machine.execHostHalfRequest line half ask st
  | .bridgeHalfData line half give => Sys2Proof.Machine.execBridgeHalfData line half give st
  | .features word => Sys2Proof.Machine.execFeatures word st
  | .resync buf => Sys2Proof.Machine.execResync buf st
  | .clearSlip => Sys2Proof.Machine.execClearSlip st
  | .clearErrors => Sys2Proof.Machine.execClearErrors st
  | .fwLoad buf len => Sys2Proof.Machine.execFwLoad buf len st
  | .spdm msg => Sys2Proof.Machine.execSpdm msg st
  | .trace core ctx classes trigger arg post => Sys2Proof.Machine.execTrace core ctx classes trigger arg post st
  | .traceReadout core buf => Sys2Proof.Machine.execTraceReadout core buf st
  | .power watts => Sys2Proof.Machine.execPower watts st
  | .fwActivate unused => Sys2Proof.Machine.execFwActivate unused st
  | .adminUnsupported opcode => Sys2Proof.Machine.execAdminUnsupported opcode st
  | .traceTrigger core => Sys2Proof.Machine.execTraceTrigger core st
  | .traceBufferFreeze core => Sys2Proof.Machine.execTraceBufferFreeze core st
  | .powerOnReset => Sys2Proof.Machine.execPowerOnReset st
  | .deviceReset => Sys2Proof.Machine.execDeviceReset st
  | .cxlReset clear => Sys2Proof.Machine.execCxlReset clear st
  | .functionLevelReset => Sys2Proof.Machine.execFunctionLevelReset st
  | .doeMailboxMessage msg => Sys2Proof.Machine.execDoeMailboxMessage msg st
  | .remoteAcknowledgement core ack => Sys2Proof.Machine.execRemoteAcknowledgement core ack st
  | .hdr l1 l2 l3 stall scope sync q => Sys2Proof.Machine.execHdr l1 l2 l3 stall scope sync q st
  | .nop g => Sys2Proof.Machine.execNop g st
  | .br g off => Sys2Proof.Machine.execBr g off st
  | .brx g d s => Sys2Proof.Machine.execBrx g d s st
  | .call g off => Sys2Proof.Machine.execCall g off st
  | .ret g s => Sys2Proof.Machine.execRet g s st
  | .loop g stg cnt len => Sys2Proof.Machine.execLoop g stg cnt len st
  | .loopx g stg c len => Sys2Proof.Machine.execLoopx g stg c len st
  | .lbrk g => Sys2Proof.Machine.execLbrk g st
  | .halt g => Sys2Proof.Machine.execHalt g st
  | .trap g imm => Sys2Proof.Machine.execTrap g imm st
  | .eret g => Sys2Proof.Machine.execEret g st
  | .yield g => Sys2Proof.Machine.execYield g st
  | .waitGe g q s imm => Sys2Proof.Machine.execWaitGe g q s imm st
  | .waitEq g q s imm => Sys2Proof.Machine.execWaitEq g q s imm st
  | .waitTake g q s imm => Sys2Proof.Machine.execWaitTake g q s imm st
  | .postInc g q s imm => Sys2Proof.Machine.execPostInc g q s imm st
  | .postSet g q s imm => Sys2Proof.Machine.execPostSet g q s imm st
  | .rpost g q s imm => Sys2Proof.Machine.execRpost g q s imm st
  | .barj g k => Sys2Proof.Machine.execBarj g k st
  | .barw g k => Sys2Proof.Machine.execBarw g k st
  | .fenceFull g c => Sys2Proof.Machine.execFenceFull g c st
  | .fenceAcq g c => Sys2Proof.Machine.execFenceAcq g c st
  | .fenceRel g c => Sys2Proof.Machine.execFenceRel g c st
  | .timeDom g d => Sys2Proof.Machine.execTimeDom g d st
  | .timeCyc g d => Sys2Proof.Machine.execTimeCyc g d st
  | .rdsr g d sr => Sys2Proof.Machine.execRdsr g d sr st
  | .wrsr g d sr => Sys2Proof.Machine.execWrsr g d sr st
  | .launch g d s t => Sys2Proof.Machine.execLaunch g d s t st
  | .drain g => Sys2Proof.Machine.execDrain g st
  | .add g d s t => Sys2Proof.Machine.execAdd g d s t st
  | .addW g d s t => Sys2Proof.Machine.execAddW g d s t st
  | .sub g d s t => Sys2Proof.Machine.execSub g d s t st
  | .subW g d s t => Sys2Proof.Machine.execSubW g d s t st
  | .mul g d s t => Sys2Proof.Machine.execMul g d s t st
  | .mulW g d s t => Sys2Proof.Machine.execMulW g d s t st
  | .mulh g d s t => Sys2Proof.Machine.execMulh g d s t st
  | .mulhu g d s t => Sys2Proof.Machine.execMulhu g d s t st
  | .div g d s t => Sys2Proof.Machine.execDiv g d s t st
  | .divW g d s t => Sys2Proof.Machine.execDivW g d s t st
  | .divu g d s t => Sys2Proof.Machine.execDivu g d s t st
  | .divuW g d s t => Sys2Proof.Machine.execDivuW g d s t st
  | .rem g d s t => Sys2Proof.Machine.execRem g d s t st
  | .remW g d s t => Sys2Proof.Machine.execRemW g d s t st
  | .remu g d s t => Sys2Proof.Machine.execRemu g d s t st
  | .remuW g d s t => Sys2Proof.Machine.execRemuW g d s t st
  | .and g d s t => Sys2Proof.Machine.execAnd g d s t st
  | .or g d s t => Sys2Proof.Machine.execOr g d s t st
  | .xor g d s t => Sys2Proof.Machine.execXor g d s t st
  | .shl g d s t => Sys2Proof.Machine.execShl g d s t st
  | .shlW g d s t => Sys2Proof.Machine.execShlW g d s t st
  | .shr g d s t => Sys2Proof.Machine.execShr g d s t st
  | .shrW g d s t => Sys2Proof.Machine.execShrW g d s t st
  | .sra g d s t => Sys2Proof.Machine.execSra g d s t st
  | .sraW g d s t => Sys2Proof.Machine.execSraW g d s t st
  | .rotr g d s t => Sys2Proof.Machine.execRotr g d s t st
  | .rotrW g d s t => Sys2Proof.Machine.execRotrW g d s t st
  | .clz g d s => Sys2Proof.Machine.execClz g d s st
  | .ctz g d s => Sys2Proof.Machine.execCtz g d s st
  | .popc g d s => Sys2Proof.Machine.execPopc g d s st
  | .min g d s t => Sys2Proof.Machine.execMin g d s t st
  | .max g d s t => Sys2Proof.Machine.execMax g d s t st
  | .minu g d s t => Sys2Proof.Machine.execMinu g d s t st
  | .maxu g d s t => Sys2Proof.Machine.execMaxu g d s t st
  | .sextB g d s => Sys2Proof.Machine.execSextB g d s st
  | .sextH g d s => Sys2Proof.Machine.execSextH g d s st
  | .sextW g d s => Sys2Proof.Machine.execSextW g d s st
  | .zextB g d s => Sys2Proof.Machine.execZextB g d s st
  | .zextH g d s => Sys2Proof.Machine.execZextH g d s st
  | .zextW g d s => Sys2Proof.Machine.execZextW g d s st
  | .sel g d s t p => Sys2Proof.Machine.execSel g d s t p st
  | .cmpEq g d s t => Sys2Proof.Machine.execCmpEq g d s t st
  | .cmpNe g d s t => Sys2Proof.Machine.execCmpNe g d s t st
  | .cmpLt g d s t => Sys2Proof.Machine.execCmpLt g d s t st
  | .cmpLe g d s t => Sys2Proof.Machine.execCmpLe g d s t st
  | .cmpLtu g d s t => Sys2Proof.Machine.execCmpLtu g d s t st
  | .cmpLeu g d s t => Sys2Proof.Machine.execCmpLeu g d s t st
  | .addi g d s imm => Sys2Proof.Machine.execAddi g d s imm st
  | .addiW g d s imm => Sys2Proof.Machine.execAddiW g d s imm st
  | .andi g d s imm => Sys2Proof.Machine.execAndi g d s imm st
  | .ori g d s imm => Sys2Proof.Machine.execOri g d s imm st
  | .xori g d s imm => Sys2Proof.Machine.execXori g d s imm st
  | .shli g d s imm => Sys2Proof.Machine.execShli g d s imm st
  | .shliW g d s imm => Sys2Proof.Machine.execShliW g d s imm st
  | .shri g d s imm => Sys2Proof.Machine.execShri g d s imm st
  | .shriW g d s imm => Sys2Proof.Machine.execShriW g d s imm st
  | .srai g d s imm => Sys2Proof.Machine.execSrai g d s imm st
  | .sraiW g d s imm => Sys2Proof.Machine.execSraiW g d s imm st
  | .cmpiEq g d s imm => Sys2Proof.Machine.execCmpiEq g d s imm st
  | .cmpiNe g d s imm => Sys2Proof.Machine.execCmpiNe g d s imm st
  | .cmpiLt g d s imm => Sys2Proof.Machine.execCmpiLt g d s imm st
  | .cmpiLe g d s imm => Sys2Proof.Machine.execCmpiLe g d s imm st
  | .cmpiLtu g d s imm => Sys2Proof.Machine.execCmpiLtu g d s imm st
  | .cmpiLeu g d s imm => Sys2Proof.Machine.execCmpiLeu g d s imm st
  | .cmpiGt g d s imm => Sys2Proof.Machine.execCmpiGt g d s imm st
  | .cmpiGe g d s imm => Sys2Proof.Machine.execCmpiGe g d s imm st
  | .cmpiGtu g d s imm => Sys2Proof.Machine.execCmpiGtu g d s imm st
  | .cmpiGeu g d s imm => Sys2Proof.Machine.execCmpiGeu g d s imm st
  | .movi g d imm => Sys2Proof.Machine.execMovi g d imm st
  | .movhi g d imm => Sys2Proof.Machine.execMovhi g d imm st
  | .pand g d s t => Sys2Proof.Machine.execPand g d s t st
  | .por g d s t => Sys2Proof.Machine.execPor g d s t st
  | .pnot g d s => Sys2Proof.Machine.execPnot g d s st
  | .pxor g d s t => Sys2Proof.Machine.execPxor g d s t st
  | .xab g d s => Sys2Proof.Machine.execXab g d s st
  | .xba g d s => Sys2Proof.Machine.execXba g d s st
  | .xbaH g d h => Sys2Proof.Machine.execXbaH g d h st
  | .fadd g d s t rm => Sys2Proof.Machine.execFadd g d s t rm st
  | .fsub g d s t rm => Sys2Proof.Machine.execFsub g d s t rm st
  | .fmul g d s t rm => Sys2Proof.Machine.execFmul g d s t rm st
  | .ffma g d s t rm => Sys2Proof.Machine.execFfma g d s t rm st
  | .fdiv g d s t rm => Sys2Proof.Machine.execFdiv g d s t rm st
  | .fsqrt g d s rm => Sys2Proof.Machine.execFsqrt g d s rm st
  | .fmin g d s t => Sys2Proof.Machine.execFmin g d s t st
  | .fmax g d s t => Sys2Proof.Machine.execFmax g d s t st
  | .fcmpEq g d s t => Sys2Proof.Machine.execFcmpEq g d s t st
  | .fcmpLt g d s t => Sys2Proof.Machine.execFcmpLt g d s t st
  | .fcmpLe g d s t => Sys2Proof.Machine.execFcmpLe g d s t st
  | .fcmpUn g d s t => Sys2Proof.Machine.execFcmpUn g d s t st
  | .fcmpNe g d s t => Sys2Proof.Machine.execFcmpNe g d s t st
  | .fcvtF32S64 g d s rm sat => Sys2Proof.Machine.execFcvtF32S64 g d s rm sat st
  | .fcvtF32Z64 g d s rm sat => Sys2Proof.Machine.execFcvtF32Z64 g d s rm sat st
  | .fcvtS64F32 g d s rm sat => Sys2Proof.Machine.execFcvtS64F32 g d s rm sat st
  | .fcvtZ64F32 g d s rm sat => Sys2Proof.Machine.execFcvtZ64F32 g d s rm sat st
  | .fcvtF32Bf16 g d s rm sat => Sys2Proof.Machine.execFcvtF32Bf16 g d s rm sat st
  | .fcvtBf16F32 g d s rm sat => Sys2Proof.Machine.execFcvtBf16F32 g d s rm sat st
  | .fcvtF32F16 g d s rm sat => Sys2Proof.Machine.execFcvtF32F16 g d s rm sat st
  | .fcvtF16F32 g d s rm sat => Sys2Proof.Machine.execFcvtF16F32 g d s rm sat st
  | .ldsD g d s off => Sys2Proof.Machine.execLdsD g d s off st
  | .ldsW g d s off => Sys2Proof.Machine.execLdsW g d s off st
  | .ldsWu g d s off => Sys2Proof.Machine.execLdsWu g d s off st
  | .ldsH g d s off => Sys2Proof.Machine.execLdsH g d s off st
  | .ldsHu g d s off => Sys2Proof.Machine.execLdsHu g d s off st
  | .ldsB g d s off => Sys2Proof.Machine.execLdsB g d s off st
  | .ldsBu g d s off => Sys2Proof.Machine.execLdsBu g d s off st
  | .ldsFw g d s off => Sys2Proof.Machine.execLdsFw g d s off st
  | .ldsFc g d s off => Sys2Proof.Machine.execLdsFc g d s off st
  | .ldsXD g d s t => Sys2Proof.Machine.execLdsXD g d s t st
  | .ldsXW g d s t => Sys2Proof.Machine.execLdsXW g d s t st
  | .ldsXWu g d s t => Sys2Proof.Machine.execLdsXWu g d s t st
  | .ldsXH g d s t => Sys2Proof.Machine.execLdsXH g d s t st
  | .ldsXHu g d s t => Sys2Proof.Machine.execLdsXHu g d s t st
  | .ldsXB g d s t => Sys2Proof.Machine.execLdsXB g d s t st
  | .ldsXBu g d s t => Sys2Proof.Machine.execLdsXBu g d s t st
  | .stsD g d s off => Sys2Proof.Machine.execStsD g d s off st
  | .stsW g d s off => Sys2Proof.Machine.execStsW g d s off st
  | .stsH g d s off => Sys2Proof.Machine.execStsH g d s off st
  | .stsB g d s off => Sys2Proof.Machine.execStsB g d s off st
  | .stsFs g d s off => Sys2Proof.Machine.execStsFs g d s off st
  | .stsFe g d s off => Sys2Proof.Machine.execStsFe g d s off st
  | .stsXD g d s t => Sys2Proof.Machine.execStsXD g d s t st
  | .stsXW g d s t => Sys2Proof.Machine.execStsXW g d s t st
  | .stsXH g d s t => Sys2Proof.Machine.execStsXH g d s t st
  | .stsXB g d s t => Sys2Proof.Machine.execStsXB g d s t st
  | .ldmD g d s off => Sys2Proof.Machine.execLdmD g d s off st
  | .ldmW g d s off => Sys2Proof.Machine.execLdmW g d s off st
  | .ldmWu g d s off => Sys2Proof.Machine.execLdmWu g d s off st
  | .ldmH g d s off => Sys2Proof.Machine.execLdmH g d s off st
  | .ldmHu g d s off => Sys2Proof.Machine.execLdmHu g d s off st
  | .ldmB g d s off => Sys2Proof.Machine.execLdmB g d s off st
  | .ldmBu g d s off => Sys2Proof.Machine.execLdmBu g d s off st
  | .ldmXD g d s t => Sys2Proof.Machine.execLdmXD g d s t st
  | .ldmXW g d s t => Sys2Proof.Machine.execLdmXW g d s t st
  | .ldmXWu g d s t => Sys2Proof.Machine.execLdmXWu g d s t st
  | .ldmXH g d s t => Sys2Proof.Machine.execLdmXH g d s t st
  | .ldmXHu g d s t => Sys2Proof.Machine.execLdmXHu g d s t st
  | .ldmXB g d s t => Sys2Proof.Machine.execLdmXB g d s t st
  | .ldmXBu g d s t => Sys2Proof.Machine.execLdmXBu g d s t st
  | .stmD g d s off => Sys2Proof.Machine.execStmD g d s off st
  | .stmW g d s off => Sys2Proof.Machine.execStmW g d s off st
  | .stmH g d s off => Sys2Proof.Machine.execStmH g d s off st
  | .stmB g d s off => Sys2Proof.Machine.execStmB g d s off st
  | .stmXD g d s t => Sys2Proof.Machine.execStmXD g d s t st
  | .stmXW g d s t => Sys2Proof.Machine.execStmXW g d s t st
  | .stmXH g d s t => Sys2Proof.Machine.execStmXH g d s t st
  | .stmXB g d s t => Sys2Proof.Machine.execStmXB g d s t st
  | .atomAdd g d s t => Sys2Proof.Machine.execAtomAdd g d s t st
  | .atomAddW g d s t => Sys2Proof.Machine.execAtomAddW g d s t st
  | .atomAnd g d s t => Sys2Proof.Machine.execAtomAnd g d s t st
  | .atomAndW g d s t => Sys2Proof.Machine.execAtomAndW g d s t st
  | .atomOr g d s t => Sys2Proof.Machine.execAtomOr g d s t st
  | .atomOrW g d s t => Sys2Proof.Machine.execAtomOrW g d s t st
  | .atomXor g d s t => Sys2Proof.Machine.execAtomXor g d s t st
  | .atomXorW g d s t => Sys2Proof.Machine.execAtomXorW g d s t st
  | .atomMin g d s t => Sys2Proof.Machine.execAtomMin g d s t st
  | .atomMinW g d s t => Sys2Proof.Machine.execAtomMinW g d s t st
  | .atomMax g d s t => Sys2Proof.Machine.execAtomMax g d s t st
  | .atomMaxW g d s t => Sys2Proof.Machine.execAtomMaxW g d s t st
  | .atomMinu g d s t => Sys2Proof.Machine.execAtomMinu g d s t st
  | .atomMinuW g d s t => Sys2Proof.Machine.execAtomMinuW g d s t st
  | .atomMaxu g d s t => Sys2Proof.Machine.execAtomMaxu g d s t st
  | .atomMaxuW g d s t => Sys2Proof.Machine.execAtomMaxuW g d s t st
  | .atomSwap g d s t => Sys2Proof.Machine.execAtomSwap g d s t st
  | .atomSwapW g d s t => Sys2Proof.Machine.execAtomSwapW g d s t st
  | .atomCas g d s t => Sys2Proof.Machine.execAtomCas g d s t st
  | .atomCasW g d s t => Sys2Proof.Machine.execAtomCasW g d s t st
  | .caddD g s t => Sys2Proof.Machine.execCaddD g s t st
  | .caddW g s t => Sys2Proof.Machine.execCaddW g s t st
  | .lease g s t => Sys2Proof.Machine.execLease g s t st
  | .unlease g d s => Sys2Proof.Machine.execUnlease g d s st
  | .snap g d s t => Sys2Proof.Machine.execSnap g d s t st
  | .accept g s => Sys2Proof.Machine.execAccept g s st
  | .reject g s => Sys2Proof.Machine.execReject g s st
  | .ldh g h s off => Sys2Proof.Machine.execLdh g h s off st
  | .ldhd g h s off => Sys2Proof.Machine.execLdhd g h s off st
  | .sth g h s off => Sys2Proof.Machine.execSth g h s off st
  | .dup g h j => Sys2Proof.Machine.execDup g h j st
  | .drop g h => Sys2Proof.Machine.execDrop g h st
  | .tnew g h j s => Sys2Proof.Machine.execTnew g h j s st
  | .tdesc g h s t => Sys2Proof.Machine.execTdesc g h s t st
  | .tget g h s t => Sys2Proof.Machine.execTget g h s t st
  | .tset g h s t => Sys2Proof.Machine.execTset g h s t st
  | .tsetv g h s t => Sys2Proof.Machine.execTsetv g h s t st
  | .tseal g h s => Sys2Proof.Machine.execTseal g h s st
  | .topen g h => Sys2Proof.Machine.execTopen g h st
  | .tmove g h s => Sys2Proof.Machine.execTmove g h s st
  | .tuniq g h s => Sys2Proof.Machine.execTuniq g h s st
  | .kvfind g h s t => Sys2Proof.Machine.execKvfind g h s t st
  | .spload g s t => Sys2Proof.Machine.execSpload g s t st
  | .spinv g d s t => Sys2Proof.Machine.execSpinv g d s t st
  | .quiesce g d s => Sys2Proof.Machine.execQuiesce g d s st
  | .ctxsave g s t => Sys2Proof.Machine.execCtxsave g s t st
  | .ctxload g s t => Sys2Proof.Machine.execCtxload g s t st
  | .rejoin g => Sys2Proof.Machine.execRejoin g st
  | .mfmt g s => Sys2Proof.Machine.execMfmt g s st
  | .mma g ha hb s => Sys2Proof.Machine.execMma g ha hb s st
  | .mmac g ha hb s => Sys2Proof.Machine.execMmac g ha hb s st
  | .gmma g ha hb s hx => Sys2Proof.Machine.execGmma g ha hb s hx st
  | .gmmaMc g ha hb s hx => Sys2Proof.Machine.execGmmaMc g ha hb s hx st
  | .vaddVv g d s t rm quiet => Sys2Proof.Machine.execVaddVv g d s t rm quiet st
  | .vaddVs g d s t rm quiet => Sys2Proof.Machine.execVaddVs g d s t rm quiet st
  | .vsubVv g d s t rm quiet => Sys2Proof.Machine.execVsubVv g d s t rm quiet st
  | .vsubVs g d s t rm quiet => Sys2Proof.Machine.execVsubVs g d s t rm quiet st
  | .vmulVv g d s t rm quiet => Sys2Proof.Machine.execVmulVv g d s t rm quiet st
  | .vmulVs g d s t rm quiet => Sys2Proof.Machine.execVmulVs g d s t rm quiet st
  | .vfmaVv g d s t rm quiet => Sys2Proof.Machine.execVfmaVv g d s t rm quiet st
  | .vfmaVs g d s t rm quiet => Sys2Proof.Machine.execVfmaVs g d s t rm quiet st
  | .vfmaVn g d s t rm quiet => Sys2Proof.Machine.execVfmaVn g d s t rm quiet st
  | .vmaxVv g d s t quiet => Sys2Proof.Machine.execVmaxVv g d s t quiet st
  | .vmaxVs g d s t quiet => Sys2Proof.Machine.execVmaxVs g d s t quiet st
  | .vminVv g d s t quiet => Sys2Proof.Machine.execVminVv g d s t quiet st
  | .vminVs g d s t quiet => Sys2Proof.Machine.execVminVs g d s t quiet st
  | .vabs g d s quiet => Sys2Proof.Machine.execVabs g d s quiet st
  | .vneg g d s quiet => Sys2Proof.Machine.execVneg g d s quiet st
  | .vclmpVs g d s t quiet => Sys2Proof.Machine.execVclmpVs g d s t quiet st
  | .vclmpVv g d s t quiet => Sys2Proof.Machine.execVclmpVv g d s t quiet st
  | .vcvt g d s rm sat quiet => Sys2Proof.Machine.execVcvt g d s rm sat quiet st
  | .vcvtS g d s t rm sat quiet => Sys2Proof.Machine.execVcvtS g d s t rm sat quiet st
  | .vexp g d s quiet => Sys2Proof.Machine.execVexp g d s quiet st
  | .vexpB2 g d s quiet => Sys2Proof.Machine.execVexpB2 g d s quiet st
  | .vrcp g d s quiet => Sys2Proof.Machine.execVrcp g d s quiet st
  | .vrsq g d s quiet => Sys2Proof.Machine.execVrsq g d s quiet st
  | .vsumF g d s quiet => Sys2Proof.Machine.execVsumF g d s quiet st
  | .vsumI g d s quiet => Sys2Proof.Machine.execVsumI g d s quiet st
  | .vrmax g d s quiet => Sys2Proof.Machine.execVrmax g d s quiet st
  | .vsel g d s t quiet => Sys2Proof.Machine.execVsel g d s t quiet st
  | .vcmpEqVv g d s t quiet => Sys2Proof.Machine.execVcmpEqVv g d s t quiet st
  | .vcmpEqVs g d s t quiet => Sys2Proof.Machine.execVcmpEqVs g d s t quiet st
  | .vcmpNeVv g d s t quiet => Sys2Proof.Machine.execVcmpNeVv g d s t quiet st
  | .vcmpNeVs g d s t quiet => Sys2Proof.Machine.execVcmpNeVs g d s t quiet st
  | .vcmpLtVv g d s t quiet => Sys2Proof.Machine.execVcmpLtVv g d s t quiet st
  | .vcmpLtVs g d s t quiet => Sys2Proof.Machine.execVcmpLtVs g d s t quiet st
  | .vcmpLeVv g d s t quiet => Sys2Proof.Machine.execVcmpLeVv g d s t quiet st
  | .vcmpLeVs g d s t quiet => Sys2Proof.Machine.execVcmpLeVs g d s t quiet st
  | .vcmpGtVv g d s t quiet => Sys2Proof.Machine.execVcmpGtVv g d s t quiet st
  | .vcmpGtVs g d s t quiet => Sys2Proof.Machine.execVcmpGtVs g d s t quiet st
  | .vcmpGeVv g d s t quiet => Sys2Proof.Machine.execVcmpGeVv g d s t quiet st
  | .vcmpGeVs g d s t quiet => Sys2Proof.Machine.execVcmpGeVs g d s t quiet st
  | .vtopkMax g d s t quiet => Sys2Proof.Machine.execVtopkMax g d s t quiet st
  | .vtopkMin g d s t quiet => Sys2Proof.Machine.execVtopkMin g d s t quiet st
  | .vgath g d s t quiet => Sys2Proof.Machine.execVgath g d s t quiet st
  | .vscat g d s t quiet => Sys2Proof.Machine.execVscat g d s t quiet st
  | .viota g d s t quiet => Sys2Proof.Machine.execViota g d s t quiet st
  | .vfill g d s quiet => Sys2Proof.Machine.execVfill g d s quiet st
  | .vbfly g d s t quiet => Sys2Proof.Machine.execVbfly g d s t quiet st
  | .vbflyCj g d s t quiet => Sys2Proof.Machine.execVbflyCj g d s t quiet st
  | .vtwid g d s t quiet => Sys2Proof.Machine.execVtwid g d s t quiet st
  | .vcmul g d s t rm quiet => Sys2Proof.Machine.execVcmul g d s t rm quiet st
  | .vcmulCj g d s t rm quiet => Sys2Proof.Machine.execVcmulCj g d s t rm quiet st
  | .viaddVv g d s t quiet => Sys2Proof.Machine.execViaddVv g d s t quiet st
  | .viaddVs g d s t quiet => Sys2Proof.Machine.execViaddVs g d s t quiet st
  | .viaddVvSat g d s t quiet => Sys2Proof.Machine.execViaddVvSat g d s t quiet st
  | .viaddVsSat g d s t quiet => Sys2Proof.Machine.execViaddVsSat g d s t quiet st
  | .vimulVv g d s t quiet => Sys2Proof.Machine.execVimulVv g d s t quiet st
  | .vimulVs g d s t quiet => Sys2Proof.Machine.execVimulVs g d s t quiet st
  | .vandVv g d s t quiet => Sys2Proof.Machine.execVandVv g d s t quiet st
  | .vandVs g d s t quiet => Sys2Proof.Machine.execVandVs g d s t quiet st
  | .vorVv g d s t quiet => Sys2Proof.Machine.execVorVv g d s t quiet st
  | .vorVs g d s t quiet => Sys2Proof.Machine.execVorVs g d s t quiet st
  | .vxorVv g d s t quiet => Sys2Proof.Machine.execVxorVv g d s t quiet st
  | .vxorVs g d s t quiet => Sys2Proof.Machine.execVxorVs g d s t quiet st
  | .vshlVv g d s t quiet => Sys2Proof.Machine.execVshlVv g d s t quiet st
  | .vshlVs g d s t quiet => Sys2Proof.Machine.execVshlVs g d s t quiet st
  | .vshrVv g d s t quiet => Sys2Proof.Machine.execVshrVv g d s t quiet st
  | .vshrVs g d s t quiet => Sys2Proof.Machine.execVshrVs g d s t quiet st
  | .vshrArVv g d s t quiet => Sys2Proof.Machine.execVshrArVv g d s t quiet st
  | .vshrArVs g d s t quiet => Sys2Proof.Machine.execVshrArVs g d s t quiet st
  | .vflg g d quiet => Sys2Proof.Machine.execVflg g d quiet st
  | .vflgClr g d quiet => Sys2Proof.Machine.execVflgClr g d quiet st
  | .vmaskw g d s t quiet => Sys2Proof.Machine.execVmaskw g d s t quiet st
  | .cpyLl g d s t => Sys2Proof.Machine.execCpyLl g d s t st
  | .cpyLv g d s t => Sys2Proof.Machine.execCpyLv g d s t st
  | .cpyLn g d s t hx => Sys2Proof.Machine.execCpyLn g d s t hx st
  | .cpyVl g d s t => Sys2Proof.Machine.execCpyVl g d s t st
  | .cpyVv g d s t => Sys2Proof.Machine.execCpyVv g d s t st
  | .cpyVn g d s t hx => Sys2Proof.Machine.execCpyVn g d s t hx st
  | .cpyHl g d s t hx => Sys2Proof.Machine.execCpyHl g d s t hx st
  | .cpyHv g d s t hx => Sys2Proof.Machine.execCpyHv g d s t hx st
  | .cpyHn g d s t hx => Sys2Proof.Machine.execCpyHn g d s t hx st
  | .cpyrL g d s t => Sys2Proof.Machine.execCpyrL g d s t st
  | .cpyrV g d s t => Sys2Proof.Machine.execCpyrV g d s t st
  | .cpyrH g d s t hx => Sys2Proof.Machine.execCpyrH g d s t hx st
  | .migr g s t hx => Sys2Proof.Machine.execMigr g s t hx st

end Sys2Proof.Machine
end

