-- ==== Sys2Proof/WellFormed.lean ====
section
/-! DEFINITION. Which terms of Instr stand for a step of the part: the conditions on operands that the operand types do not already
hold. A slot form names a predicate destination p1 to p7 (R79, R107); an event names cores, contexts, ports and the like that the
package has (R10, R82, R265, R285, R308). -/

namespace Sys2Proof

/-- A core of the package (R10). -/
def okCore (c : Nat) : Bool := decide (c < 256)

/-- A context of a core. -/
def okCtx (x : Nat) : Bool := decide (x < 4)

/-- An agent of the coherence protocol: the mortar L1s of the 256 cores, the host bridge as number 256 and a home as number 257 (R256,
R265). A drop or a refill that a home makes itself carries 256 for its core (R55). -/
def okAgent (a : Nat) : Bool := decide (a < 258)

/-- Well-formed instructions: what is not named here has no condition beyond its operand types. -/
def Instr.wf : Instr → Bool
  | .cmpEq _ d _ _ | .cmpNe _ d _ _ | .cmpLt _ d _ _ | .cmpLe _ d _ _ | .cmpLtu _ d _ _ | .cmpLeu _ d _ _ | .cmpiEq _ d _ _
    | .cmpiNe _ d _ _ | .cmpiLt _ d _ _ | .cmpiLe _ d _ _ | .cmpiLtu _ d _ _ | .cmpiLeu _ d _ _ | .cmpiGt _ d _ _ | .cmpiGe _ d _ _
    | .cmpiGtu _ d _ _ | .cmpiGeu _ d _ _ | .pand _ d _ _ | .por _ d _ _ | .pnot _ d _ | .pxor _ d _ _ | .fcmpEq _ d _ _ | .fcmpLt _ d _ _
    | .fcmpLe _ d _ _ | .fcmpUn _ d _ _ | .fcmpNe _ d _ _ => d != 0
  | .stallCountElapse core ctx | .variableResultArrival core ctx _ _ _ | .trapTake core ctx | .taskEnd core ctx | .preemptRequest core ctx
    | .feTimeoutScalar core ctx | .dropRelease core ctx | .dropAck core ctx _ | .uniquenessAnswer core ctx _ _
    | .tileAllocate core ctx _ | .allocationReply core ctx _
    | .shadow ⟨core, _⟩ ctx _ | .shadowTaken core ctx _ _ | .shadowFull core ctx _ | .leaseAcquired core ctx | .spinvAck core ctx
    | .trace core ctx _ _ _ _ | .remoteAcknowledgement core ⟨ctx, _, _⟩ => okCore core && okCtx ctx
  | .quiesceMarkerReturn core ctx eng => okCore core && okCtx ctx && decide (eng < 3)
  | .matrixCommandTake core | .matrixBlockComplete core | .tileFetchBlockArrival core | .freezeTimeout core | .feTimeoutEngine core _
    | .vectorCommandStart core | .vectorCommandComplete core | .sfuCommandStart core | .sfuCommandComplete core | .copyCommandStart core
    | .copyChunkStart core _ | .copyDestRefusal core _ | .tmoveStorageSwitch core _ | .migrArrival core _
    | .updateCopyComplete core _ _ | .updateWriteComplete core _ | .tsealRegionComplete core _ | .spinvNotice core _ _ _
    | .corePowerGate core | .coreWake core | .gmmaAgreementTimeout core | .traceReadout core _ | .traceTrigger core | .traceBufferFreeze core => okCore core
  | .copyChunkComplete core _ _ => okAgent core
  | .cpyrArrival peer src _ core ctx _ _ q _ => decide (peer < 16384) && okCore src && okCore core && okCtx ctx && decide (q < 16)
  | .dropArrival _ _ peer core ctx | .refillRequest _ peer core ctx | .descriptorRead _ peer core ctx _ => decide (peer < 16384) && okAgent core && okCtx ctx
  | .refillReply core ctx _ | .descriptorReply core ctx _ _ | .remoteRefusal core ctx _ _ _ | .rpostAck core ⟨ctx, _⟩ | .rpostRefusal core ⟨ctx, _⟩ _ => okAgent core && okCtx ctx
  | .uniquenessQuery _ _ peer core ctx => decide (peer < 16384) && okCore core && okCtx ctx
  | .barrierArrival core ctx unit => okCore core && okCtx ctx && decide (unit < 8)
  | .rpostArrival peer src srcCtx core ctx q _ _ => decide (peer < 16384) && okAgent src && okCtx srcCtx && okCore core && okCtx ctx && decide (q < 16)
  | .remoteAccess peer src srcCtx _ _ _ _ _ _ _ | .homeAccess peer src srcCtx _ _ _ _ _ _ _ => decide (peer < 16384) && okAgent src && okCtx srcCtx
  | .gets agent _ _ | .getm agent _ _ | .getu agent _ _ | .upg agent _ _ | .putm agent _ _ | .pute agent _ _ | .putu agent _ _ _ _
    | .inv agent _ _ _ | .recall agent _ _ | .ackcount agent _ _ | .putack agent _ => okAgent agent
  | .fwdGets owner _ _ | .fwdGetm owner _ _ => okAgent owner
  | .data ⟨src, agent, _⟩ _ _ _ | .invack ⟨src, agent, _⟩ _ => okAgent src && okAgent agent
  | .rejoinNotice agent slice => okAgent agent && decide (slice < 128)
  | .leaseExpire core ctx slot => okCore core && okCtx ctx && decide (slot < 2)
  | .launchPacketRead slot => decide (slot < 64)
  | .linkTrain port _ _ _ | .flitReceive port _ _ _ _ _ _ | .nakReceive port _ | .linkRetrain port | .timeSyncSend port
    | .timeSyncReceive port _ _ => decide (port < 12)
  | .controlFlitReceive peer _ => decide (peer < 16384)
  | .hostHalfRequest _ half _ => decide (half < 2)
  | .bridgeHalfData _ half ⟨_, agent, _⟩ => decide (half < 2) && okAgent agent
  | _ => true

end Sys2Proof
end

