-- ==== Sys2Proof/Decode.lean ====
section
/-! DEFINITION. The decoder of slot words (R91 to R107), total on every word and slot, and the encoder.

A slot word is read with the lent bits that its bundle's header gives the slot (zero without a header). A word that is unassigned
under R107 is refused with the reason; the machine raises ILLEGAL_OP for every one of them. -/

namespace Sys2Proof

/-- Why a slot word is unassigned (R107). -/
inductive Reject where
  /-- Its opcode is not assigned (R105). -/
  | opcode
  /-- Its opcode may not stand in this slot (R92). -/
  | slot
  /-- Its variant field holds a value that R106 does not list. -/
  | variant
  /-- A field that must be zero is not. -/
  | field
  /-- It is given lent bits that its form does not take. -/
  | lent
  /-- It names a predicate destination of p0; p8 to p15 set a field bit that must be zero. -/
  | predicate
  deriving DecidableEq, Repr

/-- Bits `lo` to `lo + n - 1` of a slot word. -/
def fld (w : BitVec 32) (lo n : Nat) : BitVec n := w.extractLsb' lo n

/-- Bits of the lent bits. -/
def fldL (l : BitVec 6) (lo n : Nat) : BitVec n := l.extractLsb' lo n

/-- Go on when a condition holds, refuse with a reason otherwise. -/
def need (c : Prop) [Decidable c] (r : Reject) (k : Except Reject Instr) : Except Reject Instr := if c then k else .error r

/-- The slots in which an opcode may stand (R92). -/
def opcodeSlot (op : Nat) (slot : Nat) : Bool :=
  if op = 0 then true
  else if op ≤ 0x1F then slot == 0
  else if op ≤ 0x53 then true
  else if op = 0x54 then slot == 0 || slot == 1
  else if op = 0x55 then slot == 2 || slot == 3
  else if op ≤ 0x6F then slot == 1
  else if op ≤ 0x73 then slot == 2 || slot == 3
  else if op ≤ 0xAF then slot == 2
  else slot == 3

/-- The control forms (R113). -/
noncomputable def decodeControl (l : BitVec 6) (w : BitVec 32) : Except Reject Instr :=
  match (fld w 24 8).toNat with
  | 0x00 =>
    match (fld w 0 5).toNat with
    | 0 => need (fld w 5 15 = 0) .field (need (l = 0) .lent (.ok (.nop (fld w 20 4))))
    | _ => .error .variant
  | 0x01 => need (l = 0) .lent (.ok (.br (fld w 20 4) (fld w 0 20)))
  | 0x02 =>
    match (fld w 0 5).toNat with
    | 0 => need (fld w 5 5 = 0) .field (need (l = 0) .lent (.ok (.brx (fld w 20 4) (fld w 15 5) (fld w 10 5))))
    | _ => .error .variant
  | 0x03 => need (l = 0) .lent (.ok (.call (fld w 20 4) (fld w 0 20)))
  | 0x04 =>
    match (fld w 0 5).toNat with
    | 0 => need (fld w 5 5 = 0 ∧ fld w 15 5 = 0) .field (need (l = 0) .lent (.ok (.ret (fld w 20 4) (fld w 10 5))))
    | _ => .error .variant
  | 0x05 => need (l = 0) .lent (.ok (.loop (fld w 20 4) (fld w 17 3) (fld w 7 10) (fld w 0 7)))
  | 0x06 => need (fld w 12 5 = 0) .field (need (l = 0) .lent (.ok (.loopx (fld w 20 4) (fld w 17 3) (fld w 7 5) (fld w 0 7))))
  | 0x07 =>
    match (fld w 0 5).toNat with
    | 0 => need (fld w 5 15 = 0) .field (need (l = 0) .lent (.ok (.lbrk (fld w 20 4))))
    | _ => .error .variant
  | 0x08 =>
    match (fld w 0 5).toNat with
    | 0 => need (fld w 5 15 = 0) .field (need (l = 0) .lent (.ok (.halt (fld w 20 4))))
    | _ => .error .variant
  | 0x09 => need (fld w 15 5 = 0) .field (need (l = 0) .lent (.ok (.trap (fld w 20 4) (fld w 0 15))))
  | 0x0a =>
    match (fld w 0 5).toNat with
    | 0 => need (fld w 5 15 = 0) .field (need (l = 0) .lent (.ok (.eret (fld w 20 4))))
    | _ => .error .variant
  | 0x0b =>
    match (fld w 0 5).toNat with
    | 0 => need (fld w 5 15 = 0) .field (need (l = 0) .lent (.ok (.yield (fld w 20 4))))
    | _ => .error .variant
  | 0x0c =>
    match (fld w 13 3).toNat with
    | 0 => need (l = 0) .lent (.ok (.waitGe (fld w 20 4) (fld w 16 4) (fld w 8 5) (fld w 0 8)))
    | 1 => need (l = 0) .lent (.ok (.waitEq (fld w 20 4) (fld w 16 4) (fld w 8 5) (fld w 0 8)))
    | 2 => need (l = 0) .lent (.ok (.waitTake (fld w 20 4) (fld w 16 4) (fld w 8 5) (fld w 0 8)))
    | _ => .error .variant
  | 0x0d =>
    match (fld w 13 3).toNat with
    | 0 => need (l = 0) .lent (.ok (.postInc (fld w 20 4) (fld w 16 4) (fld w 8 5) (fld w 0 8)))
    | 1 => need (l = 0) .lent (.ok (.postSet (fld w 20 4) (fld w 16 4) (fld w 8 5) (fld w 0 8)))
    | _ => .error .variant
  | 0x0e =>
    match (fld w 13 3).toNat with
    | 0 => need (l = 0) .lent (.ok (.rpost (fld w 20 4) (fld w 16 4) (fld w 8 5) (fld w 0 8)))
    | _ => .error .variant
  | 0x0f =>
    match (fld w 13 3).toNat with
    | 0 => need (fld w 0 13 = 0 ∧ fld w 19 1 = 0) .field (need (l = 0) .lent (.ok (.barj (fld w 20 4) (fld w 16 3))))
    | _ => .error .variant
  | 0x10 =>
    match (fld w 13 3).toNat with
    | 0 => need (fld w 0 13 = 0 ∧ fld w 19 1 = 0) .field (need (l = 0) .lent (.ok (.barw (fld w 20 4) (fld w 16 3))))
    | _ => .error .variant
  | 0x11 =>
    match (fld w 13 3).toNat with
    | 0 => need (fld w 3 10 = 0 ∧ fld w 16 4 = 0) .field (need (l = 0) .lent (.ok (.fenceFull (fld w 20 4) (fld w 0 3))))
    | 1 => need (fld w 3 10 = 0 ∧ fld w 16 4 = 0) .field (need (l = 0) .lent (.ok (.fenceAcq (fld w 20 4) (fld w 0 3))))
    | 2 => need (fld w 3 10 = 0 ∧ fld w 16 4 = 0) .field (need (l = 0) .lent (.ok (.fenceRel (fld w 20 4) (fld w 0 3))))
    | _ => .error .variant
  | 0x12 =>
    match (fld w 0 3).toNat with
    | 0 => need (fld w 3 12 = 0) .field (need (l = 0) .lent (.ok (.timeDom (fld w 20 4) (fld w 15 5))))
    | 1 => need (fld w 3 12 = 0) .field (need (l = 0) .lent (.ok (.timeCyc (fld w 20 4) (fld w 15 5))))
    | _ => .error .variant
  | 0x13 =>
    match (fld w 0 3).toNat with
    | 0 => need (l = 0) .lent (.ok (.rdsr (fld w 20 4) (fld w 15 5) (fld w 3 12)))
    | _ => .error .variant
  | 0x14 =>
    match (fld w 0 3).toNat with
    | 0 => need (l = 0) .lent (.ok (.wrsr (fld w 20 4) (fld w 15 5) (fld w 3 12)))
    | _ => .error .variant
  | 0x15 =>
    match (fld w 0 5).toNat with
    | 0 => need (l = 0) .lent (.ok (.launch (fld w 20 4) (fld w 15 5) (fld w 10 5) (fld w 5 5)))
    | _ => .error .variant
  | 0x16 =>
    match (fld w 0 5).toNat with
    | 0 => need (fld w 5 15 = 0) .field (need (l = 0) .lent (.ok (.drain (fld w 20 4))))
    | _ => .error .variant
  | _ => .error .opcode

/-- The integer register forms (R141, R145, R146). -/
noncomputable def decodeInteger (l : BitVec 6) (w : BitVec 32) : Except Reject Instr :=
  match (fld w 24 8).toNat with
  | 0x20 =>
    match (fld w 0 5).toNat with
    | 0 => need (l = 0) .lent (.ok (.add (fld w 20 4) (fld w 15 5) (fld w 10 5) (fld w 5 5)))
    | 1 => need (l = 0) .lent (.ok (.addW (fld w 20 4) (fld w 15 5) (fld w 10 5) (fld w 5 5)))
    | _ => .error .variant
  | 0x21 =>
    match (fld w 0 5).toNat with
    | 0 => need (l = 0) .lent (.ok (.sub (fld w 20 4) (fld w 15 5) (fld w 10 5) (fld w 5 5)))
    | 1 => need (l = 0) .lent (.ok (.subW (fld w 20 4) (fld w 15 5) (fld w 10 5) (fld w 5 5)))
    | _ => .error .variant
  | 0x22 =>
    match (fld w 0 5).toNat with
    | 0 => need (l = 0) .lent (.ok (.mul (fld w 20 4) (fld w 15 5) (fld w 10 5) (fld w 5 5)))
    | 1 => need (l = 0) .lent (.ok (.mulW (fld w 20 4) (fld w 15 5) (fld w 10 5) (fld w 5 5)))
    | _ => .error .variant
  | 0x23 =>
    match (fld w 0 5).toNat with
    | 0 => need (l = 0) .lent (.ok (.mulh (fld w 20 4) (fld w 15 5) (fld w 10 5) (fld w 5 5)))
    | _ => .error .variant
  | 0x24 =>
    match (fld w 0 5).toNat with
    | 0 => need (l = 0) .lent (.ok (.mulhu (fld w 20 4) (fld w 15 5) (fld w 10 5) (fld w 5 5)))
    | _ => .error .variant
  | 0x25 =>
    match (fld w 0 5).toNat with
    | 0 => need (l = 0) .lent (.ok (.div (fld w 20 4) (fld w 15 5) (fld w 10 5) (fld w 5 5)))
    | 1 => need (l = 0) .lent (.ok (.divW (fld w 20 4) (fld w 15 5) (fld w 10 5) (fld w 5 5)))
    | _ => .error .variant
  | 0x26 =>
    match (fld w 0 5).toNat with
    | 0 => need (l = 0) .lent (.ok (.divu (fld w 20 4) (fld w 15 5) (fld w 10 5) (fld w 5 5)))
    | 1 => need (l = 0) .lent (.ok (.divuW (fld w 20 4) (fld w 15 5) (fld w 10 5) (fld w 5 5)))
    | _ => .error .variant
  | 0x27 =>
    match (fld w 0 5).toNat with
    | 0 => need (l = 0) .lent (.ok (.rem (fld w 20 4) (fld w 15 5) (fld w 10 5) (fld w 5 5)))
    | 1 => need (l = 0) .lent (.ok (.remW (fld w 20 4) (fld w 15 5) (fld w 10 5) (fld w 5 5)))
    | _ => .error .variant
  | 0x28 =>
    match (fld w 0 5).toNat with
    | 0 => need (l = 0) .lent (.ok (.remu (fld w 20 4) (fld w 15 5) (fld w 10 5) (fld w 5 5)))
    | 1 => need (l = 0) .lent (.ok (.remuW (fld w 20 4) (fld w 15 5) (fld w 10 5) (fld w 5 5)))
    | _ => .error .variant
  | 0x29 =>
    match (fld w 0 5).toNat with
    | 0 => need (l = 0) .lent (.ok (.and (fld w 20 4) (fld w 15 5) (fld w 10 5) (fld w 5 5)))
    | _ => .error .variant
  | 0x2a =>
    match (fld w 0 5).toNat with
    | 0 => need (l = 0) .lent (.ok (.or (fld w 20 4) (fld w 15 5) (fld w 10 5) (fld w 5 5)))
    | _ => .error .variant
  | 0x2b =>
    match (fld w 0 5).toNat with
    | 0 => need (l = 0) .lent (.ok (.xor (fld w 20 4) (fld w 15 5) (fld w 10 5) (fld w 5 5)))
    | _ => .error .variant
  | 0x2c =>
    match (fld w 0 5).toNat with
    | 0 => need (l = 0) .lent (.ok (.shl (fld w 20 4) (fld w 15 5) (fld w 10 5) (fld w 5 5)))
    | 1 => need (l = 0) .lent (.ok (.shlW (fld w 20 4) (fld w 15 5) (fld w 10 5) (fld w 5 5)))
    | _ => .error .variant
  | 0x2d =>
    match (fld w 0 5).toNat with
    | 0 => need (l = 0) .lent (.ok (.shr (fld w 20 4) (fld w 15 5) (fld w 10 5) (fld w 5 5)))
    | 1 => need (l = 0) .lent (.ok (.shrW (fld w 20 4) (fld w 15 5) (fld w 10 5) (fld w 5 5)))
    | _ => .error .variant
  | 0x2e =>
    match (fld w 0 5).toNat with
    | 0 => need (l = 0) .lent (.ok (.sra (fld w 20 4) (fld w 15 5) (fld w 10 5) (fld w 5 5)))
    | 1 => need (l = 0) .lent (.ok (.sraW (fld w 20 4) (fld w 15 5) (fld w 10 5) (fld w 5 5)))
    | _ => .error .variant
  | 0x2f =>
    match (fld w 0 5).toNat with
    | 0 => need (l = 0) .lent (.ok (.rotr (fld w 20 4) (fld w 15 5) (fld w 10 5) (fld w 5 5)))
    | 1 => need (l = 0) .lent (.ok (.rotrW (fld w 20 4) (fld w 15 5) (fld w 10 5) (fld w 5 5)))
    | _ => .error .variant
  | 0x30 =>
    match (fld w 0 5).toNat with
    | 0 => need (fld w 5 5 = 0) .field (need (l = 0) .lent (.ok (.clz (fld w 20 4) (fld w 15 5) (fld w 10 5))))
    | _ => .error .variant
  | 0x31 =>
    match (fld w 0 5).toNat with
    | 0 => need (fld w 5 5 = 0) .field (need (l = 0) .lent (.ok (.ctz (fld w 20 4) (fld w 15 5) (fld w 10 5))))
    | _ => .error .variant
  | 0x32 =>
    match (fld w 0 5).toNat with
    | 0 => need (fld w 5 5 = 0) .field (need (l = 0) .lent (.ok (.popc (fld w 20 4) (fld w 15 5) (fld w 10 5))))
    | _ => .error .variant
  | 0x33 =>
    match (fld w 0 5).toNat with
    | 0 => need (l = 0) .lent (.ok (.min (fld w 20 4) (fld w 15 5) (fld w 10 5) (fld w 5 5)))
    | _ => .error .variant
  | 0x34 =>
    match (fld w 0 5).toNat with
    | 0 => need (l = 0) .lent (.ok (.max (fld w 20 4) (fld w 15 5) (fld w 10 5) (fld w 5 5)))
    | _ => .error .variant
  | 0x35 =>
    match (fld w 0 5).toNat with
    | 0 => need (l = 0) .lent (.ok (.minu (fld w 20 4) (fld w 15 5) (fld w 10 5) (fld w 5 5)))
    | _ => .error .variant
  | 0x36 =>
    match (fld w 0 5).toNat with
    | 0 => need (l = 0) .lent (.ok (.maxu (fld w 20 4) (fld w 15 5) (fld w 10 5) (fld w 5 5)))
    | _ => .error .variant
  | 0x37 =>
    match (fld w 0 5).toNat with
    | 0 => need (fld w 5 5 = 0) .field (need (l = 0) .lent (.ok (.sextB (fld w 20 4) (fld w 15 5) (fld w 10 5))))
    | 1 => need (fld w 5 5 = 0) .field (need (l = 0) .lent (.ok (.sextH (fld w 20 4) (fld w 15 5) (fld w 10 5))))
    | 2 => need (fld w 5 5 = 0) .field (need (l = 0) .lent (.ok (.sextW (fld w 20 4) (fld w 15 5) (fld w 10 5))))
    | _ => .error .variant
  | 0x38 =>
    match (fld w 0 5).toNat with
    | 0 => need (fld w 5 5 = 0) .field (need (l = 0) .lent (.ok (.zextB (fld w 20 4) (fld w 15 5) (fld w 10 5))))
    | 1 => need (fld w 5 5 = 0) .field (need (l = 0) .lent (.ok (.zextH (fld w 20 4) (fld w 15 5) (fld w 10 5))))
    | 2 => need (fld w 5 5 = 0) .field (need (l = 0) .lent (.ok (.zextW (fld w 20 4) (fld w 15 5) (fld w 10 5))))
    | _ => .error .variant
  | 0x39 =>
    match (fld w 4 1).toNat with
    | 0 => need (l = 0) .lent (.ok (.sel (fld w 20 4) (fld w 15 5) (fld w 10 5) (fld w 5 5) (fld w 0 4)))
    | _ => .error .variant
  | 0x3a =>
    match (fld w 0 5).toNat with
    | 0 => need (fld w 18 2 = 0) .field (need (l = 0) .lent (need ((fld w 15 3) ≠ 0) .predicate (.ok (.cmpEq (fld w 20 4) (fld w 15 3) (fld w 10 5) (fld w 5 5)))))
    | 1 => need (fld w 18 2 = 0) .field (need (l = 0) .lent (need ((fld w 15 3) ≠ 0) .predicate (.ok (.cmpNe (fld w 20 4) (fld w 15 3) (fld w 10 5) (fld w 5 5)))))
    | 2 => need (fld w 18 2 = 0) .field (need (l = 0) .lent (need ((fld w 15 3) ≠ 0) .predicate (.ok (.cmpLt (fld w 20 4) (fld w 15 3) (fld w 10 5) (fld w 5 5)))))
    | 3 => need (fld w 18 2 = 0) .field (need (l = 0) .lent (need ((fld w 15 3) ≠ 0) .predicate (.ok (.cmpLe (fld w 20 4) (fld w 15 3) (fld w 10 5) (fld w 5 5)))))
    | 4 => need (fld w 18 2 = 0) .field (need (l = 0) .lent (need ((fld w 15 3) ≠ 0) .predicate (.ok (.cmpLtu (fld w 20 4) (fld w 15 3) (fld w 10 5) (fld w 5 5)))))
    | 5 => need (fld w 18 2 = 0) .field (need (l = 0) .lent (need ((fld w 15 3) ≠ 0) .predicate (.ok (.cmpLeu (fld w 20 4) (fld w 15 3) (fld w 10 5) (fld w 5 5)))))
    | _ => .error .variant
  | _ => .error .opcode

/-- The immediate, predicate and cross-cluster forms (R143 to R148). -/
noncomputable def decodeImmediate (l : BitVec 6) (w : BitVec 32) : Except Reject Instr :=
  match (fld w 24 8).toNat with
  | 0x40 =>
    match (fld w 9 1).toNat with
    | 0 => .ok (.addi (fld w 20 4) (fld w 15 5) (fld w 10 5) ((l ++ fld w 0 9 : BitVec 15)))
    | _ => .ok (.addiW (fld w 20 4) (fld w 15 5) (fld w 10 5) ((l ++ fld w 0 9 : BitVec 15)))
  | 0x41 =>
    match (fld w 9 1).toNat with
    | 0 => .ok (.andi (fld w 20 4) (fld w 15 5) (fld w 10 5) ((l ++ fld w 0 9 : BitVec 15)))
    | _ => .error .variant
  | 0x42 =>
    match (fld w 9 1).toNat with
    | 0 => .ok (.ori (fld w 20 4) (fld w 15 5) (fld w 10 5) ((l ++ fld w 0 9 : BitVec 15)))
    | _ => .error .variant
  | 0x43 =>
    match (fld w 9 1).toNat with
    | 0 => .ok (.xori (fld w 20 4) (fld w 15 5) (fld w 10 5) ((l ++ fld w 0 9 : BitVec 15)))
    | _ => .error .variant
  | 0x44 =>
    match (fld w 9 1).toNat with
    | 0 => need (fld w 6 3 = 0) .field (need (l = 0) .lent (.ok (.shli (fld w 20 4) (fld w 15 5) (fld w 10 5) (fld w 0 6))))
    | _ => need (fld w 5 4 = 0) .field (need (l = 0) .lent (.ok (.shliW (fld w 20 4) (fld w 15 5) (fld w 10 5) (fld w 0 5))))
  | 0x45 =>
    match (fld w 9 1).toNat with
    | 0 => need (fld w 6 3 = 0) .field (need (l = 0) .lent (.ok (.shri (fld w 20 4) (fld w 15 5) (fld w 10 5) (fld w 0 6))))
    | _ => need (fld w 5 4 = 0) .field (need (l = 0) .lent (.ok (.shriW (fld w 20 4) (fld w 15 5) (fld w 10 5) (fld w 0 5))))
  | 0x46 =>
    match (fld w 9 1).toNat with
    | 0 => need (fld w 6 3 = 0) .field (need (l = 0) .lent (.ok (.srai (fld w 20 4) (fld w 15 5) (fld w 10 5) (fld w 0 6))))
    | _ => need (fld w 5 4 = 0) .field (need (l = 0) .lent (.ok (.sraiW (fld w 20 4) (fld w 15 5) (fld w 10 5) (fld w 0 5))))
  | 0x47 =>
    match (fld w 12 4).toNat with
    | 0 => need (fld w 19 1 = 0) .field (need ((fld w 16 3) ≠ 0) .predicate (.ok (.cmpiEq (fld w 20 4) (fld w 16 3) (fld w 7 5) ((l ++ fld w 0 7 : BitVec 13)))))
    | 1 => need (fld w 19 1 = 0) .field (need ((fld w 16 3) ≠ 0) .predicate (.ok (.cmpiNe (fld w 20 4) (fld w 16 3) (fld w 7 5) ((l ++ fld w 0 7 : BitVec 13)))))
    | 2 => need (fld w 19 1 = 0) .field (need ((fld w 16 3) ≠ 0) .predicate (.ok (.cmpiLt (fld w 20 4) (fld w 16 3) (fld w 7 5) ((l ++ fld w 0 7 : BitVec 13)))))
    | 3 => need (fld w 19 1 = 0) .field (need ((fld w 16 3) ≠ 0) .predicate (.ok (.cmpiLe (fld w 20 4) (fld w 16 3) (fld w 7 5) ((l ++ fld w 0 7 : BitVec 13)))))
    | 4 => need (fld w 19 1 = 0) .field (need ((fld w 16 3) ≠ 0) .predicate (.ok (.cmpiLtu (fld w 20 4) (fld w 16 3) (fld w 7 5) ((l ++ fld w 0 7 : BitVec 13)))))
    | 5 => need (fld w 19 1 = 0) .field (need ((fld w 16 3) ≠ 0) .predicate (.ok (.cmpiLeu (fld w 20 4) (fld w 16 3) (fld w 7 5) ((l ++ fld w 0 7 : BitVec 13)))))
    | 6 => need (fld w 19 1 = 0) .field (need ((fld w 16 3) ≠ 0) .predicate (.ok (.cmpiGt (fld w 20 4) (fld w 16 3) (fld w 7 5) ((l ++ fld w 0 7 : BitVec 13)))))
    | 7 => need (fld w 19 1 = 0) .field (need ((fld w 16 3) ≠ 0) .predicate (.ok (.cmpiGe (fld w 20 4) (fld w 16 3) (fld w 7 5) ((l ++ fld w 0 7 : BitVec 13)))))
    | 8 => need (fld w 19 1 = 0) .field (need ((fld w 16 3) ≠ 0) .predicate (.ok (.cmpiGtu (fld w 20 4) (fld w 16 3) (fld w 7 5) ((l ++ fld w 0 7 : BitVec 13)))))
    | 9 => need (fld w 19 1 = 0) .field (need ((fld w 16 3) ≠ 0) .predicate (.ok (.cmpiGeu (fld w 20 4) (fld w 16 3) (fld w 7 5) ((l ++ fld w 0 7 : BitVec 13)))))
    | _ => .error .variant
  | 0x48 => .ok (.movi (fld w 20 4) (fld w 15 5) ((l ++ fld w 0 15 : BitVec 21)))
  | 0x49 => .ok (.movhi (fld w 20 4) (fld w 15 5) ((l ++ fld w 0 15 : BitVec 21)))
  | 0x50 =>
    match (fld w 0 5).toNat with
    | 0 => need (fld w 9 1 = 0 ∧ fld w 14 1 = 0 ∧ fld w 18 2 = 0) .field (need (l = 0) .lent (need ((fld w 15 3) ≠ 0) .predicate (.ok (.pand (fld w 20 4) (fld w 15 3) (fld w 10 4) (fld w 5 4)))))
    | _ => .error .variant
  | 0x51 =>
    match (fld w 0 5).toNat with
    | 0 => need (fld w 9 1 = 0 ∧ fld w 14 1 = 0 ∧ fld w 18 2 = 0) .field (need (l = 0) .lent (need ((fld w 15 3) ≠ 0) .predicate (.ok (.por (fld w 20 4) (fld w 15 3) (fld w 10 4) (fld w 5 4)))))
    | _ => .error .variant
  | 0x52 =>
    match (fld w 0 5).toNat with
    | 0 => need (fld w 5 5 = 0 ∧ fld w 14 1 = 0 ∧ fld w 18 2 = 0) .field (need (l = 0) .lent (need ((fld w 15 3) ≠ 0) .predicate (.ok (.pnot (fld w 20 4) (fld w 15 3) (fld w 10 4)))))
    | _ => .error .variant
  | 0x53 =>
    match (fld w 0 5).toNat with
    | 0 => need (fld w 9 1 = 0 ∧ fld w 14 1 = 0 ∧ fld w 18 2 = 0) .field (need (l = 0) .lent (need ((fld w 15 3) ≠ 0) .predicate (.ok (.pxor (fld w 20 4) (fld w 15 3) (fld w 10 4) (fld w 5 4)))))
    | _ => .error .variant
  | 0x54 =>
    match (fld w 0 5).toNat with
    | 0 => need (fld w 5 5 = 0) .field (need (l = 0) .lent (.ok (.xab (fld w 20 4) (fld w 15 5) (fld w 10 5))))
    | _ => .error .variant
  | 0x55 =>
    match (fld w 0 5).toNat with
    | 0 => need (fld w 5 5 = 0) .field (need (l = 0) .lent (.ok (.xba (fld w 20 4) (fld w 15 5) (fld w 10 5))))
    | 1 => need (fld w 6 4 = 0) .field (need (l = 0) .lent (.ok (.xbaH (fld w 20 4) (fld w 15 5) ((fld w 5 1 ++ fld w 10 5 : BitVec 6)))))
    | _ => .error .variant
  | _ => .error .opcode

/-- The scalar floating-point forms (R149 to R153). -/
noncomputable def decodeFloat (l : BitVec 6) (w : BitVec 32) : Except Reject Instr :=
  match (fld w 24 8).toNat with
  | 0x60 =>
    match (fld w 2 3).toNat with
    | 0 => need (l = 0) .lent (.ok (.fadd (fld w 20 4) (fld w 15 5) (fld w 10 5) (fld w 5 5) (fld w 0 2)))
    | _ => .error .variant
  | 0x61 =>
    match (fld w 2 3).toNat with
    | 0 => need (l = 0) .lent (.ok (.fsub (fld w 20 4) (fld w 15 5) (fld w 10 5) (fld w 5 5) (fld w 0 2)))
    | _ => .error .variant
  | 0x62 =>
    match (fld w 2 3).toNat with
    | 0 => need (l = 0) .lent (.ok (.fmul (fld w 20 4) (fld w 15 5) (fld w 10 5) (fld w 5 5) (fld w 0 2)))
    | _ => .error .variant
  | 0x63 =>
    match (fld w 2 3).toNat with
    | 0 => need (l = 0) .lent (.ok (.ffma (fld w 20 4) (fld w 15 5) (fld w 10 5) (fld w 5 5) (fld w 0 2)))
    | _ => .error .variant
  | 0x64 =>
    match (fld w 2 3).toNat with
    | 0 => need (l = 0) .lent (.ok (.fdiv (fld w 20 4) (fld w 15 5) (fld w 10 5) (fld w 5 5) (fld w 0 2)))
    | _ => .error .variant
  | 0x65 =>
    match (fld w 2 3).toNat with
    | 0 => need (fld w 5 5 = 0) .field (need (l = 0) .lent (.ok (.fsqrt (fld w 20 4) (fld w 15 5) (fld w 10 5) (fld w 0 2))))
    | _ => .error .variant
  | 0x66 =>
    match (fld w 0 5).toNat with
    | 0 => need (l = 0) .lent (.ok (.fmin (fld w 20 4) (fld w 15 5) (fld w 10 5) (fld w 5 5)))
    | _ => .error .variant
  | 0x67 =>
    match (fld w 0 5).toNat with
    | 0 => need (l = 0) .lent (.ok (.fmax (fld w 20 4) (fld w 15 5) (fld w 10 5) (fld w 5 5)))
    | _ => .error .variant
  | 0x68 =>
    match (fld w 0 5).toNat with
    | 0 => need (fld w 18 2 = 0) .field (need (l = 0) .lent (need ((fld w 15 3) ≠ 0) .predicate (.ok (.fcmpEq (fld w 20 4) (fld w 15 3) (fld w 10 5) (fld w 5 5)))))
    | 1 => need (fld w 18 2 = 0) .field (need (l = 0) .lent (need ((fld w 15 3) ≠ 0) .predicate (.ok (.fcmpLt (fld w 20 4) (fld w 15 3) (fld w 10 5) (fld w 5 5)))))
    | 2 => need (fld w 18 2 = 0) .field (need (l = 0) .lent (need ((fld w 15 3) ≠ 0) .predicate (.ok (.fcmpLe (fld w 20 4) (fld w 15 3) (fld w 10 5) (fld w 5 5)))))
    | 3 => need (fld w 18 2 = 0) .field (need (l = 0) .lent (need ((fld w 15 3) ≠ 0) .predicate (.ok (.fcmpUn (fld w 20 4) (fld w 15 3) (fld w 10 5) (fld w 5 5)))))
    | 4 => need (fld w 18 2 = 0) .field (need (l = 0) .lent (need ((fld w 15 3) ≠ 0) .predicate (.ok (.fcmpNe (fld w 20 4) (fld w 15 3) (fld w 10 5) (fld w 5 5)))))
    | _ => .error .variant
  | 0x69 =>
    match (fld w 2 3).toNat with
    | 0 => need (fld w 5 5 = 0) .field (need (fldL l 0 5 = 0) .lent (.ok (.fcvtF32S64 (fld w 20 4) (fld w 15 5) (fld w 10 5) (fld w 0 2) (l.getLsbD 5))))
    | 1 => need (fld w 5 5 = 0) .field (need (fldL l 0 5 = 0) .lent (.ok (.fcvtF32Z64 (fld w 20 4) (fld w 15 5) (fld w 10 5) (fld w 0 2) (l.getLsbD 5))))
    | 2 => need (fld w 5 5 = 0) .field (need (fldL l 0 5 = 0) .lent (.ok (.fcvtS64F32 (fld w 20 4) (fld w 15 5) (fld w 10 5) (fld w 0 2) (l.getLsbD 5))))
    | 3 => need (fld w 5 5 = 0) .field (need (fldL l 0 5 = 0) .lent (.ok (.fcvtZ64F32 (fld w 20 4) (fld w 15 5) (fld w 10 5) (fld w 0 2) (l.getLsbD 5))))
    | 4 => need (fld w 5 5 = 0) .field (need (fldL l 0 5 = 0) .lent (.ok (.fcvtF32Bf16 (fld w 20 4) (fld w 15 5) (fld w 10 5) (fld w 0 2) (l.getLsbD 5))))
    | 5 => need (fld w 5 5 = 0) .field (need (fldL l 0 5 = 0) .lent (.ok (.fcvtBf16F32 (fld w 20 4) (fld w 15 5) (fld w 10 5) (fld w 0 2) (l.getLsbD 5))))
    | 6 => need (fld w 5 5 = 0) .field (need (fldL l 0 5 = 0) .lent (.ok (.fcvtF32F16 (fld w 20 4) (fld w 15 5) (fld w 10 5) (fld w 0 2) (l.getLsbD 5))))
    | _ => need (fld w 5 5 = 0) .field (need (fldL l 0 5 = 0) .lent (.ok (.fcvtF16F32 (fld w 20 4) (fld w 15 5) (fld w 10 5) (fld w 0 2) (l.getLsbD 5))))
  | _ => .error .opcode

/-- The local-store and mortar forms (R154). -/
noncomputable def decodeMemory (l : BitVec 6) (w : BitVec 32) : Except Reject Instr :=
  match (fld w 24 8).toNat with
  | 0x70 =>
    match (fld w 6 4).toNat with
    | 0 => .ok (.ldsD (fld w 20 4) (fld w 15 5) (fld w 10 5) ((l ++ fld w 0 6 : BitVec 12)))
    | 1 => .ok (.ldsW (fld w 20 4) (fld w 15 5) (fld w 10 5) ((l ++ fld w 0 6 : BitVec 12)))
    | 2 => .ok (.ldsWu (fld w 20 4) (fld w 15 5) (fld w 10 5) ((l ++ fld w 0 6 : BitVec 12)))
    | 3 => .ok (.ldsH (fld w 20 4) (fld w 15 5) (fld w 10 5) ((l ++ fld w 0 6 : BitVec 12)))
    | 4 => .ok (.ldsHu (fld w 20 4) (fld w 15 5) (fld w 10 5) ((l ++ fld w 0 6 : BitVec 12)))
    | 5 => .ok (.ldsB (fld w 20 4) (fld w 15 5) (fld w 10 5) ((l ++ fld w 0 6 : BitVec 12)))
    | 6 => .ok (.ldsBu (fld w 20 4) (fld w 15 5) (fld w 10 5) ((l ++ fld w 0 6 : BitVec 12)))
    | 7 => .ok (.ldsFw (fld w 20 4) (fld w 15 5) (fld w 10 5) ((l ++ fld w 0 6 : BitVec 12)))
    | 8 => .ok (.ldsFc (fld w 20 4) (fld w 15 5) (fld w 10 5) ((l ++ fld w 0 6 : BitVec 12)))
    | _ => .error .variant
  | 0x71 =>
    match (fld w 0 5).toNat with
    | 0 => need (l = 0) .lent (.ok (.ldsXD (fld w 20 4) (fld w 15 5) (fld w 10 5) (fld w 5 5)))
    | 1 => need (l = 0) .lent (.ok (.ldsXW (fld w 20 4) (fld w 15 5) (fld w 10 5) (fld w 5 5)))
    | 2 => need (l = 0) .lent (.ok (.ldsXWu (fld w 20 4) (fld w 15 5) (fld w 10 5) (fld w 5 5)))
    | 3 => need (l = 0) .lent (.ok (.ldsXH (fld w 20 4) (fld w 15 5) (fld w 10 5) (fld w 5 5)))
    | 4 => need (l = 0) .lent (.ok (.ldsXHu (fld w 20 4) (fld w 15 5) (fld w 10 5) (fld w 5 5)))
    | 5 => need (l = 0) .lent (.ok (.ldsXB (fld w 20 4) (fld w 15 5) (fld w 10 5) (fld w 5 5)))
    | 6 => need (l = 0) .lent (.ok (.ldsXBu (fld w 20 4) (fld w 15 5) (fld w 10 5) (fld w 5 5)))
    | _ => .error .variant
  | 0x72 =>
    match (fld w 6 4).toNat with
    | 0 => .ok (.stsD (fld w 20 4) (fld w 15 5) (fld w 10 5) ((l ++ fld w 0 6 : BitVec 12)))
    | 1 => .ok (.stsW (fld w 20 4) (fld w 15 5) (fld w 10 5) ((l ++ fld w 0 6 : BitVec 12)))
    | 2 => .ok (.stsH (fld w 20 4) (fld w 15 5) (fld w 10 5) ((l ++ fld w 0 6 : BitVec 12)))
    | 3 => .ok (.stsB (fld w 20 4) (fld w 15 5) (fld w 10 5) ((l ++ fld w 0 6 : BitVec 12)))
    | 4 => .ok (.stsFs (fld w 20 4) (fld w 15 5) (fld w 10 5) ((l ++ fld w 0 6 : BitVec 12)))
    | 5 => .ok (.stsFe (fld w 20 4) (fld w 15 5) (fld w 10 5) ((l ++ fld w 0 6 : BitVec 12)))
    | _ => .error .variant
  | 0x73 =>
    match (fld w 0 5).toNat with
    | 0 => need (l = 0) .lent (.ok (.stsXD (fld w 20 4) (fld w 15 5) (fld w 10 5) (fld w 5 5)))
    | 1 => need (l = 0) .lent (.ok (.stsXW (fld w 20 4) (fld w 15 5) (fld w 10 5) (fld w 5 5)))
    | 2 => need (l = 0) .lent (.ok (.stsXH (fld w 20 4) (fld w 15 5) (fld w 10 5) (fld w 5 5)))
    | 3 => need (l = 0) .lent (.ok (.stsXB (fld w 20 4) (fld w 15 5) (fld w 10 5) (fld w 5 5)))
    | _ => .error .variant
  | 0x74 =>
    match (fld w 6 4).toNat with
    | 0 => .ok (.ldmD (fld w 20 4) (fld w 15 5) (fld w 10 5) ((l ++ fld w 0 6 : BitVec 12)))
    | 1 => .ok (.ldmW (fld w 20 4) (fld w 15 5) (fld w 10 5) ((l ++ fld w 0 6 : BitVec 12)))
    | 2 => .ok (.ldmWu (fld w 20 4) (fld w 15 5) (fld w 10 5) ((l ++ fld w 0 6 : BitVec 12)))
    | 3 => .ok (.ldmH (fld w 20 4) (fld w 15 5) (fld w 10 5) ((l ++ fld w 0 6 : BitVec 12)))
    | 4 => .ok (.ldmHu (fld w 20 4) (fld w 15 5) (fld w 10 5) ((l ++ fld w 0 6 : BitVec 12)))
    | 5 => .ok (.ldmB (fld w 20 4) (fld w 15 5) (fld w 10 5) ((l ++ fld w 0 6 : BitVec 12)))
    | 6 => .ok (.ldmBu (fld w 20 4) (fld w 15 5) (fld w 10 5) ((l ++ fld w 0 6 : BitVec 12)))
    | _ => .error .variant
  | 0x75 =>
    match (fld w 0 5).toNat with
    | 0 => need (l = 0) .lent (.ok (.ldmXD (fld w 20 4) (fld w 15 5) (fld w 10 5) (fld w 5 5)))
    | 1 => need (l = 0) .lent (.ok (.ldmXW (fld w 20 4) (fld w 15 5) (fld w 10 5) (fld w 5 5)))
    | 2 => need (l = 0) .lent (.ok (.ldmXWu (fld w 20 4) (fld w 15 5) (fld w 10 5) (fld w 5 5)))
    | 3 => need (l = 0) .lent (.ok (.ldmXH (fld w 20 4) (fld w 15 5) (fld w 10 5) (fld w 5 5)))
    | 4 => need (l = 0) .lent (.ok (.ldmXHu (fld w 20 4) (fld w 15 5) (fld w 10 5) (fld w 5 5)))
    | 5 => need (l = 0) .lent (.ok (.ldmXB (fld w 20 4) (fld w 15 5) (fld w 10 5) (fld w 5 5)))
    | 6 => need (l = 0) .lent (.ok (.ldmXBu (fld w 20 4) (fld w 15 5) (fld w 10 5) (fld w 5 5)))
    | _ => .error .variant
  | 0x76 =>
    match (fld w 6 4).toNat with
    | 0 => .ok (.stmD (fld w 20 4) (fld w 15 5) (fld w 10 5) ((l ++ fld w 0 6 : BitVec 12)))
    | 1 => .ok (.stmW (fld w 20 4) (fld w 15 5) (fld w 10 5) ((l ++ fld w 0 6 : BitVec 12)))
    | 2 => .ok (.stmH (fld w 20 4) (fld w 15 5) (fld w 10 5) ((l ++ fld w 0 6 : BitVec 12)))
    | 3 => .ok (.stmB (fld w 20 4) (fld w 15 5) (fld w 10 5) ((l ++ fld w 0 6 : BitVec 12)))
    | _ => .error .variant
  | 0x77 =>
    match (fld w 0 5).toNat with
    | 0 => need (l = 0) .lent (.ok (.stmXD (fld w 20 4) (fld w 15 5) (fld w 10 5) (fld w 5 5)))
    | 1 => need (l = 0) .lent (.ok (.stmXW (fld w 20 4) (fld w 15 5) (fld w 10 5) (fld w 5 5)))
    | 2 => need (l = 0) .lent (.ok (.stmXH (fld w 20 4) (fld w 15 5) (fld w 10 5) (fld w 5 5)))
    | 3 => need (l = 0) .lent (.ok (.stmXB (fld w 20 4) (fld w 15 5) (fld w 10 5) (fld w 5 5)))
    | _ => .error .variant
  | 0x78 =>
    match (fld w 0 5).toNat with
    | 0 => need (l = 0) .lent (.ok (.atomAdd (fld w 20 4) (fld w 15 5) (fld w 10 5) (fld w 5 5)))
    | 1 => need (l = 0) .lent (.ok (.atomAddW (fld w 20 4) (fld w 15 5) (fld w 10 5) (fld w 5 5)))
    | 2 => need (l = 0) .lent (.ok (.atomAnd (fld w 20 4) (fld w 15 5) (fld w 10 5) (fld w 5 5)))
    | 3 => need (l = 0) .lent (.ok (.atomAndW (fld w 20 4) (fld w 15 5) (fld w 10 5) (fld w 5 5)))
    | 4 => need (l = 0) .lent (.ok (.atomOr (fld w 20 4) (fld w 15 5) (fld w 10 5) (fld w 5 5)))
    | 5 => need (l = 0) .lent (.ok (.atomOrW (fld w 20 4) (fld w 15 5) (fld w 10 5) (fld w 5 5)))
    | 6 => need (l = 0) .lent (.ok (.atomXor (fld w 20 4) (fld w 15 5) (fld w 10 5) (fld w 5 5)))
    | 7 => need (l = 0) .lent (.ok (.atomXorW (fld w 20 4) (fld w 15 5) (fld w 10 5) (fld w 5 5)))
    | 8 => need (l = 0) .lent (.ok (.atomMin (fld w 20 4) (fld w 15 5) (fld w 10 5) (fld w 5 5)))
    | 9 => need (l = 0) .lent (.ok (.atomMinW (fld w 20 4) (fld w 15 5) (fld w 10 5) (fld w 5 5)))
    | 10 => need (l = 0) .lent (.ok (.atomMax (fld w 20 4) (fld w 15 5) (fld w 10 5) (fld w 5 5)))
    | 11 => need (l = 0) .lent (.ok (.atomMaxW (fld w 20 4) (fld w 15 5) (fld w 10 5) (fld w 5 5)))
    | 12 => need (l = 0) .lent (.ok (.atomMinu (fld w 20 4) (fld w 15 5) (fld w 10 5) (fld w 5 5)))
    | 13 => need (l = 0) .lent (.ok (.atomMinuW (fld w 20 4) (fld w 15 5) (fld w 10 5) (fld w 5 5)))
    | 14 => need (l = 0) .lent (.ok (.atomMaxu (fld w 20 4) (fld w 15 5) (fld w 10 5) (fld w 5 5)))
    | 15 => need (l = 0) .lent (.ok (.atomMaxuW (fld w 20 4) (fld w 15 5) (fld w 10 5) (fld w 5 5)))
    | 16 => need (l = 0) .lent (.ok (.atomSwap (fld w 20 4) (fld w 15 5) (fld w 10 5) (fld w 5 5)))
    | 17 => need (l = 0) .lent (.ok (.atomSwapW (fld w 20 4) (fld w 15 5) (fld w 10 5) (fld w 5 5)))
    | 18 => need (l = 0) .lent (.ok (.atomCas (fld w 20 4) (fld w 15 5) (fld w 10 5) (fld w 5 5)))
    | 19 => need (l = 0) .lent (.ok (.atomCasW (fld w 20 4) (fld w 15 5) (fld w 10 5) (fld w 5 5)))
    | _ => .error .variant
  | 0x79 =>
    match (fld w 0 5).toNat with
    | 0 => need (fld w 15 5 = 0) .field (need (l = 0) .lent (.ok (.caddD (fld w 20 4) (fld w 10 5) (fld w 5 5))))
    | 1 => need (fld w 15 5 = 0) .field (need (l = 0) .lent (.ok (.caddW (fld w 20 4) (fld w 10 5) (fld w 5 5))))
    | _ => .error .variant
  | 0x7a =>
    match (fld w 0 5).toNat with
    | 0 => need (fld w 15 5 = 0) .field (need (l = 0) .lent (.ok (.lease (fld w 20 4) (fld w 10 5) (fld w 5 5))))
    | _ => .error .variant
  | 0x7b =>
    match (fld w 0 5).toNat with
    | 0 => need (fld w 5 5 = 0) .field (need (l = 0) .lent (.ok (.unlease (fld w 20 4) (fld w 15 5) (fld w 10 5))))
    | _ => .error .variant
  | 0x7c =>
    match (fld w 0 5).toNat with
    | 0 => need (l = 0) .lent (.ok (.snap (fld w 20 4) (fld w 15 5) (fld w 10 5) (fld w 5 5)))
    | _ => .error .variant
  | 0x7d =>
    match (fld w 0 5).toNat with
    | 0 => need (fld w 5 5 = 0 ∧ fld w 15 5 = 0) .field (need (l = 0) .lent (.ok (.accept (fld w 20 4) (fld w 10 5))))
    | _ => .error .variant
  | 0x7e =>
    match (fld w 0 5).toNat with
    | 0 => need (fld w 5 5 = 0 ∧ fld w 15 5 = 0) .field (need (l = 0) .lent (.ok (.reject (fld w 20 4) (fld w 10 5))))
    | _ => .error .variant
  | 0x80 =>
    match (fld w 0 3).toNat with
    | 0 => need (fld w 8 6 = 0) .field (.ok (.ldh (fld w 20 4) (fld w 14 6) (fld w 3 5) l))
    | _ => .error .variant
  | 0x81 =>
    match (fld w 0 3).toNat with
    | 0 => need (fld w 8 6 = 0) .field (.ok (.ldhd (fld w 20 4) (fld w 14 6) (fld w 3 5) l))
    | _ => .error .variant
  | 0x82 =>
    match (fld w 0 3).toNat with
    | 0 => need (fld w 8 6 = 0) .field (.ok (.sth (fld w 20 4) (fld w 14 6) (fld w 3 5) l))
    | _ => .error .variant
  | _ => .error .opcode

/-- The tile and system forms (R154). -/
noncomputable def decodeTile (l : BitVec 6) (w : BitVec 32) : Except Reject Instr :=
  match (fld w 24 8).toNat with
  | 0x90 =>
    match (fld w 0 3).toNat with
    | 0 => need (fld w 3 5 = 0) .field (need (l = 0) .lent (.ok (.dup (fld w 20 4) (fld w 14 6) (fld w 8 6))))
    | _ => .error .variant
  | 0x91 =>
    match (fld w 0 3).toNat with
    | 0 => need (fld w 3 11 = 0) .field (need (l = 0) .lent (.ok (.drop (fld w 20 4) (fld w 14 6))))
    | _ => .error .variant
  | 0x92 =>
    match (fld w 0 3).toNat with
    | 0 => need (l = 0) .lent (.ok (.tnew (fld w 20 4) (fld w 14 6) (fld w 8 6) (fld w 3 5)))
    | _ => .error .variant
  | 0x93 =>
    match (fld w 0 4).toNat with
    | 0 => need (l = 0) .lent (.ok (.tdesc (fld w 20 4) (fld w 14 6) (fld w 9 5) (fld w 4 5)))
    | _ => .error .variant
  | 0x94 =>
    match (fld w 0 4).toNat with
    | 0 => need (l = 0) .lent (.ok (.tget (fld w 20 4) (fld w 14 6) (fld w 9 5) (fld w 4 5)))
    | _ => .error .variant
  | 0x95 =>
    match (fld w 0 4).toNat with
    | 0 => need (l = 0) .lent (.ok (.tset (fld w 20 4) (fld w 14 6) (fld w 9 5) (fld w 4 5)))
    | _ => .error .variant
  | 0x96 =>
    match (fld w 0 4).toNat with
    | 0 => need (l = 0) .lent (.ok (.tsetv (fld w 20 4) (fld w 14 6) (fld w 9 5) (fld w 4 5)))
    | _ => .error .variant
  | 0x97 =>
    match (fld w 0 3).toNat with
    | 0 => need (fld w 8 6 = 0) .field (need (l = 0) .lent (.ok (.tseal (fld w 20 4) (fld w 14 6) (fld w 3 5))))
    | _ => .error .variant
  | 0x98 =>
    match (fld w 0 3).toNat with
    | 0 => need (fld w 3 11 = 0) .field (need (l = 0) .lent (.ok (.topen (fld w 20 4) (fld w 14 6))))
    | _ => .error .variant
  | 0x99 =>
    match (fld w 0 4).toNat with
    | 0 => need (fld w 4 5 = 0) .field (need (l = 0) .lent (.ok (.tmove (fld w 20 4) (fld w 14 6) (fld w 9 5))))
    | _ => .error .variant
  | 0x9a =>
    match (fld w 0 4).toNat with
    | 0 => need (fld w 4 5 = 0) .field (need (l = 0) .lent (.ok (.tuniq (fld w 20 4) (fld w 14 6) (fld w 9 5))))
    | _ => .error .variant
  | 0x9b =>
    match (fld w 0 4).toNat with
    | 0 => need (l = 0) .lent (.ok (.kvfind (fld w 20 4) (fld w 14 6) (fld w 9 5) (fld w 4 5)))
    | _ => .error .variant
  | 0xa0 =>
    match (fld w 0 5).toNat with
    | 0 => need (fld w 15 5 = 0) .field (need (l = 0) .lent (.ok (.spload (fld w 20 4) (fld w 10 5) (fld w 5 5))))
    | _ => .error .variant
  | 0xa1 =>
    match (fld w 0 5).toNat with
    | 0 => need (l = 0) .lent (.ok (.spinv (fld w 20 4) (fld w 15 5) (fld w 10 5) (fld w 5 5)))
    | _ => .error .variant
  | 0xa2 =>
    match (fld w 0 5).toNat with
    | 0 => need (fld w 5 5 = 0) .field (need (l = 0) .lent (.ok (.quiesce (fld w 20 4) (fld w 15 5) (fld w 10 5))))
    | _ => .error .variant
  | 0xa3 =>
    match (fld w 0 5).toNat with
    | 0 => need (fld w 15 5 = 0) .field (need (l = 0) .lent (.ok (.ctxsave (fld w 20 4) (fld w 10 5) (fld w 5 5))))
    | _ => .error .variant
  | 0xa4 =>
    match (fld w 0 5).toNat with
    | 0 => need (fld w 15 5 = 0) .field (need (l = 0) .lent (.ok (.ctxload (fld w 20 4) (fld w 10 5) (fld w 5 5))))
    | _ => .error .variant
  | 0xa5 =>
    match (fld w 0 5).toNat with
    | 0 => need (fld w 5 15 = 0) .field (need (l = 0) .lent (.ok (.rejoin (fld w 20 4))))
    | _ => .error .variant
  | _ => .error .opcode

/-- The matrix forms (R197 to R202). -/
noncomputable def decodeMatrix (l : BitVec 6) (w : BitVec 32) : Except Reject Instr :=
  match (fld w 24 8).toNat with
  | 0xb0 =>
    match (fld w 0 3).toNat with
    | 0 => need (fld w 8 12 = 0) .field (need (l = 0) .lent (.ok (.mfmt (fld w 20 4) (fld w 3 5))))
    | _ => .error .variant
  | 0xb1 =>
    match (fld w 0 3).toNat with
    | 0 => need (l = 0) .lent (.ok (.mma (fld w 20 4) (fld w 14 6) (fld w 8 6) (fld w 3 5)))
    | _ => .error .variant
  | 0xb2 =>
    match (fld w 0 3).toNat with
    | 0 => need (l = 0) .lent (.ok (.mmac (fld w 20 4) (fld w 14 6) (fld w 8 6) (fld w 3 5)))
    | _ => .error .variant
  | 0xb3 =>
    match (fld w 0 3).toNat with
    | 0 => .ok (.gmma (fld w 20 4) (fld w 14 6) (fld w 8 6) (fld w 3 5) l)
    | 1 => .ok (.gmmaMc (fld w 20 4) (fld w 14 6) (fld w 8 6) (fld w 3 5) l)
    | _ => .error .variant
  | _ => .error .opcode

/-- The vector forms (R205). -/
noncomputable def decodeVector (l : BitVec 6) (w : BitVec 32) : Except Reject Instr :=
  match (fld w 24 8).toNat with
  | 0xc0 =>
    match (fld w 2 3).toNat with
    | 0 => need (fldL l 0 4 = 0 ∧ fldL l 5 1 = 0) .lent (.ok (.vaddVv (fld w 20 4) (fld w 15 5) (fld w 10 5) (fld w 5 5) (fld w 0 2) (l.getLsbD 4)))
    | 1 => need (fldL l 0 4 = 0 ∧ fldL l 5 1 = 0) .lent (.ok (.vaddVs (fld w 20 4) (fld w 15 5) (fld w 10 5) (fld w 5 5) (fld w 0 2) (l.getLsbD 4)))
    | _ => .error .variant
  | 0xc1 =>
    match (fld w 2 3).toNat with
    | 0 => need (fldL l 0 4 = 0 ∧ fldL l 5 1 = 0) .lent (.ok (.vsubVv (fld w 20 4) (fld w 15 5) (fld w 10 5) (fld w 5 5) (fld w 0 2) (l.getLsbD 4)))
    | 1 => need (fldL l 0 4 = 0 ∧ fldL l 5 1 = 0) .lent (.ok (.vsubVs (fld w 20 4) (fld w 15 5) (fld w 10 5) (fld w 5 5) (fld w 0 2) (l.getLsbD 4)))
    | _ => .error .variant
  | 0xc2 =>
    match (fld w 2 3).toNat with
    | 0 => need (fldL l 0 4 = 0 ∧ fldL l 5 1 = 0) .lent (.ok (.vmulVv (fld w 20 4) (fld w 15 5) (fld w 10 5) (fld w 5 5) (fld w 0 2) (l.getLsbD 4)))
    | 1 => need (fldL l 0 4 = 0 ∧ fldL l 5 1 = 0) .lent (.ok (.vmulVs (fld w 20 4) (fld w 15 5) (fld w 10 5) (fld w 5 5) (fld w 0 2) (l.getLsbD 4)))
    | _ => .error .variant
  | 0xc3 =>
    match (fld w 2 3).toNat with
    | 0 => need (fldL l 0 4 = 0 ∧ fldL l 5 1 = 0) .lent (.ok (.vfmaVv (fld w 20 4) (fld w 15 5) (fld w 10 5) (fld w 5 5) (fld w 0 2) (l.getLsbD 4)))
    | 1 => need (fldL l 0 4 = 0 ∧ fldL l 5 1 = 0) .lent (.ok (.vfmaVs (fld w 20 4) (fld w 15 5) (fld w 10 5) (fld w 5 5) (fld w 0 2) (l.getLsbD 4)))
    | 2 => need (fldL l 0 4 = 0 ∧ fldL l 5 1 = 0) .lent (.ok (.vfmaVn (fld w 20 4) (fld w 15 5) (fld w 10 5) (fld w 5 5) (fld w 0 2) (l.getLsbD 4)))
    | _ => .error .variant
  | 0xc4 =>
    match (fld w 0 5).toNat with
    | 0 => need (fldL l 0 4 = 0 ∧ fldL l 5 1 = 0) .lent (.ok (.vmaxVv (fld w 20 4) (fld w 15 5) (fld w 10 5) (fld w 5 5) (l.getLsbD 4)))
    | 1 => need (fldL l 0 4 = 0 ∧ fldL l 5 1 = 0) .lent (.ok (.vmaxVs (fld w 20 4) (fld w 15 5) (fld w 10 5) (fld w 5 5) (l.getLsbD 4)))
    | _ => .error .variant
  | 0xc5 =>
    match (fld w 0 5).toNat with
    | 0 => need (fldL l 0 4 = 0 ∧ fldL l 5 1 = 0) .lent (.ok (.vminVv (fld w 20 4) (fld w 15 5) (fld w 10 5) (fld w 5 5) (l.getLsbD 4)))
    | 1 => need (fldL l 0 4 = 0 ∧ fldL l 5 1 = 0) .lent (.ok (.vminVs (fld w 20 4) (fld w 15 5) (fld w 10 5) (fld w 5 5) (l.getLsbD 4)))
    | _ => .error .variant
  | 0xc6 =>
    match (fld w 0 5).toNat with
    | 0 => need (fld w 5 5 = 0) .field (need (fldL l 0 4 = 0 ∧ fldL l 5 1 = 0) .lent (.ok (.vabs (fld w 20 4) (fld w 15 5) (fld w 10 5) (l.getLsbD 4))))
    | _ => .error .variant
  | 0xc7 =>
    match (fld w 0 5).toNat with
    | 0 => need (fld w 5 5 = 0) .field (need (fldL l 0 4 = 0 ∧ fldL l 5 1 = 0) .lent (.ok (.vneg (fld w 20 4) (fld w 15 5) (fld w 10 5) (l.getLsbD 4))))
    | _ => .error .variant
  | 0xc8 =>
    match (fld w 0 5).toNat with
    | 0 => need (fldL l 0 4 = 0 ∧ fldL l 5 1 = 0) .lent (.ok (.vclmpVs (fld w 20 4) (fld w 15 5) (fld w 10 5) (fld w 5 5) (l.getLsbD 4)))
    | 1 => need (fldL l 0 4 = 0 ∧ fldL l 5 1 = 0) .lent (.ok (.vclmpVv (fld w 20 4) (fld w 15 5) (fld w 10 5) (fld w 5 5) (l.getLsbD 4)))
    | _ => .error .variant
  | 0xc9 =>
    match (fld w 2 3).toNat with
    | 0 => need (fld w 5 5 = 0) .field (need (fldL l 0 4 = 0) .lent (.ok (.vcvt (fld w 20 4) (fld w 15 5) (fld w 10 5) (fld w 0 2) (l.getLsbD 5) (l.getLsbD 4))))
    | _ => .error .variant
  | 0xca =>
    match (fld w 2 3).toNat with
    | 0 => need (fldL l 0 4 = 0) .lent (.ok (.vcvtS (fld w 20 4) (fld w 15 5) (fld w 10 5) (fld w 5 5) (fld w 0 2) (l.getLsbD 5) (l.getLsbD 4)))
    | _ => .error .variant
  | 0xcb =>
    match (fld w 0 5).toNat with
    | 0 => need (fld w 5 5 = 0) .field (need (fldL l 0 4 = 0 ∧ fldL l 5 1 = 0) .lent (.ok (.vexp (fld w 20 4) (fld w 15 5) (fld w 10 5) (l.getLsbD 4))))
    | 1 => need (fld w 5 5 = 0) .field (need (fldL l 0 4 = 0 ∧ fldL l 5 1 = 0) .lent (.ok (.vexpB2 (fld w 20 4) (fld w 15 5) (fld w 10 5) (l.getLsbD 4))))
    | _ => .error .variant
  | 0xcc =>
    match (fld w 0 5).toNat with
    | 0 => need (fld w 5 5 = 0) .field (need (fldL l 0 4 = 0 ∧ fldL l 5 1 = 0) .lent (.ok (.vrcp (fld w 20 4) (fld w 15 5) (fld w 10 5) (l.getLsbD 4))))
    | _ => .error .variant
  | 0xcd =>
    match (fld w 0 5).toNat with
    | 0 => need (fld w 5 5 = 0) .field (need (fldL l 0 4 = 0 ∧ fldL l 5 1 = 0) .lent (.ok (.vrsq (fld w 20 4) (fld w 15 5) (fld w 10 5) (l.getLsbD 4))))
    | _ => .error .variant
  | 0xce =>
    match (fld w 0 5).toNat with
    | 0 => need (fld w 5 5 = 0) .field (need (fldL l 0 4 = 0 ∧ fldL l 5 1 = 0) .lent (.ok (.vsumF (fld w 20 4) (fld w 15 5) (fld w 10 5) (l.getLsbD 4))))
    | 1 => need (fld w 5 5 = 0) .field (need (fldL l 0 4 = 0 ∧ fldL l 5 1 = 0) .lent (.ok (.vsumI (fld w 20 4) (fld w 15 5) (fld w 10 5) (l.getLsbD 4))))
    | _ => .error .variant
  | 0xcf =>
    match (fld w 0 5).toNat with
    | 0 => need (fld w 5 5 = 0) .field (need (fldL l 0 4 = 0 ∧ fldL l 5 1 = 0) .lent (.ok (.vrmax (fld w 20 4) (fld w 15 5) (fld w 10 5) (l.getLsbD 4))))
    | _ => .error .variant
  | 0xd0 =>
    match (fld w 0 5).toNat with
    | 0 => need (fldL l 0 4 = 0 ∧ fldL l 5 1 = 0) .lent (.ok (.vsel (fld w 20 4) (fld w 15 5) (fld w 10 5) (fld w 5 5) (l.getLsbD 4)))
    | _ => .error .variant
  | 0xd1 =>
    match (fld w 0 5).toNat with
    | 0 => need (fldL l 0 4 = 0 ∧ fldL l 5 1 = 0) .lent (.ok (.vcmpEqVv (fld w 20 4) (fld w 15 5) (fld w 10 5) (fld w 5 5) (l.getLsbD 4)))
    | 1 => need (fldL l 0 4 = 0 ∧ fldL l 5 1 = 0) .lent (.ok (.vcmpEqVs (fld w 20 4) (fld w 15 5) (fld w 10 5) (fld w 5 5) (l.getLsbD 4)))
    | 2 => need (fldL l 0 4 = 0 ∧ fldL l 5 1 = 0) .lent (.ok (.vcmpNeVv (fld w 20 4) (fld w 15 5) (fld w 10 5) (fld w 5 5) (l.getLsbD 4)))
    | 3 => need (fldL l 0 4 = 0 ∧ fldL l 5 1 = 0) .lent (.ok (.vcmpNeVs (fld w 20 4) (fld w 15 5) (fld w 10 5) (fld w 5 5) (l.getLsbD 4)))
    | 4 => need (fldL l 0 4 = 0 ∧ fldL l 5 1 = 0) .lent (.ok (.vcmpLtVv (fld w 20 4) (fld w 15 5) (fld w 10 5) (fld w 5 5) (l.getLsbD 4)))
    | 5 => need (fldL l 0 4 = 0 ∧ fldL l 5 1 = 0) .lent (.ok (.vcmpLtVs (fld w 20 4) (fld w 15 5) (fld w 10 5) (fld w 5 5) (l.getLsbD 4)))
    | 6 => need (fldL l 0 4 = 0 ∧ fldL l 5 1 = 0) .lent (.ok (.vcmpLeVv (fld w 20 4) (fld w 15 5) (fld w 10 5) (fld w 5 5) (l.getLsbD 4)))
    | 7 => need (fldL l 0 4 = 0 ∧ fldL l 5 1 = 0) .lent (.ok (.vcmpLeVs (fld w 20 4) (fld w 15 5) (fld w 10 5) (fld w 5 5) (l.getLsbD 4)))
    | 8 => need (fldL l 0 4 = 0 ∧ fldL l 5 1 = 0) .lent (.ok (.vcmpGtVv (fld w 20 4) (fld w 15 5) (fld w 10 5) (fld w 5 5) (l.getLsbD 4)))
    | 9 => need (fldL l 0 4 = 0 ∧ fldL l 5 1 = 0) .lent (.ok (.vcmpGtVs (fld w 20 4) (fld w 15 5) (fld w 10 5) (fld w 5 5) (l.getLsbD 4)))
    | 10 => need (fldL l 0 4 = 0 ∧ fldL l 5 1 = 0) .lent (.ok (.vcmpGeVv (fld w 20 4) (fld w 15 5) (fld w 10 5) (fld w 5 5) (l.getLsbD 4)))
    | 11 => need (fldL l 0 4 = 0 ∧ fldL l 5 1 = 0) .lent (.ok (.vcmpGeVs (fld w 20 4) (fld w 15 5) (fld w 10 5) (fld w 5 5) (l.getLsbD 4)))
    | _ => .error .variant
  | 0xd2 =>
    match (fld w 0 5).toNat with
    | 0 => need (fldL l 0 4 = 0 ∧ fldL l 5 1 = 0) .lent (.ok (.vtopkMax (fld w 20 4) (fld w 15 5) (fld w 10 5) (fld w 5 5) (l.getLsbD 4)))
    | 1 => need (fldL l 0 4 = 0 ∧ fldL l 5 1 = 0) .lent (.ok (.vtopkMin (fld w 20 4) (fld w 15 5) (fld w 10 5) (fld w 5 5) (l.getLsbD 4)))
    | _ => .error .variant
  | 0xd3 =>
    match (fld w 0 5).toNat with
    | 0 => need (fldL l 0 4 = 0 ∧ fldL l 5 1 = 0) .lent (.ok (.vgath (fld w 20 4) (fld w 15 5) (fld w 10 5) (fld w 5 5) (l.getLsbD 4)))
    | _ => .error .variant
  | 0xd4 =>
    match (fld w 0 5).toNat with
    | 0 => need (fldL l 0 4 = 0 ∧ fldL l 5 1 = 0) .lent (.ok (.vscat (fld w 20 4) (fld w 15 5) (fld w 10 5) (fld w 5 5) (l.getLsbD 4)))
    | _ => .error .variant
  | 0xd5 =>
    match (fld w 0 5).toNat with
    | 0 => need (fldL l 0 4 = 0 ∧ fldL l 5 1 = 0) .lent (.ok (.viota (fld w 20 4) (fld w 15 5) (fld w 10 5) (fld w 5 5) (l.getLsbD 4)))
    | _ => .error .variant
  | 0xd6 =>
    match (fld w 0 5).toNat with
    | 0 => need (fld w 5 5 = 0) .field (need (fldL l 0 4 = 0 ∧ fldL l 5 1 = 0) .lent (.ok (.vfill (fld w 20 4) (fld w 15 5) (fld w 10 5) (l.getLsbD 4))))
    | _ => .error .variant
  | 0xd7 =>
    match (fld w 0 5).toNat with
    | 0 => need (fldL l 0 4 = 0 ∧ fldL l 5 1 = 0) .lent (.ok (.vbfly (fld w 20 4) (fld w 15 5) (fld w 10 5) (fld w 5 5) (l.getLsbD 4)))
    | 1 => need (fldL l 0 4 = 0 ∧ fldL l 5 1 = 0) .lent (.ok (.vbflyCj (fld w 20 4) (fld w 15 5) (fld w 10 5) (fld w 5 5) (l.getLsbD 4)))
    | _ => .error .variant
  | 0xd8 =>
    match (fld w 0 5).toNat with
    | 0 => need (fldL l 0 4 = 0 ∧ fldL l 5 1 = 0) .lent (.ok (.vtwid (fld w 20 4) (fld w 15 5) (fld w 10 5) (fld w 5 5) (l.getLsbD 4)))
    | _ => .error .variant
  | 0xd9 =>
    match (fld w 2 3).toNat with
    | 0 => need (fldL l 0 4 = 0 ∧ fldL l 5 1 = 0) .lent (.ok (.vcmul (fld w 20 4) (fld w 15 5) (fld w 10 5) (fld w 5 5) (fld w 0 2) (l.getLsbD 4)))
    | 1 => need (fldL l 0 4 = 0 ∧ fldL l 5 1 = 0) .lent (.ok (.vcmulCj (fld w 20 4) (fld w 15 5) (fld w 10 5) (fld w 5 5) (fld w 0 2) (l.getLsbD 4)))
    | _ => .error .variant
  | 0xda =>
    match (fld w 0 5).toNat with
    | 0 => need (fldL l 0 4 = 0 ∧ fldL l 5 1 = 0) .lent (.ok (.viaddVv (fld w 20 4) (fld w 15 5) (fld w 10 5) (fld w 5 5) (l.getLsbD 4)))
    | 1 => need (fldL l 0 4 = 0 ∧ fldL l 5 1 = 0) .lent (.ok (.viaddVs (fld w 20 4) (fld w 15 5) (fld w 10 5) (fld w 5 5) (l.getLsbD 4)))
    | 2 => need (fldL l 0 4 = 0 ∧ fldL l 5 1 = 0) .lent (.ok (.viaddVvSat (fld w 20 4) (fld w 15 5) (fld w 10 5) (fld w 5 5) (l.getLsbD 4)))
    | 3 => need (fldL l 0 4 = 0 ∧ fldL l 5 1 = 0) .lent (.ok (.viaddVsSat (fld w 20 4) (fld w 15 5) (fld w 10 5) (fld w 5 5) (l.getLsbD 4)))
    | _ => .error .variant
  | 0xdb =>
    match (fld w 0 5).toNat with
    | 0 => need (fldL l 0 4 = 0 ∧ fldL l 5 1 = 0) .lent (.ok (.vimulVv (fld w 20 4) (fld w 15 5) (fld w 10 5) (fld w 5 5) (l.getLsbD 4)))
    | 1 => need (fldL l 0 4 = 0 ∧ fldL l 5 1 = 0) .lent (.ok (.vimulVs (fld w 20 4) (fld w 15 5) (fld w 10 5) (fld w 5 5) (l.getLsbD 4)))
    | _ => .error .variant
  | 0xdc =>
    match (fld w 0 5).toNat with
    | 0 => need (fldL l 0 4 = 0 ∧ fldL l 5 1 = 0) .lent (.ok (.vandVv (fld w 20 4) (fld w 15 5) (fld w 10 5) (fld w 5 5) (l.getLsbD 4)))
    | 1 => need (fldL l 0 4 = 0 ∧ fldL l 5 1 = 0) .lent (.ok (.vandVs (fld w 20 4) (fld w 15 5) (fld w 10 5) (fld w 5 5) (l.getLsbD 4)))
    | _ => .error .variant
  | 0xdd =>
    match (fld w 0 5).toNat with
    | 0 => need (fldL l 0 4 = 0 ∧ fldL l 5 1 = 0) .lent (.ok (.vorVv (fld w 20 4) (fld w 15 5) (fld w 10 5) (fld w 5 5) (l.getLsbD 4)))
    | 1 => need (fldL l 0 4 = 0 ∧ fldL l 5 1 = 0) .lent (.ok (.vorVs (fld w 20 4) (fld w 15 5) (fld w 10 5) (fld w 5 5) (l.getLsbD 4)))
    | _ => .error .variant
  | 0xde =>
    match (fld w 0 5).toNat with
    | 0 => need (fldL l 0 4 = 0 ∧ fldL l 5 1 = 0) .lent (.ok (.vxorVv (fld w 20 4) (fld w 15 5) (fld w 10 5) (fld w 5 5) (l.getLsbD 4)))
    | 1 => need (fldL l 0 4 = 0 ∧ fldL l 5 1 = 0) .lent (.ok (.vxorVs (fld w 20 4) (fld w 15 5) (fld w 10 5) (fld w 5 5) (l.getLsbD 4)))
    | _ => .error .variant
  | 0xdf =>
    match (fld w 0 5).toNat with
    | 0 => need (fldL l 0 4 = 0 ∧ fldL l 5 1 = 0) .lent (.ok (.vshlVv (fld w 20 4) (fld w 15 5) (fld w 10 5) (fld w 5 5) (l.getLsbD 4)))
    | 1 => need (fldL l 0 4 = 0 ∧ fldL l 5 1 = 0) .lent (.ok (.vshlVs (fld w 20 4) (fld w 15 5) (fld w 10 5) (fld w 5 5) (l.getLsbD 4)))
    | _ => .error .variant
  | 0xe0 =>
    match (fld w 0 5).toNat with
    | 0 => need (fldL l 0 4 = 0 ∧ fldL l 5 1 = 0) .lent (.ok (.vshrVv (fld w 20 4) (fld w 15 5) (fld w 10 5) (fld w 5 5) (l.getLsbD 4)))
    | 1 => need (fldL l 0 4 = 0 ∧ fldL l 5 1 = 0) .lent (.ok (.vshrVs (fld w 20 4) (fld w 15 5) (fld w 10 5) (fld w 5 5) (l.getLsbD 4)))
    | 2 => need (fldL l 0 4 = 0 ∧ fldL l 5 1 = 0) .lent (.ok (.vshrArVv (fld w 20 4) (fld w 15 5) (fld w 10 5) (fld w 5 5) (l.getLsbD 4)))
    | 3 => need (fldL l 0 4 = 0 ∧ fldL l 5 1 = 0) .lent (.ok (.vshrArVs (fld w 20 4) (fld w 15 5) (fld w 10 5) (fld w 5 5) (l.getLsbD 4)))
    | _ => .error .variant
  | 0xe1 =>
    match (fld w 0 5).toNat with
    | 0 => need (fld w 5 10 = 0) .field (need (fldL l 0 4 = 0 ∧ fldL l 5 1 = 0) .lent (.ok (.vflg (fld w 20 4) (fld w 15 5) (l.getLsbD 4))))
    | 1 => need (fld w 5 10 = 0) .field (need (fldL l 0 4 = 0 ∧ fldL l 5 1 = 0) .lent (.ok (.vflgClr (fld w 20 4) (fld w 15 5) (l.getLsbD 4))))
    | _ => .error .variant
  | 0xe2 =>
    match (fld w 0 5).toNat with
    | 0 => need (fldL l 0 4 = 0 ∧ fldL l 5 1 = 0) .lent (.ok (.vmaskw (fld w 20 4) (fld w 15 5) (fld w 10 5) (fld w 5 5) (l.getLsbD 4)))
    | _ => .error .variant
  | _ => .error .opcode

/-- The copy forms (R223 to R227). -/
noncomputable def decodeCopy (l : BitVec 6) (w : BitVec 32) : Except Reject Instr :=
  match (fld w 24 8).toNat with
  | 0xe8 =>
    match (fld w 0 5).toNat with
    | 0 => need (l = 0) .lent (.ok (.cpyLl (fld w 20 4) (fld w 15 5) (fld w 10 5) (fld w 5 5)))
    | 1 => need (l = 0) .lent (.ok (.cpyLv (fld w 20 4) (fld w 15 5) (fld w 10 5) (fld w 5 5)))
    | 2 => .ok (.cpyLn (fld w 20 4) (fld w 15 5) (fld w 10 5) (fld w 5 5) l)
    | 3 => need (l = 0) .lent (.ok (.cpyVl (fld w 20 4) (fld w 15 5) (fld w 10 5) (fld w 5 5)))
    | 4 => need (l = 0) .lent (.ok (.cpyVv (fld w 20 4) (fld w 15 5) (fld w 10 5) (fld w 5 5)))
    | 5 => .ok (.cpyVn (fld w 20 4) (fld w 15 5) (fld w 10 5) (fld w 5 5) l)
    | 6 => .ok (.cpyHl (fld w 20 4) (fld w 15 5) (fld w 10 5) (fld w 5 5) l)
    | 7 => .ok (.cpyHv (fld w 20 4) (fld w 15 5) (fld w 10 5) (fld w 5 5) l)
    | 8 => .ok (.cpyHn (fld w 20 4) (fld w 15 5) (fld w 10 5) (fld w 5 5) l)
    | _ => .error .variant
  | 0xe9 =>
    match (fld w 0 5).toNat with
    | 0 => need (l = 0) .lent (.ok (.cpyrL (fld w 20 4) (fld w 15 5) (fld w 10 5) (fld w 5 5)))
    | 1 => need (l = 0) .lent (.ok (.cpyrV (fld w 20 4) (fld w 15 5) (fld w 10 5) (fld w 5 5)))
    | 2 => .ok (.cpyrH (fld w 20 4) (fld w 15 5) (fld w 10 5) (fld w 5 5) l)
    | _ => .error .variant
  | 0xea =>
    match (fld w 0 5).toNat with
    | 0 => need (fld w 15 5 = 0) .field (.ok (.migr (fld w 20 4) (fld w 10 5) (fld w 5 5) l))
    | _ => .error .variant
  | _ => .error .opcode

/-- The header word of slot 0 (R93): every value of its other 30 bits is valid. -/
def decodeHeader (w : BitVec 32) : Instr :=
  .hdr (fld w 24 6) (fld w 18 6) (fld w 12 6) (fld w 9 3) (fld w 6 3) (fld w 4 2) (fld w 0 4)

/-- A slot-0 word is a header (R93). -/
def isHeader (w : BitVec 32) : Bool := fld w 30 2 = 3

/-- Decode the word of a slot with its lent bits, or say why it is unassigned (R104 step 1, R107). -/
noncomputable def decodeSlot (slot : Nat) (l : BitVec 6) (w : BitVec 32) : Except Reject Instr :=
  let op := (fld w 24 8).toNat
  if slot = 0 ∧ isHeader w then .ok (decodeHeader w)
  else if !opcodeSlot op slot then .error .slot
  else if op < 0x20 then decodeControl l w
  else if op < 0x40 then decodeInteger l w
  else if op < 0x60 then decodeImmediate l w
  else if op < 0x70 then decodeFloat l w
  else if op < 0x90 then decodeMemory l w
  else if op < 0xB0 then decodeTile l w
  else if op < 0xC0 then decodeMatrix l w
  else if op < 0xE8 then decodeVector l w
  else decodeCopy l w

/-- A bundle's four words, lowest slot first, from its 16 bytes as memory holds them (R3, R90). -/
def bundleWord (b : BitVec 128) (k : Nat) : BitVec 32 := b.extractLsb' (32 * k) 32

/-- The lent bits that a bundle's header gives a slot (R93, R99): zero for slot 0 and without a header. -/
def lentBits (b : BitVec 128) (k : Nat) : BitVec 6 :=
  if isHeader (bundleWord b 0) then
    match k with
    | 1 => fld (bundleWord b 0) 24 6
    | 2 => fld (bundleWord b 0) 18 6
    | 3 => fld (bundleWord b 0) 12 6
    | _ => 0
  else 0

/-- Decode one slot of a bundle. -/
noncomputable def decodeIn (b : BitVec 128) (k : Nat) : Except Reject Instr := decodeSlot k (lentBits b k) (bundleWord b k)

/-- The four instructions of a bundle, or the lowest-numbered slot that is unassigned with its reason (R104 step 1). -/
noncomputable def decodeBundle (b : BitVec 128) : Except (Nat × Reject) (List Instr) :=
  match decodeIn b 0, decodeIn b 1, decodeIn b 2, decodeIn b 3 with
  | .ok i0, .ok i1, .ok i2, .ok i3 => .ok [i0, i1, i2, i3]
  | .error r, _, _, _ => .error (0, r)
  | _, .error r, _, _ => .error (1, r)
  | _, _, .error r, _ => .error (2, r)
  | _, _, _, .error r => .error (3, r)

/-- A slot in which an opcode may stand: the canonical one, used where a single slot word is asked about. -/
def canonicalSlot (op : Nat) : Nat :=
  if 0xC0 ≤ op ∧ op ≤ 0xFF then 3
  else if op ≤ 0x54 then 0
  else if op = 0x55 then 2
  else if op ≤ 0x6F then 1
  else if op ≤ 0xAF then 2
  else 3

/-- The slot a word of the opcode table is asked about in: header words and forms of slot 0, 1, 2 or 3 (R92). A word whose bits
[31:30] are 0b11 is a header in slot 0 (R93) and an engine command in slot 3; the table gives the header row no other fixed bits,
so a word that slot 3 assigns is read there and every other one is the header. -/
noncomputable def tableSlot (w : BitVec 32) : Nat :=
  if isHeader w then (match decodeSlot 3 0 w with | .ok _ => 3 | .error _ => 0) else canonicalSlot (fld w 24 8).toNat

/-- The instruction that the decoder reads from the slot word `w`, `nbits` bits long, standing alone with no lent bits. Every row of
the opcode table has 32 bits. -/
noncomputable def decodeTableWord (nbits w : Nat) : Option Instr :=
  if nbits = 32 ∧ w < 2 ^ 32 then
    let v := BitVec.ofNat 32 w
    match decodeSlot (tableSlot v) 0 v with
    | .ok i => some i
    | .error _ => none
  else none

/-! ### The encoder -/

/-- The slot word and the lent bits of an instruction, from the same encoding tables (R93, R99 to R106); none for an event, which
has no encoding. -/
def encode : Instr → Option (BitVec 32 × BitVec 6)
  | .hdr l1 l2 l3 stall scope sync q => some (3#2 ++ l1 ++ l2 ++ l3 ++ stall ++ scope ++ sync ++ q, 0)
  | .nop g => some (0x00#8 ++ g ++ 0#20, 0)
  | .br g off => some (0x01#8 ++ g ++ off, 0)
  | .brx g d s => some (0x02#8 ++ g ++ d ++ s ++ 0#10, 0)
  | .call g off => some (0x03#8 ++ g ++ off, 0)
  | .ret g s => some (0x04#8 ++ g ++ 0#5 ++ s ++ 0#10, 0)
  | .loop g stg cnt len => some (0x05#8 ++ g ++ stg ++ cnt ++ len, 0)
  | .loopx g stg c len => some (0x06#8 ++ g ++ stg ++ 0#5 ++ c ++ len, 0)
  | .lbrk g => some (0x07#8 ++ g ++ 0#20, 0)
  | .halt g => some (0x08#8 ++ g ++ 0#20, 0)
  | .trap g imm => some (0x09#8 ++ g ++ 0#5 ++ imm, 0)
  | .eret g => some (0x0a#8 ++ g ++ 0#20, 0)
  | .yield g => some (0x0b#8 ++ g ++ 0#20, 0)
  | .waitGe g q s imm => some (0x0c#8 ++ g ++ q ++ 0#3 ++ s ++ imm, 0)
  | .waitEq g q s imm => some (0x0c#8 ++ g ++ q ++ 1#3 ++ s ++ imm, 0)
  | .waitTake g q s imm => some (0x0c#8 ++ g ++ q ++ 2#3 ++ s ++ imm, 0)
  | .postInc g q s imm => some (0x0d#8 ++ g ++ q ++ 0#3 ++ s ++ imm, 0)
  | .postSet g q s imm => some (0x0d#8 ++ g ++ q ++ 1#3 ++ s ++ imm, 0)
  | .rpost g q s imm => some (0x0e#8 ++ g ++ q ++ 0#3 ++ s ++ imm, 0)
  | .barj g k => some (0x0f#8 ++ g ++ 0#1 ++ k ++ 0#16, 0)
  | .barw g k => some (0x10#8 ++ g ++ 0#1 ++ k ++ 0#16, 0)
  | .fenceFull g c => some (0x11#8 ++ g ++ 0#17 ++ c, 0)
  | .fenceAcq g c => some (0x11#8 ++ g ++ 1024#17 ++ c, 0)
  | .fenceRel g c => some (0x11#8 ++ g ++ 2048#17 ++ c, 0)
  | .timeDom g d => some (0x12#8 ++ g ++ d ++ 0#15, 0)
  | .timeCyc g d => some (0x12#8 ++ g ++ d ++ 1#15, 0)
  | .rdsr g d sr => some (0x13#8 ++ g ++ d ++ sr ++ 0#3, 0)
  | .wrsr g d sr => some (0x14#8 ++ g ++ d ++ sr ++ 0#3, 0)
  | .launch g d s t => some (0x15#8 ++ g ++ d ++ s ++ t ++ 0#5, 0)
  | .drain g => some (0x16#8 ++ g ++ 0#20, 0)
  | .add g d s t => some (0x20#8 ++ g ++ d ++ s ++ t ++ 0#5, 0)
  | .addW g d s t => some (0x20#8 ++ g ++ d ++ s ++ t ++ 1#5, 0)
  | .sub g d s t => some (0x21#8 ++ g ++ d ++ s ++ t ++ 0#5, 0)
  | .subW g d s t => some (0x21#8 ++ g ++ d ++ s ++ t ++ 1#5, 0)
  | .mul g d s t => some (0x22#8 ++ g ++ d ++ s ++ t ++ 0#5, 0)
  | .mulW g d s t => some (0x22#8 ++ g ++ d ++ s ++ t ++ 1#5, 0)
  | .mulh g d s t => some (0x23#8 ++ g ++ d ++ s ++ t ++ 0#5, 0)
  | .mulhu g d s t => some (0x24#8 ++ g ++ d ++ s ++ t ++ 0#5, 0)
  | .div g d s t => some (0x25#8 ++ g ++ d ++ s ++ t ++ 0#5, 0)
  | .divW g d s t => some (0x25#8 ++ g ++ d ++ s ++ t ++ 1#5, 0)
  | .divu g d s t => some (0x26#8 ++ g ++ d ++ s ++ t ++ 0#5, 0)
  | .divuW g d s t => some (0x26#8 ++ g ++ d ++ s ++ t ++ 1#5, 0)
  | .rem g d s t => some (0x27#8 ++ g ++ d ++ s ++ t ++ 0#5, 0)
  | .remW g d s t => some (0x27#8 ++ g ++ d ++ s ++ t ++ 1#5, 0)
  | .remu g d s t => some (0x28#8 ++ g ++ d ++ s ++ t ++ 0#5, 0)
  | .remuW g d s t => some (0x28#8 ++ g ++ d ++ s ++ t ++ 1#5, 0)
  | .and g d s t => some (0x29#8 ++ g ++ d ++ s ++ t ++ 0#5, 0)
  | .or g d s t => some (0x2a#8 ++ g ++ d ++ s ++ t ++ 0#5, 0)
  | .xor g d s t => some (0x2b#8 ++ g ++ d ++ s ++ t ++ 0#5, 0)
  | .shl g d s t => some (0x2c#8 ++ g ++ d ++ s ++ t ++ 0#5, 0)
  | .shlW g d s t => some (0x2c#8 ++ g ++ d ++ s ++ t ++ 1#5, 0)
  | .shr g d s t => some (0x2d#8 ++ g ++ d ++ s ++ t ++ 0#5, 0)
  | .shrW g d s t => some (0x2d#8 ++ g ++ d ++ s ++ t ++ 1#5, 0)
  | .sra g d s t => some (0x2e#8 ++ g ++ d ++ s ++ t ++ 0#5, 0)
  | .sraW g d s t => some (0x2e#8 ++ g ++ d ++ s ++ t ++ 1#5, 0)
  | .rotr g d s t => some (0x2f#8 ++ g ++ d ++ s ++ t ++ 0#5, 0)
  | .rotrW g d s t => some (0x2f#8 ++ g ++ d ++ s ++ t ++ 1#5, 0)
  | .clz g d s => some (0x30#8 ++ g ++ d ++ s ++ 0#10, 0)
  | .ctz g d s => some (0x31#8 ++ g ++ d ++ s ++ 0#10, 0)
  | .popc g d s => some (0x32#8 ++ g ++ d ++ s ++ 0#10, 0)
  | .min g d s t => some (0x33#8 ++ g ++ d ++ s ++ t ++ 0#5, 0)
  | .max g d s t => some (0x34#8 ++ g ++ d ++ s ++ t ++ 0#5, 0)
  | .minu g d s t => some (0x35#8 ++ g ++ d ++ s ++ t ++ 0#5, 0)
  | .maxu g d s t => some (0x36#8 ++ g ++ d ++ s ++ t ++ 0#5, 0)
  | .sextB g d s => some (0x37#8 ++ g ++ d ++ s ++ 0#10, 0)
  | .sextH g d s => some (0x37#8 ++ g ++ d ++ s ++ 1#10, 0)
  | .sextW g d s => some (0x37#8 ++ g ++ d ++ s ++ 2#10, 0)
  | .zextB g d s => some (0x38#8 ++ g ++ d ++ s ++ 0#10, 0)
  | .zextH g d s => some (0x38#8 ++ g ++ d ++ s ++ 1#10, 0)
  | .zextW g d s => some (0x38#8 ++ g ++ d ++ s ++ 2#10, 0)
  | .sel g d s t p => some (0x39#8 ++ g ++ d ++ s ++ t ++ 0#1 ++ p, 0)
  | .cmpEq g d s t => some (0x3a#8 ++ g ++ 0#2 ++ d ++ s ++ t ++ 0#5, 0)
  | .cmpNe g d s t => some (0x3a#8 ++ g ++ 0#2 ++ d ++ s ++ t ++ 1#5, 0)
  | .cmpLt g d s t => some (0x3a#8 ++ g ++ 0#2 ++ d ++ s ++ t ++ 2#5, 0)
  | .cmpLe g d s t => some (0x3a#8 ++ g ++ 0#2 ++ d ++ s ++ t ++ 3#5, 0)
  | .cmpLtu g d s t => some (0x3a#8 ++ g ++ 0#2 ++ d ++ s ++ t ++ 4#5, 0)
  | .cmpLeu g d s t => some (0x3a#8 ++ g ++ 0#2 ++ d ++ s ++ t ++ 5#5, 0)
  | .addi g d s imm => some (0x40#8 ++ g ++ d ++ s ++ 0#1 ++ (imm.extractLsb' 0 9), imm.extractLsb' 9 6)
  | .addiW g d s imm => some (0x40#8 ++ g ++ d ++ s ++ 1#1 ++ (imm.extractLsb' 0 9), imm.extractLsb' 9 6)
  | .andi g d s imm => some (0x41#8 ++ g ++ d ++ s ++ 0#1 ++ (imm.extractLsb' 0 9), imm.extractLsb' 9 6)
  | .ori g d s imm => some (0x42#8 ++ g ++ d ++ s ++ 0#1 ++ (imm.extractLsb' 0 9), imm.extractLsb' 9 6)
  | .xori g d s imm => some (0x43#8 ++ g ++ d ++ s ++ 0#1 ++ (imm.extractLsb' 0 9), imm.extractLsb' 9 6)
  | .shli g d s imm => some (0x44#8 ++ g ++ d ++ s ++ 0#4 ++ imm, 0)
  | .shliW g d s imm => some (0x44#8 ++ g ++ d ++ s ++ 16#5 ++ imm, 0)
  | .shri g d s imm => some (0x45#8 ++ g ++ d ++ s ++ 0#4 ++ imm, 0)
  | .shriW g d s imm => some (0x45#8 ++ g ++ d ++ s ++ 16#5 ++ imm, 0)
  | .srai g d s imm => some (0x46#8 ++ g ++ d ++ s ++ 0#4 ++ imm, 0)
  | .sraiW g d s imm => some (0x46#8 ++ g ++ d ++ s ++ 16#5 ++ imm, 0)
  | .cmpiEq g d s imm => some (0x47#8 ++ g ++ 0#1 ++ d ++ 0#4 ++ s ++ (imm.extractLsb' 0 7), imm.extractLsb' 7 6)
  | .cmpiNe g d s imm => some (0x47#8 ++ g ++ 0#1 ++ d ++ 1#4 ++ s ++ (imm.extractLsb' 0 7), imm.extractLsb' 7 6)
  | .cmpiLt g d s imm => some (0x47#8 ++ g ++ 0#1 ++ d ++ 2#4 ++ s ++ (imm.extractLsb' 0 7), imm.extractLsb' 7 6)
  | .cmpiLe g d s imm => some (0x47#8 ++ g ++ 0#1 ++ d ++ 3#4 ++ s ++ (imm.extractLsb' 0 7), imm.extractLsb' 7 6)
  | .cmpiLtu g d s imm => some (0x47#8 ++ g ++ 0#1 ++ d ++ 4#4 ++ s ++ (imm.extractLsb' 0 7), imm.extractLsb' 7 6)
  | .cmpiLeu g d s imm => some (0x47#8 ++ g ++ 0#1 ++ d ++ 5#4 ++ s ++ (imm.extractLsb' 0 7), imm.extractLsb' 7 6)
  | .cmpiGt g d s imm => some (0x47#8 ++ g ++ 0#1 ++ d ++ 6#4 ++ s ++ (imm.extractLsb' 0 7), imm.extractLsb' 7 6)
  | .cmpiGe g d s imm => some (0x47#8 ++ g ++ 0#1 ++ d ++ 7#4 ++ s ++ (imm.extractLsb' 0 7), imm.extractLsb' 7 6)
  | .cmpiGtu g d s imm => some (0x47#8 ++ g ++ 0#1 ++ d ++ 8#4 ++ s ++ (imm.extractLsb' 0 7), imm.extractLsb' 7 6)
  | .cmpiGeu g d s imm => some (0x47#8 ++ g ++ 0#1 ++ d ++ 9#4 ++ s ++ (imm.extractLsb' 0 7), imm.extractLsb' 7 6)
  | .movi g d imm => some (0x48#8 ++ g ++ d ++ (imm.extractLsb' 0 15), imm.extractLsb' 15 6)
  | .movhi g d imm => some (0x49#8 ++ g ++ d ++ (imm.extractLsb' 0 15), imm.extractLsb' 15 6)
  | .pand g d s t => some (0x50#8 ++ g ++ 0#2 ++ d ++ 0#1 ++ s ++ 0#1 ++ t ++ 0#5, 0)
  | .por g d s t => some (0x51#8 ++ g ++ 0#2 ++ d ++ 0#1 ++ s ++ 0#1 ++ t ++ 0#5, 0)
  | .pnot g d s => some (0x52#8 ++ g ++ 0#2 ++ d ++ 0#1 ++ s ++ 0#10, 0)
  | .pxor g d s t => some (0x53#8 ++ g ++ 0#2 ++ d ++ 0#1 ++ s ++ 0#1 ++ t ++ 0#5, 0)
  | .xab g d s => some (0x54#8 ++ g ++ d ++ s ++ 0#10, 0)
  | .xba g d s => some (0x55#8 ++ g ++ d ++ s ++ 0#10, 0)
  | .xbaH g d h => some (0x55#8 ++ g ++ d ++ (h.extractLsb' 0 5) ++ 0#4 ++ (h.extractLsb' 5 1) ++ 1#5, 0)
  | .fadd g d s t rm => some (0x60#8 ++ g ++ d ++ s ++ t ++ 0#3 ++ rm, 0)
  | .fsub g d s t rm => some (0x61#8 ++ g ++ d ++ s ++ t ++ 0#3 ++ rm, 0)
  | .fmul g d s t rm => some (0x62#8 ++ g ++ d ++ s ++ t ++ 0#3 ++ rm, 0)
  | .ffma g d s t rm => some (0x63#8 ++ g ++ d ++ s ++ t ++ 0#3 ++ rm, 0)
  | .fdiv g d s t rm => some (0x64#8 ++ g ++ d ++ s ++ t ++ 0#3 ++ rm, 0)
  | .fsqrt g d s rm => some (0x65#8 ++ g ++ d ++ s ++ 0#8 ++ rm, 0)
  | .fmin g d s t => some (0x66#8 ++ g ++ d ++ s ++ t ++ 0#5, 0)
  | .fmax g d s t => some (0x67#8 ++ g ++ d ++ s ++ t ++ 0#5, 0)
  | .fcmpEq g d s t => some (0x68#8 ++ g ++ 0#2 ++ d ++ s ++ t ++ 0#5, 0)
  | .fcmpLt g d s t => some (0x68#8 ++ g ++ 0#2 ++ d ++ s ++ t ++ 1#5, 0)
  | .fcmpLe g d s t => some (0x68#8 ++ g ++ 0#2 ++ d ++ s ++ t ++ 2#5, 0)
  | .fcmpUn g d s t => some (0x68#8 ++ g ++ 0#2 ++ d ++ s ++ t ++ 3#5, 0)
  | .fcmpNe g d s t => some (0x68#8 ++ g ++ 0#2 ++ d ++ s ++ t ++ 4#5, 0)
  | .fcvtF32S64 g d s rm sat => some (0x69#8 ++ g ++ d ++ s ++ 0#8 ++ rm, BitVec.ofBool sat ++ 0#5)
  | .fcvtF32Z64 g d s rm sat => some (0x69#8 ++ g ++ d ++ s ++ 1#8 ++ rm, BitVec.ofBool sat ++ 0#5)
  | .fcvtS64F32 g d s rm sat => some (0x69#8 ++ g ++ d ++ s ++ 2#8 ++ rm, BitVec.ofBool sat ++ 0#5)
  | .fcvtZ64F32 g d s rm sat => some (0x69#8 ++ g ++ d ++ s ++ 3#8 ++ rm, BitVec.ofBool sat ++ 0#5)
  | .fcvtF32Bf16 g d s rm sat => some (0x69#8 ++ g ++ d ++ s ++ 4#8 ++ rm, BitVec.ofBool sat ++ 0#5)
  | .fcvtBf16F32 g d s rm sat => some (0x69#8 ++ g ++ d ++ s ++ 5#8 ++ rm, BitVec.ofBool sat ++ 0#5)
  | .fcvtF32F16 g d s rm sat => some (0x69#8 ++ g ++ d ++ s ++ 6#8 ++ rm, BitVec.ofBool sat ++ 0#5)
  | .fcvtF16F32 g d s rm sat => some (0x69#8 ++ g ++ d ++ s ++ 7#8 ++ rm, BitVec.ofBool sat ++ 0#5)
  | .ldsD g d s off => some (0x70#8 ++ g ++ d ++ s ++ 0#4 ++ (off.extractLsb' 0 6), off.extractLsb' 6 6)
  | .ldsW g d s off => some (0x70#8 ++ g ++ d ++ s ++ 1#4 ++ (off.extractLsb' 0 6), off.extractLsb' 6 6)
  | .ldsWu g d s off => some (0x70#8 ++ g ++ d ++ s ++ 2#4 ++ (off.extractLsb' 0 6), off.extractLsb' 6 6)
  | .ldsH g d s off => some (0x70#8 ++ g ++ d ++ s ++ 3#4 ++ (off.extractLsb' 0 6), off.extractLsb' 6 6)
  | .ldsHu g d s off => some (0x70#8 ++ g ++ d ++ s ++ 4#4 ++ (off.extractLsb' 0 6), off.extractLsb' 6 6)
  | .ldsB g d s off => some (0x70#8 ++ g ++ d ++ s ++ 5#4 ++ (off.extractLsb' 0 6), off.extractLsb' 6 6)
  | .ldsBu g d s off => some (0x70#8 ++ g ++ d ++ s ++ 6#4 ++ (off.extractLsb' 0 6), off.extractLsb' 6 6)
  | .ldsFw g d s off => some (0x70#8 ++ g ++ d ++ s ++ 7#4 ++ (off.extractLsb' 0 6), off.extractLsb' 6 6)
  | .ldsFc g d s off => some (0x70#8 ++ g ++ d ++ s ++ 8#4 ++ (off.extractLsb' 0 6), off.extractLsb' 6 6)
  | .ldsXD g d s t => some (0x71#8 ++ g ++ d ++ s ++ t ++ 0#5, 0)
  | .ldsXW g d s t => some (0x71#8 ++ g ++ d ++ s ++ t ++ 1#5, 0)
  | .ldsXWu g d s t => some (0x71#8 ++ g ++ d ++ s ++ t ++ 2#5, 0)
  | .ldsXH g d s t => some (0x71#8 ++ g ++ d ++ s ++ t ++ 3#5, 0)
  | .ldsXHu g d s t => some (0x71#8 ++ g ++ d ++ s ++ t ++ 4#5, 0)
  | .ldsXB g d s t => some (0x71#8 ++ g ++ d ++ s ++ t ++ 5#5, 0)
  | .ldsXBu g d s t => some (0x71#8 ++ g ++ d ++ s ++ t ++ 6#5, 0)
  | .stsD g d s off => some (0x72#8 ++ g ++ d ++ s ++ 0#4 ++ (off.extractLsb' 0 6), off.extractLsb' 6 6)
  | .stsW g d s off => some (0x72#8 ++ g ++ d ++ s ++ 1#4 ++ (off.extractLsb' 0 6), off.extractLsb' 6 6)
  | .stsH g d s off => some (0x72#8 ++ g ++ d ++ s ++ 2#4 ++ (off.extractLsb' 0 6), off.extractLsb' 6 6)
  | .stsB g d s off => some (0x72#8 ++ g ++ d ++ s ++ 3#4 ++ (off.extractLsb' 0 6), off.extractLsb' 6 6)
  | .stsFs g d s off => some (0x72#8 ++ g ++ d ++ s ++ 4#4 ++ (off.extractLsb' 0 6), off.extractLsb' 6 6)
  | .stsFe g d s off => some (0x72#8 ++ g ++ d ++ s ++ 5#4 ++ (off.extractLsb' 0 6), off.extractLsb' 6 6)
  | .stsXD g d s t => some (0x73#8 ++ g ++ d ++ s ++ t ++ 0#5, 0)
  | .stsXW g d s t => some (0x73#8 ++ g ++ d ++ s ++ t ++ 1#5, 0)
  | .stsXH g d s t => some (0x73#8 ++ g ++ d ++ s ++ t ++ 2#5, 0)
  | .stsXB g d s t => some (0x73#8 ++ g ++ d ++ s ++ t ++ 3#5, 0)
  | .ldmD g d s off => some (0x74#8 ++ g ++ d ++ s ++ 0#4 ++ (off.extractLsb' 0 6), off.extractLsb' 6 6)
  | .ldmW g d s off => some (0x74#8 ++ g ++ d ++ s ++ 1#4 ++ (off.extractLsb' 0 6), off.extractLsb' 6 6)
  | .ldmWu g d s off => some (0x74#8 ++ g ++ d ++ s ++ 2#4 ++ (off.extractLsb' 0 6), off.extractLsb' 6 6)
  | .ldmH g d s off => some (0x74#8 ++ g ++ d ++ s ++ 3#4 ++ (off.extractLsb' 0 6), off.extractLsb' 6 6)
  | .ldmHu g d s off => some (0x74#8 ++ g ++ d ++ s ++ 4#4 ++ (off.extractLsb' 0 6), off.extractLsb' 6 6)
  | .ldmB g d s off => some (0x74#8 ++ g ++ d ++ s ++ 5#4 ++ (off.extractLsb' 0 6), off.extractLsb' 6 6)
  | .ldmBu g d s off => some (0x74#8 ++ g ++ d ++ s ++ 6#4 ++ (off.extractLsb' 0 6), off.extractLsb' 6 6)
  | .ldmXD g d s t => some (0x75#8 ++ g ++ d ++ s ++ t ++ 0#5, 0)
  | .ldmXW g d s t => some (0x75#8 ++ g ++ d ++ s ++ t ++ 1#5, 0)
  | .ldmXWu g d s t => some (0x75#8 ++ g ++ d ++ s ++ t ++ 2#5, 0)
  | .ldmXH g d s t => some (0x75#8 ++ g ++ d ++ s ++ t ++ 3#5, 0)
  | .ldmXHu g d s t => some (0x75#8 ++ g ++ d ++ s ++ t ++ 4#5, 0)
  | .ldmXB g d s t => some (0x75#8 ++ g ++ d ++ s ++ t ++ 5#5, 0)
  | .ldmXBu g d s t => some (0x75#8 ++ g ++ d ++ s ++ t ++ 6#5, 0)
  | .stmD g d s off => some (0x76#8 ++ g ++ d ++ s ++ 0#4 ++ (off.extractLsb' 0 6), off.extractLsb' 6 6)
  | .stmW g d s off => some (0x76#8 ++ g ++ d ++ s ++ 1#4 ++ (off.extractLsb' 0 6), off.extractLsb' 6 6)
  | .stmH g d s off => some (0x76#8 ++ g ++ d ++ s ++ 2#4 ++ (off.extractLsb' 0 6), off.extractLsb' 6 6)
  | .stmB g d s off => some (0x76#8 ++ g ++ d ++ s ++ 3#4 ++ (off.extractLsb' 0 6), off.extractLsb' 6 6)
  | .stmXD g d s t => some (0x77#8 ++ g ++ d ++ s ++ t ++ 0#5, 0)
  | .stmXW g d s t => some (0x77#8 ++ g ++ d ++ s ++ t ++ 1#5, 0)
  | .stmXH g d s t => some (0x77#8 ++ g ++ d ++ s ++ t ++ 2#5, 0)
  | .stmXB g d s t => some (0x77#8 ++ g ++ d ++ s ++ t ++ 3#5, 0)
  | .atomAdd g d s t => some (0x78#8 ++ g ++ d ++ s ++ t ++ 0#5, 0)
  | .atomAddW g d s t => some (0x78#8 ++ g ++ d ++ s ++ t ++ 1#5, 0)
  | .atomAnd g d s t => some (0x78#8 ++ g ++ d ++ s ++ t ++ 2#5, 0)
  | .atomAndW g d s t => some (0x78#8 ++ g ++ d ++ s ++ t ++ 3#5, 0)
  | .atomOr g d s t => some (0x78#8 ++ g ++ d ++ s ++ t ++ 4#5, 0)
  | .atomOrW g d s t => some (0x78#8 ++ g ++ d ++ s ++ t ++ 5#5, 0)
  | .atomXor g d s t => some (0x78#8 ++ g ++ d ++ s ++ t ++ 6#5, 0)
  | .atomXorW g d s t => some (0x78#8 ++ g ++ d ++ s ++ t ++ 7#5, 0)
  | .atomMin g d s t => some (0x78#8 ++ g ++ d ++ s ++ t ++ 8#5, 0)
  | .atomMinW g d s t => some (0x78#8 ++ g ++ d ++ s ++ t ++ 9#5, 0)
  | .atomMax g d s t => some (0x78#8 ++ g ++ d ++ s ++ t ++ 10#5, 0)
  | .atomMaxW g d s t => some (0x78#8 ++ g ++ d ++ s ++ t ++ 11#5, 0)
  | .atomMinu g d s t => some (0x78#8 ++ g ++ d ++ s ++ t ++ 12#5, 0)
  | .atomMinuW g d s t => some (0x78#8 ++ g ++ d ++ s ++ t ++ 13#5, 0)
  | .atomMaxu g d s t => some (0x78#8 ++ g ++ d ++ s ++ t ++ 14#5, 0)
  | .atomMaxuW g d s t => some (0x78#8 ++ g ++ d ++ s ++ t ++ 15#5, 0)
  | .atomSwap g d s t => some (0x78#8 ++ g ++ d ++ s ++ t ++ 16#5, 0)
  | .atomSwapW g d s t => some (0x78#8 ++ g ++ d ++ s ++ t ++ 17#5, 0)
  | .atomCas g d s t => some (0x78#8 ++ g ++ d ++ s ++ t ++ 18#5, 0)
  | .atomCasW g d s t => some (0x78#8 ++ g ++ d ++ s ++ t ++ 19#5, 0)
  | .caddD g s t => some (0x79#8 ++ g ++ 0#5 ++ s ++ t ++ 0#5, 0)
  | .caddW g s t => some (0x79#8 ++ g ++ 0#5 ++ s ++ t ++ 1#5, 0)
  | .lease g s t => some (0x7a#8 ++ g ++ 0#5 ++ s ++ t ++ 0#5, 0)
  | .unlease g d s => some (0x7b#8 ++ g ++ d ++ s ++ 0#10, 0)
  | .snap g d s t => some (0x7c#8 ++ g ++ d ++ s ++ t ++ 0#5, 0)
  | .accept g s => some (0x7d#8 ++ g ++ 0#5 ++ s ++ 0#10, 0)
  | .reject g s => some (0x7e#8 ++ g ++ 0#5 ++ s ++ 0#10, 0)
  | .ldh g h s off => some (0x80#8 ++ g ++ h ++ 0#6 ++ s ++ 0#3, off)
  | .ldhd g h s off => some (0x81#8 ++ g ++ h ++ 0#6 ++ s ++ 0#3, off)
  | .sth g h s off => some (0x82#8 ++ g ++ h ++ 0#6 ++ s ++ 0#3, off)
  | .dup g h j => some (0x90#8 ++ g ++ h ++ j ++ 0#8, 0)
  | .drop g h => some (0x91#8 ++ g ++ h ++ 0#14, 0)
  | .tnew g h j s => some (0x92#8 ++ g ++ h ++ j ++ s ++ 0#3, 0)
  | .tdesc g h s t => some (0x93#8 ++ g ++ h ++ s ++ t ++ 0#4, 0)
  | .tget g h s t => some (0x94#8 ++ g ++ h ++ s ++ t ++ 0#4, 0)
  | .tset g h s t => some (0x95#8 ++ g ++ h ++ s ++ t ++ 0#4, 0)
  | .tsetv g h s t => some (0x96#8 ++ g ++ h ++ s ++ t ++ 0#4, 0)
  | .tseal g h s => some (0x97#8 ++ g ++ h ++ 0#6 ++ s ++ 0#3, 0)
  | .topen g h => some (0x98#8 ++ g ++ h ++ 0#14, 0)
  | .tmove g h s => some (0x99#8 ++ g ++ h ++ s ++ 0#9, 0)
  | .tuniq g h s => some (0x9a#8 ++ g ++ h ++ s ++ 0#9, 0)
  | .kvfind g h s t => some (0x9b#8 ++ g ++ h ++ s ++ t ++ 0#4, 0)
  | .spload g s t => some (0xa0#8 ++ g ++ 0#5 ++ s ++ t ++ 0#5, 0)
  | .spinv g d s t => some (0xa1#8 ++ g ++ d ++ s ++ t ++ 0#5, 0)
  | .quiesce g d s => some (0xa2#8 ++ g ++ d ++ s ++ 0#10, 0)
  | .ctxsave g s t => some (0xa3#8 ++ g ++ 0#5 ++ s ++ t ++ 0#5, 0)
  | .ctxload g s t => some (0xa4#8 ++ g ++ 0#5 ++ s ++ t ++ 0#5, 0)
  | .rejoin g => some (0xa5#8 ++ g ++ 0#20, 0)
  | .mfmt g s => some (0xb0#8 ++ g ++ 0#12 ++ s ++ 0#3, 0)
  | .mma g ha hb s => some (0xb1#8 ++ g ++ ha ++ hb ++ s ++ 0#3, 0)
  | .mmac g ha hb s => some (0xb2#8 ++ g ++ ha ++ hb ++ s ++ 0#3, 0)
  | .gmma g ha hb s hx => some (0xb3#8 ++ g ++ ha ++ hb ++ s ++ 0#3, hx)
  | .gmmaMc g ha hb s hx => some (0xb3#8 ++ g ++ ha ++ hb ++ s ++ 1#3, hx)
  | .vaddVv g d s t rm quiet => some (0xc0#8 ++ g ++ d ++ s ++ t ++ 0#3 ++ rm, 0#1 ++ BitVec.ofBool quiet ++ 0#4)
  | .vaddVs g d s t rm quiet => some (0xc0#8 ++ g ++ d ++ s ++ t ++ 1#3 ++ rm, 0#1 ++ BitVec.ofBool quiet ++ 0#4)
  | .vsubVv g d s t rm quiet => some (0xc1#8 ++ g ++ d ++ s ++ t ++ 0#3 ++ rm, 0#1 ++ BitVec.ofBool quiet ++ 0#4)
  | .vsubVs g d s t rm quiet => some (0xc1#8 ++ g ++ d ++ s ++ t ++ 1#3 ++ rm, 0#1 ++ BitVec.ofBool quiet ++ 0#4)
  | .vmulVv g d s t rm quiet => some (0xc2#8 ++ g ++ d ++ s ++ t ++ 0#3 ++ rm, 0#1 ++ BitVec.ofBool quiet ++ 0#4)
  | .vmulVs g d s t rm quiet => some (0xc2#8 ++ g ++ d ++ s ++ t ++ 1#3 ++ rm, 0#1 ++ BitVec.ofBool quiet ++ 0#4)
  | .vfmaVv g d s t rm quiet => some (0xc3#8 ++ g ++ d ++ s ++ t ++ 0#3 ++ rm, 0#1 ++ BitVec.ofBool quiet ++ 0#4)
  | .vfmaVs g d s t rm quiet => some (0xc3#8 ++ g ++ d ++ s ++ t ++ 1#3 ++ rm, 0#1 ++ BitVec.ofBool quiet ++ 0#4)
  | .vfmaVn g d s t rm quiet => some (0xc3#8 ++ g ++ d ++ s ++ t ++ 2#3 ++ rm, 0#1 ++ BitVec.ofBool quiet ++ 0#4)
  | .vmaxVv g d s t quiet => some (0xc4#8 ++ g ++ d ++ s ++ t ++ 0#5, 0#1 ++ BitVec.ofBool quiet ++ 0#4)
  | .vmaxVs g d s t quiet => some (0xc4#8 ++ g ++ d ++ s ++ t ++ 1#5, 0#1 ++ BitVec.ofBool quiet ++ 0#4)
  | .vminVv g d s t quiet => some (0xc5#8 ++ g ++ d ++ s ++ t ++ 0#5, 0#1 ++ BitVec.ofBool quiet ++ 0#4)
  | .vminVs g d s t quiet => some (0xc5#8 ++ g ++ d ++ s ++ t ++ 1#5, 0#1 ++ BitVec.ofBool quiet ++ 0#4)
  | .vabs g d s quiet => some (0xc6#8 ++ g ++ d ++ s ++ 0#10, 0#1 ++ BitVec.ofBool quiet ++ 0#4)
  | .vneg g d s quiet => some (0xc7#8 ++ g ++ d ++ s ++ 0#10, 0#1 ++ BitVec.ofBool quiet ++ 0#4)
  | .vclmpVs g d s t quiet => some (0xc8#8 ++ g ++ d ++ s ++ t ++ 0#5, 0#1 ++ BitVec.ofBool quiet ++ 0#4)
  | .vclmpVv g d s t quiet => some (0xc8#8 ++ g ++ d ++ s ++ t ++ 1#5, 0#1 ++ BitVec.ofBool quiet ++ 0#4)
  | .vcvt g d s rm sat quiet => some (0xc9#8 ++ g ++ d ++ s ++ 0#8 ++ rm, BitVec.ofBool sat ++ BitVec.ofBool quiet ++ 0#4)
  | .vcvtS g d s t rm sat quiet => some (0xca#8 ++ g ++ d ++ s ++ t ++ 0#3 ++ rm, BitVec.ofBool sat ++ BitVec.ofBool quiet ++ 0#4)
  | .vexp g d s quiet => some (0xcb#8 ++ g ++ d ++ s ++ 0#10, 0#1 ++ BitVec.ofBool quiet ++ 0#4)
  | .vexpB2 g d s quiet => some (0xcb#8 ++ g ++ d ++ s ++ 1#10, 0#1 ++ BitVec.ofBool quiet ++ 0#4)
  | .vrcp g d s quiet => some (0xcc#8 ++ g ++ d ++ s ++ 0#10, 0#1 ++ BitVec.ofBool quiet ++ 0#4)
  | .vrsq g d s quiet => some (0xcd#8 ++ g ++ d ++ s ++ 0#10, 0#1 ++ BitVec.ofBool quiet ++ 0#4)
  | .vsumF g d s quiet => some (0xce#8 ++ g ++ d ++ s ++ 0#10, 0#1 ++ BitVec.ofBool quiet ++ 0#4)
  | .vsumI g d s quiet => some (0xce#8 ++ g ++ d ++ s ++ 1#10, 0#1 ++ BitVec.ofBool quiet ++ 0#4)
  | .vrmax g d s quiet => some (0xcf#8 ++ g ++ d ++ s ++ 0#10, 0#1 ++ BitVec.ofBool quiet ++ 0#4)
  | .vsel g d s t quiet => some (0xd0#8 ++ g ++ d ++ s ++ t ++ 0#5, 0#1 ++ BitVec.ofBool quiet ++ 0#4)
  | .vcmpEqVv g d s t quiet => some (0xd1#8 ++ g ++ d ++ s ++ t ++ 0#5, 0#1 ++ BitVec.ofBool quiet ++ 0#4)
  | .vcmpEqVs g d s t quiet => some (0xd1#8 ++ g ++ d ++ s ++ t ++ 1#5, 0#1 ++ BitVec.ofBool quiet ++ 0#4)
  | .vcmpNeVv g d s t quiet => some (0xd1#8 ++ g ++ d ++ s ++ t ++ 2#5, 0#1 ++ BitVec.ofBool quiet ++ 0#4)
  | .vcmpNeVs g d s t quiet => some (0xd1#8 ++ g ++ d ++ s ++ t ++ 3#5, 0#1 ++ BitVec.ofBool quiet ++ 0#4)
  | .vcmpLtVv g d s t quiet => some (0xd1#8 ++ g ++ d ++ s ++ t ++ 4#5, 0#1 ++ BitVec.ofBool quiet ++ 0#4)
  | .vcmpLtVs g d s t quiet => some (0xd1#8 ++ g ++ d ++ s ++ t ++ 5#5, 0#1 ++ BitVec.ofBool quiet ++ 0#4)
  | .vcmpLeVv g d s t quiet => some (0xd1#8 ++ g ++ d ++ s ++ t ++ 6#5, 0#1 ++ BitVec.ofBool quiet ++ 0#4)
  | .vcmpLeVs g d s t quiet => some (0xd1#8 ++ g ++ d ++ s ++ t ++ 7#5, 0#1 ++ BitVec.ofBool quiet ++ 0#4)
  | .vcmpGtVv g d s t quiet => some (0xd1#8 ++ g ++ d ++ s ++ t ++ 8#5, 0#1 ++ BitVec.ofBool quiet ++ 0#4)
  | .vcmpGtVs g d s t quiet => some (0xd1#8 ++ g ++ d ++ s ++ t ++ 9#5, 0#1 ++ BitVec.ofBool quiet ++ 0#4)
  | .vcmpGeVv g d s t quiet => some (0xd1#8 ++ g ++ d ++ s ++ t ++ 10#5, 0#1 ++ BitVec.ofBool quiet ++ 0#4)
  | .vcmpGeVs g d s t quiet => some (0xd1#8 ++ g ++ d ++ s ++ t ++ 11#5, 0#1 ++ BitVec.ofBool quiet ++ 0#4)
  | .vtopkMax g d s t quiet => some (0xd2#8 ++ g ++ d ++ s ++ t ++ 0#5, 0#1 ++ BitVec.ofBool quiet ++ 0#4)
  | .vtopkMin g d s t quiet => some (0xd2#8 ++ g ++ d ++ s ++ t ++ 1#5, 0#1 ++ BitVec.ofBool quiet ++ 0#4)
  | .vgath g d s t quiet => some (0xd3#8 ++ g ++ d ++ s ++ t ++ 0#5, 0#1 ++ BitVec.ofBool quiet ++ 0#4)
  | .vscat g d s t quiet => some (0xd4#8 ++ g ++ d ++ s ++ t ++ 0#5, 0#1 ++ BitVec.ofBool quiet ++ 0#4)
  | .viota g d s t quiet => some (0xd5#8 ++ g ++ d ++ s ++ t ++ 0#5, 0#1 ++ BitVec.ofBool quiet ++ 0#4)
  | .vfill g d s quiet => some (0xd6#8 ++ g ++ d ++ s ++ 0#10, 0#1 ++ BitVec.ofBool quiet ++ 0#4)
  | .vbfly g d s t quiet => some (0xd7#8 ++ g ++ d ++ s ++ t ++ 0#5, 0#1 ++ BitVec.ofBool quiet ++ 0#4)
  | .vbflyCj g d s t quiet => some (0xd7#8 ++ g ++ d ++ s ++ t ++ 1#5, 0#1 ++ BitVec.ofBool quiet ++ 0#4)
  | .vtwid g d s t quiet => some (0xd8#8 ++ g ++ d ++ s ++ t ++ 0#5, 0#1 ++ BitVec.ofBool quiet ++ 0#4)
  | .vcmul g d s t rm quiet => some (0xd9#8 ++ g ++ d ++ s ++ t ++ 0#3 ++ rm, 0#1 ++ BitVec.ofBool quiet ++ 0#4)
  | .vcmulCj g d s t rm quiet => some (0xd9#8 ++ g ++ d ++ s ++ t ++ 1#3 ++ rm, 0#1 ++ BitVec.ofBool quiet ++ 0#4)
  | .viaddVv g d s t quiet => some (0xda#8 ++ g ++ d ++ s ++ t ++ 0#5, 0#1 ++ BitVec.ofBool quiet ++ 0#4)
  | .viaddVs g d s t quiet => some (0xda#8 ++ g ++ d ++ s ++ t ++ 1#5, 0#1 ++ BitVec.ofBool quiet ++ 0#4)
  | .viaddVvSat g d s t quiet => some (0xda#8 ++ g ++ d ++ s ++ t ++ 2#5, 0#1 ++ BitVec.ofBool quiet ++ 0#4)
  | .viaddVsSat g d s t quiet => some (0xda#8 ++ g ++ d ++ s ++ t ++ 3#5, 0#1 ++ BitVec.ofBool quiet ++ 0#4)
  | .vimulVv g d s t quiet => some (0xdb#8 ++ g ++ d ++ s ++ t ++ 0#5, 0#1 ++ BitVec.ofBool quiet ++ 0#4)
  | .vimulVs g d s t quiet => some (0xdb#8 ++ g ++ d ++ s ++ t ++ 1#5, 0#1 ++ BitVec.ofBool quiet ++ 0#4)
  | .vandVv g d s t quiet => some (0xdc#8 ++ g ++ d ++ s ++ t ++ 0#5, 0#1 ++ BitVec.ofBool quiet ++ 0#4)
  | .vandVs g d s t quiet => some (0xdc#8 ++ g ++ d ++ s ++ t ++ 1#5, 0#1 ++ BitVec.ofBool quiet ++ 0#4)
  | .vorVv g d s t quiet => some (0xdd#8 ++ g ++ d ++ s ++ t ++ 0#5, 0#1 ++ BitVec.ofBool quiet ++ 0#4)
  | .vorVs g d s t quiet => some (0xdd#8 ++ g ++ d ++ s ++ t ++ 1#5, 0#1 ++ BitVec.ofBool quiet ++ 0#4)
  | .vxorVv g d s t quiet => some (0xde#8 ++ g ++ d ++ s ++ t ++ 0#5, 0#1 ++ BitVec.ofBool quiet ++ 0#4)
  | .vxorVs g d s t quiet => some (0xde#8 ++ g ++ d ++ s ++ t ++ 1#5, 0#1 ++ BitVec.ofBool quiet ++ 0#4)
  | .vshlVv g d s t quiet => some (0xdf#8 ++ g ++ d ++ s ++ t ++ 0#5, 0#1 ++ BitVec.ofBool quiet ++ 0#4)
  | .vshlVs g d s t quiet => some (0xdf#8 ++ g ++ d ++ s ++ t ++ 1#5, 0#1 ++ BitVec.ofBool quiet ++ 0#4)
  | .vshrVv g d s t quiet => some (0xe0#8 ++ g ++ d ++ s ++ t ++ 0#5, 0#1 ++ BitVec.ofBool quiet ++ 0#4)
  | .vshrVs g d s t quiet => some (0xe0#8 ++ g ++ d ++ s ++ t ++ 1#5, 0#1 ++ BitVec.ofBool quiet ++ 0#4)
  | .vshrArVv g d s t quiet => some (0xe0#8 ++ g ++ d ++ s ++ t ++ 2#5, 0#1 ++ BitVec.ofBool quiet ++ 0#4)
  | .vshrArVs g d s t quiet => some (0xe0#8 ++ g ++ d ++ s ++ t ++ 3#5, 0#1 ++ BitVec.ofBool quiet ++ 0#4)
  | .vflg g d quiet => some (0xe1#8 ++ g ++ d ++ 0#15, 0#1 ++ BitVec.ofBool quiet ++ 0#4)
  | .vflgClr g d quiet => some (0xe1#8 ++ g ++ d ++ 1#15, 0#1 ++ BitVec.ofBool quiet ++ 0#4)
  | .vmaskw g d s t quiet => some (0xe2#8 ++ g ++ d ++ s ++ t ++ 0#5, 0#1 ++ BitVec.ofBool quiet ++ 0#4)
  | .cpyLl g d s t => some (0xe8#8 ++ g ++ d ++ s ++ t ++ 0#5, 0)
  | .cpyLv g d s t => some (0xe8#8 ++ g ++ d ++ s ++ t ++ 1#5, 0)
  | .cpyLn g d s t hx => some (0xe8#8 ++ g ++ d ++ s ++ t ++ 2#5, hx)
  | .cpyVl g d s t => some (0xe8#8 ++ g ++ d ++ s ++ t ++ 3#5, 0)
  | .cpyVv g d s t => some (0xe8#8 ++ g ++ d ++ s ++ t ++ 4#5, 0)
  | .cpyVn g d s t hx => some (0xe8#8 ++ g ++ d ++ s ++ t ++ 5#5, hx)
  | .cpyHl g d s t hx => some (0xe8#8 ++ g ++ d ++ s ++ t ++ 6#5, hx)
  | .cpyHv g d s t hx => some (0xe8#8 ++ g ++ d ++ s ++ t ++ 7#5, hx)
  | .cpyHn g d s t hx => some (0xe8#8 ++ g ++ d ++ s ++ t ++ 8#5, hx)
  | .cpyrL g d s t => some (0xe9#8 ++ g ++ d ++ s ++ t ++ 0#5, 0)
  | .cpyrV g d s t => some (0xe9#8 ++ g ++ d ++ s ++ t ++ 1#5, 0)
  | .cpyrH g d s t hx => some (0xe9#8 ++ g ++ d ++ s ++ t ++ 2#5, hx)
  | .migr g s t hx => some (0xea#8 ++ g ++ 0#5 ++ s ++ t ++ 0#5, hx)
  | _ => none

/-- A slot in which an instruction may stand, the one its tests use. -/
def encodeSlot (i : Instr) : Nat :=
  match encode i with
  | some (w, _) => (match i with | .hdr .. => 0 | _ => canonicalSlot (fld w 24 8).toNat)
  | none => 0

end Sys2Proof
end

