-- ==== Sys2Proof/Machine/RegUse.lean ====
section
/-! DEFINITION. The registers that each slot form reads and writes at issue, read from its encoding (R104 checks 2 and 3, R155). -/

namespace Sys2Proof

open Machine in
/-- Register `n` of the cluster of slot `k` (R92). -/
def xr (k n : Nat) : Reg := if k < 2 then .a n else .b n

open Machine in
/-- What a form writes at issue in slot `k` (R104 check 2, R155). -/
def Instr.dests (k : Nat) : Instr → List Reg
  | .hdr _ _ _ _ _ sync q => if sync.toNat < 2 then [] else [.q q.toNat]
  | .brx _ d _ => [.a d.toNat]
  | .call _ _ => [.a 31]
  | .waitTake _ q _ _ => [.q q.toNat]
  | .postInc _ q _ _ => [.q q.toNat]
  | .postSet _ q _ _ => [.q q.toNat]
  | .timeDom _ d => [.a d.toNat]
  | .timeCyc _ d => [.a d.toNat]
  | .rdsr _ d _ => [.a d.toNat]
  | .launch _ d _ _ => [.a d.toNat]
  | .add _ d _ _ => [xr k d.toNat]
  | .addW _ d _ _ => [xr k d.toNat]
  | .sub _ d _ _ => [xr k d.toNat]
  | .subW _ d _ _ => [xr k d.toNat]
  | .mul _ d _ _ => [xr k d.toNat]
  | .mulW _ d _ _ => [xr k d.toNat]
  | .mulh _ d _ _ => [xr k d.toNat]
  | .mulhu _ d _ _ => [xr k d.toNat]
  | .div _ d _ _ => [xr k d.toNat]
  | .divW _ d _ _ => [xr k d.toNat]
  | .divu _ d _ _ => [xr k d.toNat]
  | .divuW _ d _ _ => [xr k d.toNat]
  | .rem _ d _ _ => [xr k d.toNat]
  | .remW _ d _ _ => [xr k d.toNat]
  | .remu _ d _ _ => [xr k d.toNat]
  | .remuW _ d _ _ => [xr k d.toNat]
  | .and _ d _ _ => [xr k d.toNat]
  | .or _ d _ _ => [xr k d.toNat]
  | .xor _ d _ _ => [xr k d.toNat]
  | .shl _ d _ _ => [xr k d.toNat]
  | .shlW _ d _ _ => [xr k d.toNat]
  | .shr _ d _ _ => [xr k d.toNat]
  | .shrW _ d _ _ => [xr k d.toNat]
  | .sra _ d _ _ => [xr k d.toNat]
  | .sraW _ d _ _ => [xr k d.toNat]
  | .rotr _ d _ _ => [xr k d.toNat]
  | .rotrW _ d _ _ => [xr k d.toNat]
  | .clz _ d _ => [xr k d.toNat]
  | .ctz _ d _ => [xr k d.toNat]
  | .popc _ d _ => [xr k d.toNat]
  | .min _ d _ _ => [xr k d.toNat]
  | .max _ d _ _ => [xr k d.toNat]
  | .minu _ d _ _ => [xr k d.toNat]
  | .maxu _ d _ _ => [xr k d.toNat]
  | .sextB _ d _ => [xr k d.toNat]
  | .sextH _ d _ => [xr k d.toNat]
  | .sextW _ d _ => [xr k d.toNat]
  | .zextB _ d _ => [xr k d.toNat]
  | .zextH _ d _ => [xr k d.toNat]
  | .zextW _ d _ => [xr k d.toNat]
  | .sel _ d _ _ _ => [xr k d.toNat]
  | .cmpEq _ d _ _ => [.p d.toNat]
  | .cmpNe _ d _ _ => [.p d.toNat]
  | .cmpLt _ d _ _ => [.p d.toNat]
  | .cmpLe _ d _ _ => [.p d.toNat]
  | .cmpLtu _ d _ _ => [.p d.toNat]
  | .cmpLeu _ d _ _ => [.p d.toNat]
  | .addi _ d _ _ => [xr k d.toNat]
  | .addiW _ d _ _ => [xr k d.toNat]
  | .andi _ d _ _ => [xr k d.toNat]
  | .ori _ d _ _ => [xr k d.toNat]
  | .xori _ d _ _ => [xr k d.toNat]
  | .shli _ d _ _ => [xr k d.toNat]
  | .shliW _ d _ _ => [xr k d.toNat]
  | .shri _ d _ _ => [xr k d.toNat]
  | .shriW _ d _ _ => [xr k d.toNat]
  | .srai _ d _ _ => [xr k d.toNat]
  | .sraiW _ d _ _ => [xr k d.toNat]
  | .cmpiEq _ d _ _ => [.p d.toNat]
  | .cmpiNe _ d _ _ => [.p d.toNat]
  | .cmpiLt _ d _ _ => [.p d.toNat]
  | .cmpiLe _ d _ _ => [.p d.toNat]
  | .cmpiLtu _ d _ _ => [.p d.toNat]
  | .cmpiLeu _ d _ _ => [.p d.toNat]
  | .cmpiGt _ d _ _ => [.p d.toNat]
  | .cmpiGe _ d _ _ => [.p d.toNat]
  | .cmpiGtu _ d _ _ => [.p d.toNat]
  | .cmpiGeu _ d _ _ => [.p d.toNat]
  | .movi _ d _ => [xr k d.toNat]
  | .movhi _ d _ => [xr k d.toNat]
  | .pand _ d _ _ => [.p d.toNat]
  | .por _ d _ _ => [.p d.toNat]
  | .pnot _ d _ => [.p d.toNat]
  | .pxor _ d _ _ => [.p d.toNat]
  | .xab _ d _ => [.b d.toNat]
  | .xba _ d _ => [.a d.toNat]
  | .xbaH _ d _ => [.a d.toNat]
  | .fadd _ d _ _ _ => [.a d.toNat]
  | .fsub _ d _ _ _ => [.a d.toNat]
  | .fmul _ d _ _ _ => [.a d.toNat]
  | .ffma _ d _ _ _ => [.a d.toNat]
  | .fdiv _ d _ _ _ => [.a d.toNat]
  | .fsqrt _ d _ _ => [.a d.toNat]
  | .fmin _ d _ _ => [.a d.toNat]
  | .fmax _ d _ _ => [.a d.toNat]
  | .fcmpEq _ d _ _ => [.p d.toNat]
  | .fcmpLt _ d _ _ => [.p d.toNat]
  | .fcmpLe _ d _ _ => [.p d.toNat]
  | .fcmpUn _ d _ _ => [.p d.toNat]
  | .fcmpNe _ d _ _ => [.p d.toNat]
  | .fcvtF32S64 _ d _ _ _ => [.a d.toNat]
  | .fcvtF32Z64 _ d _ _ _ => [.a d.toNat]
  | .fcvtS64F32 _ d _ _ _ => [.a d.toNat]
  | .fcvtZ64F32 _ d _ _ _ => [.a d.toNat]
  | .fcvtF32Bf16 _ d _ _ _ => [.a d.toNat]
  | .fcvtBf16F32 _ d _ _ _ => [.a d.toNat]
  | .fcvtF32F16 _ d _ _ _ => [.a d.toNat]
  | .fcvtF16F32 _ d _ _ _ => [.a d.toNat]
  | .ldsD _ d _ _ => [.b d.toNat]
  | .ldsW _ d _ _ => [.b d.toNat]
  | .ldsWu _ d _ _ => [.b d.toNat]
  | .ldsH _ d _ _ => [.b d.toNat]
  | .ldsHu _ d _ _ => [.b d.toNat]
  | .ldsB _ d _ _ => [.b d.toNat]
  | .ldsBu _ d _ _ => [.b d.toNat]
  | .ldsFw _ d _ _ => [.b d.toNat]
  | .ldsFc _ d _ _ => [.b d.toNat]
  | .ldsXD _ d _ _ => [.b d.toNat]
  | .ldsXW _ d _ _ => [.b d.toNat]
  | .ldsXWu _ d _ _ => [.b d.toNat]
  | .ldsXH _ d _ _ => [.b d.toNat]
  | .ldsXHu _ d _ _ => [.b d.toNat]
  | .ldsXB _ d _ _ => [.b d.toNat]
  | .ldsXBu _ d _ _ => [.b d.toNat]
  | .ldmD _ d _ _ => [.b d.toNat]
  | .ldmW _ d _ _ => [.b d.toNat]
  | .ldmWu _ d _ _ => [.b d.toNat]
  | .ldmH _ d _ _ => [.b d.toNat]
  | .ldmHu _ d _ _ => [.b d.toNat]
  | .ldmB _ d _ _ => [.b d.toNat]
  | .ldmBu _ d _ _ => [.b d.toNat]
  | .ldmXD _ d _ _ => [.b d.toNat]
  | .ldmXW _ d _ _ => [.b d.toNat]
  | .ldmXWu _ d _ _ => [.b d.toNat]
  | .ldmXH _ d _ _ => [.b d.toNat]
  | .ldmXHu _ d _ _ => [.b d.toNat]
  | .ldmXB _ d _ _ => [.b d.toNat]
  | .ldmXBu _ d _ _ => [.b d.toNat]
  | .atomAdd _ d _ _ => [.b d.toNat]
  | .atomAddW _ d _ _ => [.b d.toNat]
  | .atomAnd _ d _ _ => [.b d.toNat]
  | .atomAndW _ d _ _ => [.b d.toNat]
  | .atomOr _ d _ _ => [.b d.toNat]
  | .atomOrW _ d _ _ => [.b d.toNat]
  | .atomXor _ d _ _ => [.b d.toNat]
  | .atomXorW _ d _ _ => [.b d.toNat]
  | .atomMin _ d _ _ => [.b d.toNat]
  | .atomMinW _ d _ _ => [.b d.toNat]
  | .atomMax _ d _ _ => [.b d.toNat]
  | .atomMaxW _ d _ _ => [.b d.toNat]
  | .atomMinu _ d _ _ => [.b d.toNat]
  | .atomMinuW _ d _ _ => [.b d.toNat]
  | .atomMaxu _ d _ _ => [.b d.toNat]
  | .atomMaxuW _ d _ _ => [.b d.toNat]
  | .atomSwap _ d _ _ => [.b d.toNat]
  | .atomSwapW _ d _ _ => [.b d.toNat]
  | .atomCas _ d _ _ => [.b d.toNat]
  | .atomCasW _ d _ _ => [.b d.toNat]
  | .unlease _ d _ => [.b d.toNat]
  | .snap _ d _ _ => [.b d.toNat]
  | .ldh _ h _ _ => [.h h.toNat]
  | .ldhd _ h _ _ => [.h h.toNat]
  | .sth _ h _ _ => [.h h.toNat]
  | .dup _ h j => [.h h.toNat, .h j.toNat]
  | .drop _ h => [.h h.toNat]
  | .tnew _ h j _ => .h h.toNat :: (if j = 0 then [] else [.h j.toNat])
  | .tdesc _ _ s _ => [.b s.toNat]
  | .tget _ _ s _ => [.b s.toNat]
  | .tset _ h _ _ => [.h h.toNat]
  | .tsetv _ h _ _ => [.h h.toNat]
  | .tseal _ h _ => [.h h.toNat]
  | .topen _ h => [.h h.toNat]
  | .tuniq _ _ s => [.b s.toNat]
  | .kvfind _ h _ t => [.h h.toNat, .b t.toNat]
  | .quiesce _ d _ => [.b d.toNat]
  | .gmma _ _ _ _ hx => [.h hx.toNat]
  | .gmmaMc _ _ _ _ hx => [.h hx.toNat]
  | .cpyLn _ _ _ _ hx => [.h hx.toNat]
  | .cpyVn _ _ _ _ hx => [.h hx.toNat]
  | .cpyHn _ _ _ _ hx => [.h (hx + 1).toNat]
  | _ => []

open Machine in
/-- What a form reads in slot `k`, its guard apart; the registers it consumes or writes are compared as destinations. -/
def Instr.sources (k : Nat) : Instr → List Reg
  | .brx _ _ s => [.a s.toNat]
  | .ret _ s => [.a s.toNat]
  | .loopx _ _ c _ => [.a c.toNat]
  | .waitGe _ _ s _ => [.a s.toNat]
  | .waitEq _ _ s _ => [.a s.toNat]
  | .waitTake _ _ s _ => [.a s.toNat]
  | .postInc _ _ s _ => [.a s.toNat]
  | .postSet _ _ s _ => [.a s.toNat]
  | .rpost _ _ s _ => [.a s.toNat]
  | .wrsr _ d _ => [.a d.toNat]
  | .launch _ _ s t => [.a s.toNat, .a t.toNat]
  | .add _ _ s t => [xr k s.toNat, xr k t.toNat]
  | .addW _ _ s t => [xr k s.toNat, xr k t.toNat]
  | .sub _ _ s t => [xr k s.toNat, xr k t.toNat]
  | .subW _ _ s t => [xr k s.toNat, xr k t.toNat]
  | .mul _ _ s t => [xr k s.toNat, xr k t.toNat]
  | .mulW _ _ s t => [xr k s.toNat, xr k t.toNat]
  | .mulh _ _ s t => [xr k s.toNat, xr k t.toNat]
  | .mulhu _ _ s t => [xr k s.toNat, xr k t.toNat]
  | .div _ _ s t => [xr k s.toNat, xr k t.toNat]
  | .divW _ _ s t => [xr k s.toNat, xr k t.toNat]
  | .divu _ _ s t => [xr k s.toNat, xr k t.toNat]
  | .divuW _ _ s t => [xr k s.toNat, xr k t.toNat]
  | .rem _ _ s t => [xr k s.toNat, xr k t.toNat]
  | .remW _ _ s t => [xr k s.toNat, xr k t.toNat]
  | .remu _ _ s t => [xr k s.toNat, xr k t.toNat]
  | .remuW _ _ s t => [xr k s.toNat, xr k t.toNat]
  | .and _ _ s t => [xr k s.toNat, xr k t.toNat]
  | .or _ _ s t => [xr k s.toNat, xr k t.toNat]
  | .xor _ _ s t => [xr k s.toNat, xr k t.toNat]
  | .shl _ _ s t => [xr k s.toNat, xr k t.toNat]
  | .shlW _ _ s t => [xr k s.toNat, xr k t.toNat]
  | .shr _ _ s t => [xr k s.toNat, xr k t.toNat]
  | .shrW _ _ s t => [xr k s.toNat, xr k t.toNat]
  | .sra _ _ s t => [xr k s.toNat, xr k t.toNat]
  | .sraW _ _ s t => [xr k s.toNat, xr k t.toNat]
  | .rotr _ _ s t => [xr k s.toNat, xr k t.toNat]
  | .rotrW _ _ s t => [xr k s.toNat, xr k t.toNat]
  | .clz _ _ s => [xr k s.toNat]
  | .ctz _ _ s => [xr k s.toNat]
  | .popc _ _ s => [xr k s.toNat]
  | .min _ _ s t => [xr k s.toNat, xr k t.toNat]
  | .max _ _ s t => [xr k s.toNat, xr k t.toNat]
  | .minu _ _ s t => [xr k s.toNat, xr k t.toNat]
  | .maxu _ _ s t => [xr k s.toNat, xr k t.toNat]
  | .sextB _ _ s => [xr k s.toNat]
  | .sextH _ _ s => [xr k s.toNat]
  | .sextW _ _ s => [xr k s.toNat]
  | .zextB _ _ s => [xr k s.toNat]
  | .zextH _ _ s => [xr k s.toNat]
  | .zextW _ _ s => [xr k s.toNat]
  | .sel _ _ s t p => [xr k s.toNat, xr k t.toNat, .p p.toNat]
  | .cmpEq _ _ s t => [xr k s.toNat, xr k t.toNat]
  | .cmpNe _ _ s t => [xr k s.toNat, xr k t.toNat]
  | .cmpLt _ _ s t => [xr k s.toNat, xr k t.toNat]
  | .cmpLe _ _ s t => [xr k s.toNat, xr k t.toNat]
  | .cmpLtu _ _ s t => [xr k s.toNat, xr k t.toNat]
  | .cmpLeu _ _ s t => [xr k s.toNat, xr k t.toNat]
  | .addi _ _ s _ => [xr k s.toNat]
  | .addiW _ _ s _ => [xr k s.toNat]
  | .andi _ _ s _ => [xr k s.toNat]
  | .ori _ _ s _ => [xr k s.toNat]
  | .xori _ _ s _ => [xr k s.toNat]
  | .shli _ _ s _ => [xr k s.toNat]
  | .shliW _ _ s _ => [xr k s.toNat]
  | .shri _ _ s _ => [xr k s.toNat]
  | .shriW _ _ s _ => [xr k s.toNat]
  | .srai _ _ s _ => [xr k s.toNat]
  | .sraiW _ _ s _ => [xr k s.toNat]
  | .cmpiEq _ _ s _ => [xr k s.toNat]
  | .cmpiNe _ _ s _ => [xr k s.toNat]
  | .cmpiLt _ _ s _ => [xr k s.toNat]
  | .cmpiLe _ _ s _ => [xr k s.toNat]
  | .cmpiLtu _ _ s _ => [xr k s.toNat]
  | .cmpiLeu _ _ s _ => [xr k s.toNat]
  | .cmpiGt _ _ s _ => [xr k s.toNat]
  | .cmpiGe _ _ s _ => [xr k s.toNat]
  | .cmpiGtu _ _ s _ => [xr k s.toNat]
  | .cmpiGeu _ _ s _ => [xr k s.toNat]
  | .movhi _ d _ => [xr k d.toNat]
  | .pand _ _ s t => [.p s.toNat, .p t.toNat]
  | .por _ _ s t => [.p s.toNat, .p t.toNat]
  | .pnot _ _ s => [.p s.toNat]
  | .pxor _ _ s t => [.p s.toNat, .p t.toNat]
  | .xab _ _ s => [.a s.toNat]
  | .xba _ _ s => [.b s.toNat]
  | .xbaH _ _ h => [.h h.toNat]
  | .fadd _ _ s t _ => [.a s.toNat, .a t.toNat]
  | .fsub _ _ s t _ => [.a s.toNat, .a t.toNat]
  | .fmul _ _ s t _ => [.a s.toNat, .a t.toNat]
  | .ffma _ d s t _ => [.a s.toNat, .a t.toNat, .a d.toNat]
  | .fdiv _ _ s t _ => [.a s.toNat, .a t.toNat]
  | .fsqrt _ _ s _ => [.a s.toNat]
  | .fmin _ _ s t => [.a s.toNat, .a t.toNat]
  | .fmax _ _ s t => [.a s.toNat, .a t.toNat]
  | .fcmpEq _ _ s t => [.a s.toNat, .a t.toNat]
  | .fcmpLt _ _ s t => [.a s.toNat, .a t.toNat]
  | .fcmpLe _ _ s t => [.a s.toNat, .a t.toNat]
  | .fcmpUn _ _ s t => [.a s.toNat, .a t.toNat]
  | .fcmpNe _ _ s t => [.a s.toNat, .a t.toNat]
  | .fcvtF32S64 _ _ s _ _ => [.a s.toNat]
  | .fcvtF32Z64 _ _ s _ _ => [.a s.toNat]
  | .fcvtS64F32 _ _ s _ _ => [.a s.toNat]
  | .fcvtZ64F32 _ _ s _ _ => [.a s.toNat]
  | .fcvtF32Bf16 _ _ s _ _ => [.a s.toNat]
  | .fcvtBf16F32 _ _ s _ _ => [.a s.toNat]
  | .fcvtF32F16 _ _ s _ _ => [.a s.toNat]
  | .fcvtF16F32 _ _ s _ _ => [.a s.toNat]
  | .ldsD _ _ s _ => [.b s.toNat]
  | .ldsW _ _ s _ => [.b s.toNat]
  | .ldsWu _ _ s _ => [.b s.toNat]
  | .ldsH _ _ s _ => [.b s.toNat]
  | .ldsHu _ _ s _ => [.b s.toNat]
  | .ldsB _ _ s _ => [.b s.toNat]
  | .ldsBu _ _ s _ => [.b s.toNat]
  | .ldsFw _ _ s _ => [.b s.toNat]
  | .ldsFc _ _ s _ => [.b s.toNat]
  | .ldsXD _ _ s t => [.b s.toNat, .b t.toNat]
  | .ldsXW _ _ s t => [.b s.toNat, .b t.toNat]
  | .ldsXWu _ _ s t => [.b s.toNat, .b t.toNat]
  | .ldsXH _ _ s t => [.b s.toNat, .b t.toNat]
  | .ldsXHu _ _ s t => [.b s.toNat, .b t.toNat]
  | .ldsXB _ _ s t => [.b s.toNat, .b t.toNat]
  | .ldsXBu _ _ s t => [.b s.toNat, .b t.toNat]
  | .stsD _ d s _ => [.b d.toNat, .b s.toNat]
  | .stsW _ d s _ => [.b d.toNat, .b s.toNat]
  | .stsH _ d s _ => [.b d.toNat, .b s.toNat]
  | .stsB _ d s _ => [.b d.toNat, .b s.toNat]
  | .stsFs _ d s _ => [.b d.toNat, .b s.toNat]
  | .stsFe _ d s _ => [.b d.toNat, .b s.toNat]
  | .stsXD _ d s t => [.b d.toNat, .b s.toNat, .b t.toNat]
  | .stsXW _ d s t => [.b d.toNat, .b s.toNat, .b t.toNat]
  | .stsXH _ d s t => [.b d.toNat, .b s.toNat, .b t.toNat]
  | .stsXB _ d s t => [.b d.toNat, .b s.toNat, .b t.toNat]
  | .ldmD _ _ s _ => [.b s.toNat]
  | .ldmW _ _ s _ => [.b s.toNat]
  | .ldmWu _ _ s _ => [.b s.toNat]
  | .ldmH _ _ s _ => [.b s.toNat]
  | .ldmHu _ _ s _ => [.b s.toNat]
  | .ldmB _ _ s _ => [.b s.toNat]
  | .ldmBu _ _ s _ => [.b s.toNat]
  | .ldmXD _ _ s t => [.b s.toNat, .b t.toNat]
  | .ldmXW _ _ s t => [.b s.toNat, .b t.toNat]
  | .ldmXWu _ _ s t => [.b s.toNat, .b t.toNat]
  | .ldmXH _ _ s t => [.b s.toNat, .b t.toNat]
  | .ldmXHu _ _ s t => [.b s.toNat, .b t.toNat]
  | .ldmXB _ _ s t => [.b s.toNat, .b t.toNat]
  | .ldmXBu _ _ s t => [.b s.toNat, .b t.toNat]
  | .stmD _ d s _ => [.b d.toNat, .b s.toNat]
  | .stmW _ d s _ => [.b d.toNat, .b s.toNat]
  | .stmH _ d s _ => [.b d.toNat, .b s.toNat]
  | .stmB _ d s _ => [.b d.toNat, .b s.toNat]
  | .stmXD _ d s t => [.b d.toNat, .b s.toNat, .b t.toNat]
  | .stmXW _ d s t => [.b d.toNat, .b s.toNat, .b t.toNat]
  | .stmXH _ d s t => [.b d.toNat, .b s.toNat, .b t.toNat]
  | .stmXB _ d s t => [.b d.toNat, .b s.toNat, .b t.toNat]
  | .atomAdd _ _ s t => [.b s.toNat, .b t.toNat]
  | .atomAddW _ _ s t => [.b s.toNat, .b t.toNat]
  | .atomAnd _ _ s t => [.b s.toNat, .b t.toNat]
  | .atomAndW _ _ s t => [.b s.toNat, .b t.toNat]
  | .atomOr _ _ s t => [.b s.toNat, .b t.toNat]
  | .atomOrW _ _ s t => [.b s.toNat, .b t.toNat]
  | .atomXor _ _ s t => [.b s.toNat, .b t.toNat]
  | .atomXorW _ _ s t => [.b s.toNat, .b t.toNat]
  | .atomMin _ _ s t => [.b s.toNat, .b t.toNat]
  | .atomMinW _ _ s t => [.b s.toNat, .b t.toNat]
  | .atomMax _ _ s t => [.b s.toNat, .b t.toNat]
  | .atomMaxW _ _ s t => [.b s.toNat, .b t.toNat]
  | .atomMinu _ _ s t => [.b s.toNat, .b t.toNat]
  | .atomMinuW _ _ s t => [.b s.toNat, .b t.toNat]
  | .atomMaxu _ _ s t => [.b s.toNat, .b t.toNat]
  | .atomMaxuW _ _ s t => [.b s.toNat, .b t.toNat]
  | .atomSwap _ _ s t => [.b s.toNat, .b t.toNat]
  | .atomSwapW _ _ s t => [.b s.toNat, .b t.toNat]
  | .atomCas _ d s t => [.b s.toNat, .b t.toNat, .b d.toNat]
  | .atomCasW _ d s t => [.b s.toNat, .b t.toNat, .b d.toNat]
  | .caddD _ s t => [.b s.toNat, .b t.toNat]
  | .caddW _ s t => [.b s.toNat, .b t.toNat]
  | .lease _ s t => [.b s.toNat, .b t.toNat]
  | .unlease _ _ s => [.b s.toNat]
  | .snap _ _ s t => [.b s.toNat, .b t.toNat]
  | .accept _ s => [.b s.toNat]
  | .reject _ s => [.b s.toNat]
  | .ldh _ _ s _ => [.b s.toNat]
  | .ldhd _ _ s _ => [.b s.toNat]
  | .sth _ _ s _ => [.b s.toNat]
  | .tnew _ _ _ s => [.b s.toNat]
  | .tdesc _ h _ t => [.h h.toNat, .b t.toNat]
  | .tget _ h _ t => [.h h.toNat, .b t.toNat]
  | .tset _ _ s t => [.b s.toNat, .b t.toNat]
  | .tsetv _ _ s t => [.b s.toNat, .b t.toNat]
  | .tseal _ _ s => [.b s.toNat]
  | .tmove _ h s => [.h h.toNat, .b s.toNat]
  | .tuniq _ h _ => [.h h.toNat]
  | .kvfind _ _ s _ => [.b s.toNat]
  | .spload _ s t => [.b s.toNat, .b t.toNat]
  | .spinv _ d s t => [.b d.toNat, .b s.toNat, .b t.toNat]
  | .quiesce _ _ s => [.b s.toNat]
  | .ctxsave _ s t => [.b s.toNat, .b t.toNat]
  | .ctxload _ s t => [.b s.toNat, .b t.toNat]
  | .mfmt _ s => [.b s.toNat]
  | .mma _ ha hb s => [.h ha.toNat, .h hb.toNat, .b s.toNat, .b (s.toNat + 1)]
  | .mmac _ ha hb s => [.h ha.toNat, .h hb.toNat, .b s.toNat, .b (s.toNat + 1)]
  | .gmma _ ha hb s _ => [.h ha.toNat, .h hb.toNat, .b s.toNat]
  | .gmmaMc _ ha hb s _ => [.h ha.toNat, .h hb.toNat, .b s.toNat]
  | .vaddVv _ d s t _ _ => [.b d.toNat, .b s.toNat, .b t.toNat]
  | .vaddVs _ d s t _ _ => [.b d.toNat, .b s.toNat, .b t.toNat]
  | .vsubVv _ d s t _ _ => [.b d.toNat, .b s.toNat, .b t.toNat]
  | .vsubVs _ d s t _ _ => [.b d.toNat, .b s.toNat, .b t.toNat]
  | .vmulVv _ d s t _ _ => [.b d.toNat, .b s.toNat, .b t.toNat]
  | .vmulVs _ d s t _ _ => [.b d.toNat, .b s.toNat, .b t.toNat]
  | .vfmaVv _ d s t _ _ => [.b d.toNat, .b s.toNat, .b t.toNat]
  | .vfmaVs _ d s t _ _ => [.b d.toNat, .b s.toNat, .b t.toNat]
  | .vfmaVn _ d s t _ _ => [.b d.toNat, .b s.toNat, .b t.toNat]
  | .vmaxVv _ d s t _ => [.b d.toNat, .b s.toNat, .b t.toNat]
  | .vmaxVs _ d s t _ => [.b d.toNat, .b s.toNat, .b t.toNat]
  | .vminVv _ d s t _ => [.b d.toNat, .b s.toNat, .b t.toNat]
  | .vminVs _ d s t _ => [.b d.toNat, .b s.toNat, .b t.toNat]
  | .vabs _ d s _ => [.b d.toNat, .b s.toNat]
  | .vneg _ d s _ => [.b d.toNat, .b s.toNat]
  | .vclmpVs _ d s t _ => [.b d.toNat, .b s.toNat, .b t.toNat]
  | .vclmpVv _ d s t _ => [.b d.toNat, .b s.toNat, .b t.toNat]
  | .vcvt _ d s _ _ _ => [.b d.toNat, .b s.toNat]
  | .vcvtS _ d s t _ _ _ => [.b d.toNat, .b s.toNat, .b t.toNat]
  | .vexp _ d s _ => [.b d.toNat, .b s.toNat]
  | .vexpB2 _ d s _ => [.b d.toNat, .b s.toNat]
  | .vrcp _ d s _ => [.b d.toNat, .b s.toNat]
  | .vrsq _ d s _ => [.b d.toNat, .b s.toNat]
  | .vsumF _ d s _ => [.b d.toNat, .b s.toNat]
  | .vsumI _ d s _ => [.b d.toNat, .b s.toNat]
  | .vrmax _ d s _ => [.b d.toNat, .b s.toNat]
  | .vsel _ d s t _ => [.b d.toNat, .b s.toNat, .b t.toNat]
  | .vcmpEqVv _ d s t _ => [.b d.toNat, .b s.toNat, .b t.toNat]
  | .vcmpEqVs _ d s t _ => [.b d.toNat, .b s.toNat, .b t.toNat]
  | .vcmpNeVv _ d s t _ => [.b d.toNat, .b s.toNat, .b t.toNat]
  | .vcmpNeVs _ d s t _ => [.b d.toNat, .b s.toNat, .b t.toNat]
  | .vcmpLtVv _ d s t _ => [.b d.toNat, .b s.toNat, .b t.toNat]
  | .vcmpLtVs _ d s t _ => [.b d.toNat, .b s.toNat, .b t.toNat]
  | .vcmpLeVv _ d s t _ => [.b d.toNat, .b s.toNat, .b t.toNat]
  | .vcmpLeVs _ d s t _ => [.b d.toNat, .b s.toNat, .b t.toNat]
  | .vcmpGtVv _ d s t _ => [.b d.toNat, .b s.toNat, .b t.toNat]
  | .vcmpGtVs _ d s t _ => [.b d.toNat, .b s.toNat, .b t.toNat]
  | .vcmpGeVv _ d s t _ => [.b d.toNat, .b s.toNat, .b t.toNat]
  | .vcmpGeVs _ d s t _ => [.b d.toNat, .b s.toNat, .b t.toNat]
  | .vtopkMax _ d s t _ => [.b d.toNat, .b s.toNat, .b t.toNat]
  | .vtopkMin _ d s t _ => [.b d.toNat, .b s.toNat, .b t.toNat]
  | .vgath _ d s t _ => [.b d.toNat, .b s.toNat, .b t.toNat]
  | .vscat _ d s t _ => [.b d.toNat, .b s.toNat, .b t.toNat]
  | .viota _ d s t _ => [.b d.toNat, .b s.toNat, .b t.toNat]
  | .vfill _ d s _ => [.b d.toNat, .b s.toNat]
  | .vbfly _ d s t _ => [.b d.toNat, .b s.toNat, .b t.toNat]
  | .vbflyCj _ d s t _ => [.b d.toNat, .b s.toNat, .b t.toNat]
  | .vtwid _ d s t _ => [.b d.toNat, .b s.toNat, .b t.toNat]
  | .vcmul _ d s t _ _ => [.b d.toNat, .b s.toNat, .b t.toNat]
  | .vcmulCj _ d s t _ _ => [.b d.toNat, .b s.toNat, .b t.toNat]
  | .viaddVv _ d s t _ => [.b d.toNat, .b s.toNat, .b t.toNat]
  | .viaddVs _ d s t _ => [.b d.toNat, .b s.toNat, .b t.toNat]
  | .viaddVvSat _ d s t _ => [.b d.toNat, .b s.toNat, .b t.toNat]
  | .viaddVsSat _ d s t _ => [.b d.toNat, .b s.toNat, .b t.toNat]
  | .vimulVv _ d s t _ => [.b d.toNat, .b s.toNat, .b t.toNat]
  | .vimulVs _ d s t _ => [.b d.toNat, .b s.toNat, .b t.toNat]
  | .vandVv _ d s t _ => [.b d.toNat, .b s.toNat, .b t.toNat]
  | .vandVs _ d s t _ => [.b d.toNat, .b s.toNat, .b t.toNat]
  | .vorVv _ d s t _ => [.b d.toNat, .b s.toNat, .b t.toNat]
  | .vorVs _ d s t _ => [.b d.toNat, .b s.toNat, .b t.toNat]
  | .vxorVv _ d s t _ => [.b d.toNat, .b s.toNat, .b t.toNat]
  | .vxorVs _ d s t _ => [.b d.toNat, .b s.toNat, .b t.toNat]
  | .vshlVv _ d s t _ => [.b d.toNat, .b s.toNat, .b t.toNat]
  | .vshlVs _ d s t _ => [.b d.toNat, .b s.toNat, .b t.toNat]
  | .vshrVv _ d s t _ => [.b d.toNat, .b s.toNat, .b t.toNat]
  | .vshrVs _ d s t _ => [.b d.toNat, .b s.toNat, .b t.toNat]
  | .vshrArVv _ d s t _ => [.b d.toNat, .b s.toNat, .b t.toNat]
  | .vshrArVs _ d s t _ => [.b d.toNat, .b s.toNat, .b t.toNat]
  | .vflg _ d _ => [.b d.toNat]
  | .vflgClr _ d _ => [.b d.toNat]
  | .vmaskw _ d s t _ => [.b d.toNat, .b s.toNat, .b t.toNat]
  | .cpyLl _ d s t => [.b d.toNat, .b s.toNat, .b t.toNat]
  | .cpyLv _ d s t => [.b d.toNat, .b s.toNat, .b t.toNat]
  | .cpyLn _ d s t _ => [.b d.toNat, .b s.toNat, .b t.toNat]
  | .cpyVl _ d s t => [.b d.toNat, .b s.toNat, .b t.toNat]
  | .cpyVv _ d s t => [.b d.toNat, .b s.toNat, .b t.toNat]
  | .cpyVn _ d s t _ => [.b d.toNat, .b s.toNat, .b t.toNat]
  | .cpyHl _ d s t hx => [.b d.toNat, .b s.toNat, .b t.toNat, .h hx.toNat]
  | .cpyHv _ d s t hx => [.b d.toNat, .b s.toNat, .b t.toNat, .h hx.toNat]
  | .cpyHn _ d s t hx => [.b d.toNat, .b s.toNat, .b t.toNat, .h hx.toNat]
  | .cpyrL _ d s t => [.b d.toNat, .b s.toNat, .b t.toNat]
  | .cpyrV _ d s t => [.b d.toNat, .b s.toNat, .b t.toNat]
  | .cpyrH _ d s t hx => [.b d.toNat, .b s.toNat, .b t.toNat, .h hx.toNat]
  | .migr _ s t hx => [.h hx.toNat, .b s.toNat, .b t.toNat]
  | _ => []

/-- The guard predicate of a slot form (R91); the header and the events have none. -/
def Instr.guard : Instr → BitVec 4
  | .nop g | .br g _ | .brx g _ _ | .call g _ | .ret g _ | .loop g _ _ _ | .loopx g _ _ _ | .lbrk g | .halt g | .trap g _ | .eret g | .yield g
    | .waitGe g _ _ _ | .waitEq g _ _ _ | .waitTake g _ _ _ | .postInc g _ _ _ | .postSet g _ _ _ | .rpost g _ _ _ | .barj g _ | .barw g _
    | .fenceFull g _ | .fenceAcq g _ | .fenceRel g _ | .timeDom g _ | .timeCyc g _ | .rdsr g _ _ | .wrsr g _ _ | .launch g _ _ _ | .drain g
    | .add g _ _ _ | .addW g _ _ _ | .sub g _ _ _ | .subW g _ _ _ | .mul g _ _ _ | .mulW g _ _ _ | .mulh g _ _ _ | .mulhu g _ _ _ | .div g _ _ _
    | .divW g _ _ _ | .divu g _ _ _ | .divuW g _ _ _ | .rem g _ _ _ | .remW g _ _ _ | .remu g _ _ _ | .remuW g _ _ _ | .and g _ _ _ | .or g _ _ _
    | .xor g _ _ _ | .shl g _ _ _ | .shlW g _ _ _ | .shr g _ _ _ | .shrW g _ _ _ | .sra g _ _ _ | .sraW g _ _ _ | .rotr g _ _ _ | .rotrW g _ _ _
    | .clz g _ _ | .ctz g _ _ | .popc g _ _ | .min g _ _ _ | .max g _ _ _ | .minu g _ _ _ | .maxu g _ _ _ | .sextB g _ _ | .sextH g _ _
    | .sextW g _ _ | .zextB g _ _ | .zextH g _ _ | .zextW g _ _ | .sel g _ _ _ _ | .cmpEq g _ _ _ | .cmpNe g _ _ _ | .cmpLt g _ _ _ | .cmpLe g _ _ _
    | .cmpLtu g _ _ _ | .cmpLeu g _ _ _ | .addi g _ _ _ | .addiW g _ _ _ | .andi g _ _ _ | .ori g _ _ _ | .xori g _ _ _ | .shli g _ _ _
    | .shliW g _ _ _ | .shri g _ _ _ | .shriW g _ _ _ | .srai g _ _ _ | .sraiW g _ _ _ | .cmpiEq g _ _ _ | .cmpiNe g _ _ _ | .cmpiLt g _ _ _
    | .cmpiLe g _ _ _ | .cmpiLtu g _ _ _ | .cmpiLeu g _ _ _ | .cmpiGt g _ _ _ | .cmpiGe g _ _ _ | .cmpiGtu g _ _ _ | .cmpiGeu g _ _ _ | .movi g _ _
    | .movhi g _ _ | .pand g _ _ _ | .por g _ _ _ | .pnot g _ _ | .pxor g _ _ _ | .xab g _ _ | .xba g _ _ | .xbaH g _ _ | .fadd g _ _ _ _
    | .fsub g _ _ _ _ | .fmul g _ _ _ _ | .ffma g _ _ _ _ | .fdiv g _ _ _ _ | .fsqrt g _ _ _ | .fmin g _ _ _ | .fmax g _ _ _ | .fcmpEq g _ _ _
    | .fcmpLt g _ _ _ | .fcmpLe g _ _ _ | .fcmpUn g _ _ _ | .fcmpNe g _ _ _ | .fcvtF32S64 g _ _ _ _ | .fcvtF32Z64 g _ _ _ _ | .fcvtS64F32 g _ _ _ _
    | .fcvtZ64F32 g _ _ _ _ | .fcvtF32Bf16 g _ _ _ _ | .fcvtBf16F32 g _ _ _ _ | .fcvtF32F16 g _ _ _ _ | .fcvtF16F32 g _ _ _ _ | .ldsD g _ _ _
    | .ldsW g _ _ _ | .ldsWu g _ _ _ | .ldsH g _ _ _ | .ldsHu g _ _ _ | .ldsB g _ _ _ | .ldsBu g _ _ _ | .ldsFw g _ _ _ | .ldsFc g _ _ _
    | .ldsXD g _ _ _ | .ldsXW g _ _ _ | .ldsXWu g _ _ _ | .ldsXH g _ _ _ | .ldsXHu g _ _ _ | .ldsXB g _ _ _ | .ldsXBu g _ _ _ | .stsD g _ _ _
    | .stsW g _ _ _ | .stsH g _ _ _ | .stsB g _ _ _ | .stsFs g _ _ _ | .stsFe g _ _ _ | .stsXD g _ _ _ | .stsXW g _ _ _ | .stsXH g _ _ _
    | .stsXB g _ _ _ | .ldmD g _ _ _ | .ldmW g _ _ _ | .ldmWu g _ _ _ | .ldmH g _ _ _ | .ldmHu g _ _ _ | .ldmB g _ _ _ | .ldmBu g _ _ _
    | .ldmXD g _ _ _ | .ldmXW g _ _ _ | .ldmXWu g _ _ _ | .ldmXH g _ _ _ | .ldmXHu g _ _ _ | .ldmXB g _ _ _ | .ldmXBu g _ _ _ | .stmD g _ _ _
    | .stmW g _ _ _ | .stmH g _ _ _ | .stmB g _ _ _ | .stmXD g _ _ _ | .stmXW g _ _ _ | .stmXH g _ _ _ | .stmXB g _ _ _ | .atomAdd g _ _ _
    | .atomAddW g _ _ _ | .atomAnd g _ _ _ | .atomAndW g _ _ _ | .atomOr g _ _ _ | .atomOrW g _ _ _ | .atomXor g _ _ _ | .atomXorW g _ _ _
    | .atomMin g _ _ _ | .atomMinW g _ _ _ | .atomMax g _ _ _ | .atomMaxW g _ _ _ | .atomMinu g _ _ _ | .atomMinuW g _ _ _ | .atomMaxu g _ _ _
    | .atomMaxuW g _ _ _ | .atomSwap g _ _ _ | .atomSwapW g _ _ _ | .atomCas g _ _ _ | .atomCasW g _ _ _ | .caddD g _ _ | .caddW g _ _ | .lease g _ _
    | .unlease g _ _ | .snap g _ _ _ | .accept g _ | .reject g _ | .ldh g _ _ _ | .ldhd g _ _ _ | .sth g _ _ _ | .dup g _ _ | .drop g _
    | .tnew g _ _ _ | .tdesc g _ _ _ | .tget g _ _ _ | .tset g _ _ _ | .tsetv g _ _ _ | .tseal g _ _ | .topen g _ | .tmove g _ _ | .tuniq g _ _
    | .kvfind g _ _ _ | .spload g _ _ | .spinv g _ _ _ | .quiesce g _ _ | .ctxsave g _ _ | .ctxload g _ _ | .rejoin g | .mfmt g _ | .mma g _ _ _
    | .mmac g _ _ _ | .gmma g _ _ _ _ | .gmmaMc g _ _ _ _ | .vaddVv g _ _ _ _ _ | .vaddVs g _ _ _ _ _ | .vsubVv g _ _ _ _ _ | .vsubVs g _ _ _ _ _
    | .vmulVv g _ _ _ _ _ | .vmulVs g _ _ _ _ _ | .vfmaVv g _ _ _ _ _ | .vfmaVs g _ _ _ _ _ | .vfmaVn g _ _ _ _ _ | .vmaxVv g _ _ _ _
    | .vmaxVs g _ _ _ _ | .vminVv g _ _ _ _ | .vminVs g _ _ _ _ | .vabs g _ _ _ | .vneg g _ _ _ | .vclmpVs g _ _ _ _ | .vclmpVv g _ _ _ _
    | .vcvt g _ _ _ _ _ | .vcvtS g _ _ _ _ _ _ | .vexp g _ _ _ | .vexpB2 g _ _ _ | .vrcp g _ _ _ | .vrsq g _ _ _ | .vsumF g _ _ _ | .vsumI g _ _ _
    | .vrmax g _ _ _ | .vsel g _ _ _ _ | .vcmpEqVv g _ _ _ _ | .vcmpEqVs g _ _ _ _ | .vcmpNeVv g _ _ _ _ | .vcmpNeVs g _ _ _ _ | .vcmpLtVv g _ _ _ _
    | .vcmpLtVs g _ _ _ _ | .vcmpLeVv g _ _ _ _ | .vcmpLeVs g _ _ _ _ | .vcmpGtVv g _ _ _ _ | .vcmpGtVs g _ _ _ _ | .vcmpGeVv g _ _ _ _
    | .vcmpGeVs g _ _ _ _ | .vtopkMax g _ _ _ _ | .vtopkMin g _ _ _ _ | .vgath g _ _ _ _ | .vscat g _ _ _ _ | .viota g _ _ _ _ | .vfill g _ _ _
    | .vbfly g _ _ _ _ | .vbflyCj g _ _ _ _ | .vtwid g _ _ _ _ | .vcmul g _ _ _ _ _ | .vcmulCj g _ _ _ _ _ | .viaddVv g _ _ _ _ | .viaddVs g _ _ _ _
    | .viaddVvSat g _ _ _ _ | .viaddVsSat g _ _ _ _ | .vimulVv g _ _ _ _ | .vimulVs g _ _ _ _ | .vandVv g _ _ _ _ | .vandVs g _ _ _ _
    | .vorVv g _ _ _ _ | .vorVs g _ _ _ _ | .vxorVv g _ _ _ _ | .vxorVs g _ _ _ _ | .vshlVv g _ _ _ _ | .vshlVs g _ _ _ _ | .vshrVv g _ _ _ _
    | .vshrVs g _ _ _ _ | .vshrArVv g _ _ _ _ | .vshrArVs g _ _ _ _ | .vflg g _ _ | .vflgClr g _ _ | .vmaskw g _ _ _ _ | .cpyLl g _ _ _
    | .cpyLv g _ _ _ | .cpyLn g _ _ _ _ | .cpyVl g _ _ _ | .cpyVv g _ _ _ | .cpyVn g _ _ _ _ | .cpyHl g _ _ _ _ | .cpyHv g _ _ _ _ | .cpyHn g _ _ _ _
    | .cpyrL g _ _ _ | .cpyrV g _ _ _ | .cpyrH g _ _ _ _ | .migr g _ _ _ => g
  | _ => 0

/-- The loads and stores of the local store that slot 3 may hold besides slot 2 (R158). -/
def Instr.accessesLs : Instr → Bool
  | .ldsD .. | .ldsW .. | .ldsWu .. | .ldsH .. | .ldsHu .. | .ldsB .. | .ldsBu .. | .ldsFw .. | .ldsFc .. | .ldsXD .. | .ldsXW .. | .ldsXWu ..
    | .ldsXH .. | .ldsXHu .. | .ldsXB .. | .ldsXBu .. | .stsD .. | .stsW .. | .stsH .. | .stsB .. | .stsFs .. | .stsFe .. | .stsXD .. | .stsXW ..
    | .stsXH .. | .stsXB .. => true
  | _ => false

end Sys2Proof
end

