-- ==== Sys2Proof/Machine/Issue.lean ====
section
/-! DEFINITION. Issue of bundles (R85 to R104, R313, R317, R324): the choice of a context, the five steps of R104, the commit.

`ex` is the meaning of an instruction; Step.lean gives it `exec`. -/

namespace Sys2Proof.Machine

/-! ### The examined bundle -/

/-- Begin an examination: latch what step 1 of R102 reads and what R103 keeps. -/
def State.latch (s : State) (c x : Nat) : State :=
  let k := s.core c
  let me := k.ctx x
  { s with iss :=
    { core := c, ctx := x, slot := 0, scope := 1, followed := false, acquiring := me.acquiring, accessing := me.accessing, regs := me.regs,
      mask := me.mask, ls := k.ls, tags := k.lsTags, full := k.full, status := .ok, trap := none, target := none, eret := false,
      wrsr := none, notes := [] } }

def State.atSlot (s : State) (k : Nat) : State := { s with iss := { s.iss with slot := k, status := .ok, trap := none } }

def State.withStatus (s : State) (t : Status) : State := { s with iss := { s.iss with status := t } }

/-- A precise trap of the whole bundle, reported at a slot. -/
def State.trapAt (s : State) (slot : Nat) (c : Cause) (addr : Word) : State := (s.atSlot slot).trapBundle c addr

/-- Take the trap that a slot raised, from the state before the bundle. -/
def State.takeAt (s : State) (t : TrapInfo) : State :=
  (s.takeTrap s.iss.core s.iss.ctx t (if t.cause = .swTrap then t.pc + 16 else t.pc)).withStatus .trapped

/-! ### Checks 2 and 3 of R104 -/

/-- Destinations of a bundle, once for each slot, that may conflict: writes to a0 and b0 never do. -/
def destsOf (is : List (Nat × Instr)) : List Reg :=
  (is.flatMap fun e => (e.2.dests e.1).eraseDups).filter fun r => match r with | .a n => n != 0 | .b n => n != 0 | _ => true

def hasDup : List Reg → Bool
  | [] => false
  | r :: rs => rs.contains r || hasDup rs

/-- Registers whose outstanding results hold a slot: the guard, and for an active slot its sources and destinations (R91, R98). -/
def State.watched (s : State) (k : Nat) (i : Instr) : List Reg :=
  let g := i.guard
  .p g.toNat :: (if s.opP g then i.sources k ++ i.dests k else [])

/-- Variable results of a context that have not arrived (R97, R49): that of a load into b0 too, though nothing is written (log entry 112). -/
def State.variable (s : State) (c x : Nat) : List Reg :=
  let k := s.ctx c x
  k.loads.map (·.dst) ++ k.remote.filterMap (·.dst) ++ (k.refills.flatMap fun r => [.h r.1, .h r.2.1]) ++
    (s.cmdsOf c x).filterMap fun m => m.dest.map .h

/-- Outcome of step 3: go on, wait with the context not ready before a cycle, block, or raise STALL_SHORT. -/
inductive Score where
  | pass | wait (until_ : Nat) | block | short
  deriving DecidableEq, Repr

def State.score (s : State) (is : List (Nat × Instr)) : Score :=
  let used := is.flatMap fun e => s.watched e.1 e.2
  let late := s.me.busy.filter fun b => decide (s.cycle < b.ready) && used.contains b.reg
  let fixed := late.filter fun b => !b.cross
  if !fixed.isEmpty then
    (if s.me.check then .short else .wait (late.foldl (fun m b => Nat.max m (b.ready + if b.cross then 0 else 1)) 0))
  else if !late.isEmpty then .wait (late.foldl (fun m b => Nat.max m b.ready) 0)
  else if (s.variable s.iss.core s.iss.ctx).any used.contains then .block
  else .pass

/-! ### Issue -/

/-- The bundle has issued: a refill that it did not use goes back, an answer still on its way will not be taken, a word kept for it is given up. -/
def State.closeReply (s : State) : State :=
  let s := s.letGo s.iss.core s.iss.ctx
  let r := s.me.reply
  let s := match r.asked with | some (3, t) => (if r.refill then s.returnRefill t else s) | _ => s
  s.modMe fun k => { k with reply := Replies.none, late := k.late ++ r.open }

/-- The bundle has issued (R102): the next address, the loops that end there, the counts of R313. -/
def State.commit (s : State) : State :=
  let s := s.closeReply
  let fw := s.isFirmware s.iss.core s.iss.ctx && s.iss.ctx == 3
  let before := s.me.loops
  let s' := s.modMe fun k =>
    let k := { k with readyAt := Nat.max k.readyAt (s.cycle + 1), bundle := k.bundle + 1, feWait := [], blocked := false,
                      shadowWait := none, busy := k.busy.filter fun b => decide (s.cycle < b.ready) }
    match s.iss.target with
    | some t => { k with pc := t }
    | none => ({ k with pc := k.pc + 16 }).endBodies k.pc k.loops.length
  let s' := s'.modMyCore fun k =>
    if fw then { k with sinceFw := 0 } else { k with sinceFw := k.sinceFw + 1, lastTask := s.iss.ctx }
  let s' := (if s'.me.loops = before then s' else s'.noteMask).flushNotes
  let s' := match s.iss.wrsr with
    | some (n, v) => s'.writeSr s.iss.core s.iss.ctx n.toNat v
    | none => s'
  s'.withStatus .ok

/-- The end of a bundle whose slots all pass: an ERET reads the record as the bundle leaves it (R322). -/
def State.finish (s0 acc : State) : State :=
  if acc.iss.eret then
    (if acc.resumeAddr.toNat % 16 ≠ 0 then s0.trapAt 0 .pcAlign acc.resumeAddr else acc.leaveHandler.commit)
  else acc.commit

/-- The bundle waits: the requests of the waiting slots are made, and nothing else takes effect. -/
def waitFor (ex : Instr → State → Out) (t : Status) : List (Nat × Instr) → State → Out
  | [], s => .next (s.withStatus t)
  | (k, i) :: r, s =>
    match ex i (s.atSlot k) with
    | .next a => waitFor ex t r (if a.iss.status = .held ∨ a.iss.status = .blocked then a else s)
    | o => o

/-- Steps 4 and 5 and the effects, slot by slot: a trap or a hold ends the examination, a block lets later slots raise theirs. -/
def runSlots (ex : Instr → State → Out) (s0 : State) : List (Nat × Instr) → State → List (Nat × Instr) → Out
  | [], acc, [] => .next (s0.finish acc)
  | [], _, w :: ws => waitFor ex .blocked (w :: ws) s0
  | (k, i) :: r, acc, ws =>
    match ex i (acc.atSlot k) with
    | .next a =>
      match a.iss.status, a.iss.trap with
      | .ok, _ => runSlots ex s0 r a ws
      | .trapped, some t => .next (s0.takeAt t)
      | .trapped, none => .next (s0.withStatus .trapped)
      | .held, _ => waitFor ex .held [(k, i)] s0
      | .stalled, _ => .next (s0.withStatus .stalled)
      | .blocked, _ => runSlots ex s0 r acc (ws ++ [(k, i)])
    | o => o

/-- The scope of a bundle's accesses: its header's, or core (R94). -/
def headerScope : List (Nat × Instr) → BitVec 3
  | (_, .hdr _ _ _ _ scope _ _) :: _ => scope
  | _ => 1

/-- Slot 3 of the bundle makes an access to the local store (R102). -/
def State.isFollowed (s : State) (is : List (Nat × Instr)) : Bool :=
  is.any fun e => e.1 == 3 && s.opP e.2.guard && e.2.accessesLs

/-- What the header says of a bundle's accesses, and whether one to the local store follows in slot 3. -/
def State.withScope (s : State) (is : List (Nat × Instr)) : State :=
  { s with iss := { s.iss with scope := headerScope is, followed := s.isFollowed is } }

/-- A bundle after it has been decoded: checks 2 and 3 of R104, then its slots. BUNDLE_CONFLICT and STALL_SHORT are reported at slot 0
(log entry 85). -/
def runBundle (ex : Instr → State → Out) (s : State) (is : List (Nat × Instr)) : Out :=
  if hasDup (destsOf is) then .next (s.trapAt 0 .bundleConflict 0)
  else match s.score is with
  | .short => .next (s.trapAt 0 .stallShort 0)
  | .wait n => .next ((s.modMe fun k => { k with readyAt := n }).withStatus .stalled)
  | .block => .next (s.withStatus .blocked)
  | .pass => let s := s.withScope is; runSlots ex s is s []

/-- The bundle at an address that translates (R90). -/
def State.bundleAt (s : State) (pa : Nat) : BitVec 128 := BitVec.ofNat 128 (s.readNat pa 16)

/-- Number the slots of a bundle. -/
def slotted (is : List Instr) : List (Nat × Instr) := (List.range is.length).zip is

/-- Fetch, decode and run the next bundle of the latched context. -/
noncomputable def runNext (ex : Instr → State → Out) (s : State) : Out :=
  let pc := s.me.pc
  if pc.toNat % 16 ≠ 0 then .next (s.trapAt 0 .pcAlign pc)
  else match s.translate s.iss.core s.iss.ctx .fetch pc.toNat with
  | .error e => .next (s.trapAt 0 e pc)
  | .ok (t, f) =>
    let s := s.modMyCore fun k => k.keepFrame f
    match decodeBundle (s.bundleAt t.pa) with
    | .error (k, _) => .next (s.trapAt k .illegalOp 0)
    | .ok is => runBundle ex s (slotted is)

/-- Issue of a context stops for a stop request (R324, R325); its held bundle issues again on resumption, and a slot that it acquires for a
lease is free (R269). -/
def State.stopIssue (s : State) : State :=
  (((s.forgetReply s.iss.core s.iss.ctx).modMe fun k =>
    { k with stop := { k.stop with issued := true }, leases := k.leases.filter fun l => l.state != .acquiring }).modMyCore fun k =>
    k.cutCopies s.iss.ctx)

/-- The context has reached the boundary at which a stop request stops it: no loop drains, or the draining one is at its head. -/
def Ctx.atStop (x : Ctx) : Bool := x.stop.asked && (x.stop.atHead || !x.loops.any (·.drain))

/-- The context waits in LEASE for a line (R269). -/
def Ctx.acquires (x : Ctx) (line : Nat) : Bool := x.leases.any fun l => l.line == line && l.state == .acquiring

/-- A waiting bundle has met the line that it asked for: forwards of the line need not wait for it any longer (R262). A LEASE meets its
line when it holds it (R269). An access of slot 2 that is held at step 4 has yet to be performed, and keeps its line; a bundle that another
condition blocks has not issued, and no access of it is pending. -/
def State.metLine (s before : State) (c x : Nat) : State :=
  match (if s.iss.status = .blocked ∨ (s.iss.status = .held ∧ s.iss.slot ≠ 2) then (before.ctx c x).reply.line else none) with
  | none => s
  | some l =>
    if (match before.l1 c l with | none => true | some k => k.stable) = true ∧ (s.ctx c x).reply.line = some l ∧
        (s.ctx c x).acquires l = false then
      (match s.l1 c l with
        | some k => if k.stable then s.modCtx c x fun y => { y with reply := { y.reply with line := none } } else s
        | none => s.modCtx c x fun y => { y with reply := { y.reply with line := none } })
    else s

/-- A bundle that does not issue though its access through a REMOTE window has passed its checks gives up the word that is kept for it, and asks
again. -/
def State.giveWord (s : State) (c x : Nat) : State :=
  match s.iss.status with
  | .blocked => s.letGo c x
  | .held => s.letGo c x
  | _ => s

/-- The status of a bundle that waits, at step 4 or at step 5 of R104: its context is blocked (R86, R161, R180). -/
def Status.waits : Status → Bool
  | .held => true
  | .blocked => true
  | _ => false

/-- Examine the next bundle of a context once; the status says what came of it. A context that is to stop does so at the boundary that it
has reached, or at that of its blocked bundle (R324). -/
noncomputable def attempt (ex : Instr → State → Out) (c x : Nat) (s : State) : Out :=
  let s := s.latch c x
  if s.me.atStop then .next (s.stopIssue.withStatus .stalled)
  else if s.me.takesPending then
    (match ex (.trapTake c x) s with
      | .next a => .next (a.withStatus .trapped)
      | o => o)
  else match runNext ex s with
  | .next a =>
    let a := (a.metLine s c x).giveWord c x
    if a.me.stop.asked && a.iss.status.waits then .next a.stopIssue else .next a
  | o => o

/-! ### The choice of a context (R313) -/

/-- The context may be examined now: it runs, it is not stopped, its stall count has elapsed or a trap waits to be taken. -/
def Ctx.ready (x : Ctx) (cycle : Nat) : Bool :=
  x.run == .running && !x.stop.issued && (decide (x.readyAt ≤ cycle) || x.takesPending || x.atStop)

/-- The context has yielded, and another one of its core is ready (R126). -/
def State.givesWay (s : State) (c x : Nat) : Bool :=
  (s.ctx c x).yielded && [0, 1, 2, 3].any fun y => y != x && (s.ctx c y).ready s.cycle && !(s.ctx c y).blocked

/-- The order in which contexts are tried; one that gives way is not. -/
def State.issueOrder (s : State) (c : Nat) : List Nat :=
  let k := s.core c
  let fw := s.isFirmware c 3
  let tasks := ((List.range 4).map fun i => (k.lastTask + 1 + i) % 4).filter fun x => !(fw && x == 3)
  let all := if fw then (if s.fwShare.toNat ≤ k.sinceFw + 1 then 3 :: tasks else tasks ++ [3]) else tasks
  all.filter fun x => !s.givesWay c x

/-- Note whether the next bundle of a context is blocked. -/
def State.setBlocked (s : State) (c x : Nat) (b : Bool) : State := s.modCtx c x fun k => { k with blocked := b && !k.stop.issued }

/-- Try contexts in order until one issues a bundle or takes a trap. In the cycle in which a block is detected no bundle issues; from the
next cycle on, others do while it lasts (R86). -/
noncomputable def tryAll (ex : Instr → State → Out) (c : Nat) : List Nat → State → Out
  | [], s => .next s
  | x :: r, s =>
    if (s.ctx c x).ready s.cycle then
      (match attempt ex c x s with
        | .next a => match a.iss.status with
          | .ok => .next a
          | .trapped => .next a
          | .stalled => tryAll ex c r (a.setBlocked c x false)
          | .held => if (s.ctx c x).blocked then tryAll ex c r (a.setBlocked c x true) else .next (a.setBlocked c x true)
          | .blocked => if (s.ctx c x).blocked then tryAll ex c r (a.setBlocked c x true) else .next (a.setBlocked c x true)
        | o => o)
    else tryAll ex c r s

/-- One issue cycle of a core; none during a freeze or while the core is gated (R87, R339). -/
noncomputable def issueCycle (ex : Instr → State → Out) (c : Nat) (s : State) : Out :=
  if (s.core c).frozen.isSome ∨ (s.core c).gated then .next s
  else
    let order := s.issueOrder c
    tryAll ex c order ([0, 1, 2, 3].foldl (fun s x => if (s.ctx c x).yielded then s.modCtx c x fun k => { k with yielded := false } else s) s)

end Sys2Proof.Machine
end

