-- ==== Sys2Proof/Machine/Step.lean ====
section
/-! DEFINITION. One step of the package: a turn of a core, or the next event of the agenda; what a turn brings about; fetching a given word
next.

A step that takes no event examines one core (R85, R313) and then sees which events of that core are due; after the last core a cycle has
passed.  Events that other agents cause stand in the agenda from outside: doorbells, admin commands, links, resets, requests of hosts and
peers (log entries 8 and 78). -/

namespace Sys2Proof.Machine

/-! ### Events that are due at a core -/

/-- An event when a condition holds. -/
def dueIf (b : Bool) (e : Instr) : List Instr := if b then [e] else []

/-- Events of a context: its stall count, its end, its drops, its leases, its markers, its full/empty wait. -/
def State.dueCtx (s : State) (c x : Nat) : List Instr :=
  let k := s.ctx c x
  dueIf (decide (0 < k.readyAt ∧ k.readyAt ≤ s.cycle)) (.stallCountElapse c x) ++
  dueIf (k.run == .ending) (.taskEnd c x) ++
  dueIf (k.drops.any fun d => !d.left) (.dropRelease c x) ++
  dueIf (k.leases.any fun l => l.state == .acquiring) (.leaseAcquired c x) ++
  ((List.range k.leases.length).filterMap fun i => match k.leases[i]? with
    | some l => if l.live && decide (l.until_ ≤ s.cycle) then some (.leaseExpire c x i) else none
    | none => none) ++
  dueIf (k.stop.issued && !k.stop.matrix) (.quiesceMarkerReturn c x 0) ++
  dueIf (k.stop.issued && !k.stop.vector) (.quiesceMarkerReturn c x 1) ++
  dueIf (k.stop.issued && !k.stop.copy) (.quiesceMarkerReturn c x 2) ++
  dueIf (k.feWait.any fun w => decide (w.since + Config.watchdog ≤ s.cycle)) (.feTimeoutScalar c x)

/-- Events of a saved task, which stands at a place of the list of saved tasks. -/
def State.dueSaved (s : State) (c i : Nat) (v : Saved) : List Instr :=
  dueIf v.discarded (.taskEnd c (4 + i)) ++ dueIf (((s.core c).dropsOf v).any fun d => !d.left) (.dropRelease c (4 + i))

/-- A command waits in the queue of an engine. -/
def Core.waits (k : Core) (e : Engine) : Bool := k.cmds.any fun m => m.engine == some e && !m.running && !m.wasCut

def Core.runs (k : Core) (e : Engine) : Bool := k.cmds.any fun m => m.engine == some e && m.running

/-- Events of the matrix engine. -/
def State.dueMatrix (s : State) (c : Nat) : List Instr :=
  let k := s.core c
  (match k.matrixCmd with
    | none => dueIf (k.waits .matrix) (.matrixCommandTake c)
    | some m =>
      dueIf (match m.op with | .gmma g => !g.entered | _ => false) (.matrixCommandTake c) ++
      dueIf (!m.fetched) (.tileFetchBlockArrival c) ++ dueIf m.fetched (.matrixBlockComplete c)) ++
  dueIf (match s.gathering c with | some (_, g) => decide (g.takenAt + g.timeout ≤ s.cycle) | none => false) (.gmmaAgreementTimeout c) ++
  dueIf (match k.frozen with | some t => decide (t + Config.watchdog ≤ s.cycle) | none => false) (.freezeTimeout c)

/-- Events of one command: of the copy engine, or an update. -/
def Cmd.due (m : Cmd) (c : Nat) : List Instr :=
  match m.op with
  | .copy q =>
    if !m.running then []
    else
      dueIf (decide (q.started < q.len ∧ q.inFlight.length < 2)) (.copyChunkStart c m.serial) ++
      (match q.inFlight with
        | [] => []
        | p :: _ => dueIf (!p.sent && (!p.src.isFar || p.got.isSome)) (.copyChunkComplete c (ownNo m.serial) []))
  | .move _ _ _ _ migr dest =>
    if dest.isNone then [] else if migr && !m.fetched then [.migrArrival c m.serial] else [.tmoveStorageSwitch c m.serial]
  | .seal .. => dueIf m.running (.tsealRegionComplete c m.serial)
  | .update _ _ cp read _ =>
    if m.engine.isSome && !m.running then []
    else if cp.isSome && !read then dueIf (!m.fetched) (.updateCopyComplete c m.serial [])
    else [.updateWriteComplete c m.serial]
  | _ => []

/-- Events of the engines of a core. -/
def State.dueEngines (s : State) (c : Nat) : List Instr :=
  let k := s.core c
  s.dueMatrix c ++
  dueIf (k.waits .vector && !k.runs .vector) (.vectorCommandStart c) ++ dueIf (k.runs .vector) (.vectorCommandComplete c) ++
  dueIf (k.waits .sfu && !k.runs .sfu) (.sfuCommandStart c) ++ dueIf (k.runs .sfu) (.sfuCommandComplete c) ++
  dueIf (k.waits .copy) (.copyCommandStart c) ++ (k.cmds.flatMap fun m => m.due c) ++
  k.cmds.flatMap fun m => dueIf (match m.feWait with | some (t, _) => decide (t + Config.watchdog ≤ s.cycle) | none => false)
    (.feTimeoutEngine c m.serial)

/-- Events of the trace unit and of the power controller: a core that has held no task for 1 ms is gated (R339). -/
def State.dueOther (s : State) (c : Nat) : List Instr :=
  let k := s.core c
  dueIf (k.traceState == .armed && k.trace.any fun e => e.2.trigger == 3 && decide (e.2.arg.toNat ≤ s.timeDom.toNat)) (.traceTrigger c) ++
  dueIf (k.traceState == .counting 0) (.traceBufferFreeze c) ++
  dueIf (!k.gated && (match k.idleSince with | some t => decide (t + 1000000 ≤ s.timeDom.toNat) | none => false) && s.mayGate c) (.corePowerGate c)

/-- Every event that is due at a core. -/
def State.dueCore (s : State) (c : Nat) : List Instr :=
  ([0, 1, 2, 3].flatMap fun x => s.dueCtx c x) ++
  (((List.range (s.core c).saved.length).zip (s.core c).saved).flatMap fun e => s.dueSaved c e.1 e.2) ++
  s.dueEngines c ++ s.dueOther c

/-! ### Events that are due at the package -/

/-- The first run of old storage that nothing reads any more. -/
def State.dueBlocks (s : State) : List Instr :=
  match s.oldBlocks.findIdx? fun r => !s.storageInUse r with | none => [] | some i => [.oldBlocksReturn i]

/-- The next packet to read (R308); a dispatch decision (R304); the next admin command (R332); time-sync flits each 65,536 ns (R293). -/
def State.duePackage (s : State) (before : Nat) : List Instr :=
  s.dueBlocks ++
  (s.nextSlot.toList.map .launchPacketRead) ++
  dueIf (s.launches.any fun l => l.state == .pending) .dispatch ++ s.nextCommand.toList ++
  (if before / 65536 = s.timeDom.toNat / 65536 then []
    else (s.links.filter fun e => e.2.trained).map fun e => .timeSyncSend e.1)

/-- Events whose cycle the spec gives: a count runs out, a timeout or a lease ends, a trace event falls. -/
def hasCycle : Instr → Bool
  | .stallCountElapse .. => true
  | .feTimeoutScalar .. => true
  | .feTimeoutEngine .. => true
  | .freezeTimeout .. => true
  | .gmmaAgreementTimeout .. => true
  | .leaseExpire .. => true
  | .traceTrigger .. => true
  | .traceBufferFreeze .. => true
  | .timeSyncSend .. => true
  | _ => false

/-- Post events that do not stand in the agenda yet. How long an engine, a message or another agent takes is not given: whether an
event that is due, and whose cycle the spec does not give, comes now or at a later turn is a free value. -/
def State.postNew (s : State) (es : List Instr) : State :=
  let new := es.filter fun e => !s.agenda.contains e
  let now := ((List.range new.length).zip new).filter fun e => hasCycle e.2 || Config.freeBool (s.freeUse + e.1)
  { s.post (now.map (·.2)) with freeUse := s.freeUse + new.length }

/-! ### A turn -/

/-- Since when the core holds no task. -/
def State.markIdle (s : State) (c : Nat) : State :=
  s.modCore c fun k => { k with idleSince := if k.holdsTask then none else k.idleSince.or (some s.timeDom.toNat) }

/-- A command's wait for a full granule ends when it fills (R77). -/
def Core.dropFullWaits (k : Core) : Core :=
  { k with cmds := k.cmds.map fun m => { m with feWait := m.feWait.filter fun w => !k.isFull (16 * w.2) } }

/-- What a core does before its turn, unless it is frozen: the floating-point flags whose cycle has come are set (R149), waits for full or empty
granules that are over end (R77, R159), task starts that waited are carried out (R89). -/
def State.beginTurn (s : State) (c : Nat) : State :=
  if (s.core c).frozen.isSome then s
  else
    (s.modCore c fun k => [0, 1, 2, 3].foldl (fun k x => if (k.ctx x).feWait = [] then k else k.dropWaits x)
      { k.dropFullWaits with ctxs := k.ctxs.map fun e => (e.1, e.2.setFlags s.cycle) }).lateStarts c

/-- The line of a unit is not read from DRAM: an L1 holds it, or the home of a word keeps it. -/
def State.heldAway (s : State) (unit : Nat) : Bool := s.cores.any (fun e => e.2.l1.any fun l => l.1 == unit / 4) || s.keptLine (unit / 4)

/-- Physical address of a shadow's bytes in the pool of its die (R273). -/
def Shadow.pa (h : Shadow) : Nat := mkPa 1 (lineDie h.line) (17152 + h.slot / 16128) (h.slot % 16128 * 128)

/-- The unit lies in the pool: the bytes that a shadow holds there are marked, which REJECT will write back (R32, R273). -/
def State.shadowFails (s : State) (unit : Nat) : State :=
  { s with shadows := s.shadows.map fun h => if h.pa / 128 = unit / 4 then { h with poison := h.poison.set (unit % 4) true } else h }

/-- The check bits of a unit of DRAM fail as it is read (R32): a single-bit error is corrected and counted, another is counted and marks the unit, or what
a shadow slot there holds. -/
def State.dramFails (s : State) (unit : Nat) (uncorrectable : Bool) : State :=
  let pa := unit * 32
  if paExists pa && decide (paTier pa < 2) && !s.heldAway unit then
    let k := 2 * (4 * paTier pa + paDie pa) + if uncorrectable then 1 else 0
    let s := { s with ecc := s.ecc.set 0 k (s.ecc.get 0 k + 1) }
    if uncorrectable then (if isShadowPool pa then s.shadowFails unit else s.setPoison unit true) else s
  else s

/-- A cycle has passed in every core: time goes on, the links' slots, the homes' refills, an error of DRAM. -/
def State.cycleEnd (s : State) : State :=
  let t := s.timeDom.toNat
  let s := ((s.elapse 1).linkCycle).returnSpare
  let s := s.homeWait.foldl (fun s e => s.askRefills (s.homeRefills e)) s
  let s := match Config.dramError s.freeUse with | none => s | some (u, b) => s.dramFails u b
  { s with freeUse := s.freeUse + 1, heard := [] }.postNew (s.duePackage t)

/-- After the turn of a core: probes that no longer wait are served, the events that are due are posted, the next core is next. -/
def State.afterTurn (s : State) (c : Nat) : State :=
  let s := (s.serveProbes c).markIdle c
  let s := { s.postNew (s.dueCore c) with eventNext := true, turn := (c + 1) % 256 }
  if c + 1 < 256 then s else s.cycleEnd

/-- The turn of a core (R85). -/
noncomputable def coreTurn (s : State) : Out :=
  match issueCycle exec s.turn (s.beginTurn s.turn) with
  | .next a => .next (a.afterTurn s.turn)
  | .fault f => .fault f
  | .refused r => .refused r

/-- The first message that waits at its home, can be carried out, and has no earlier one of its lines before it (R263); with those that wait
besides. -/
def State.homeNext (s : State) : List Instr → List Instr → Option (Instr × List Instr)
  | _, [] => none
  | before, e :: r =>
    let mine := s.waitLines e
    if s.homeReady e && !(before.any fun b => (s.homeLines b).any mine.contains) then some (e, before ++ r) else s.homeNext (before ++ [e]) r

/-- Carry out a message that has waited at its home. -/
noncomputable def serveHome (e : Instr) (rest : List Instr) (s : State) : Out :=
  match exec e { s with homeWait := rest, homeServes := true, eventNext := false } with
  | .next a => .next { a with homeServes := false }
  | .fault f => .fault f
  | .refused r => .refused r

/-- The event of a step: a message that has waited at its home, else the next of the agenda. -/
noncomputable def eventStep (s : State) : Out :=
  match s.homeNext [] s.homeWait with
  | some (e, rest) => serveHome e rest s
  | none => match s.agenda with
    | e :: r => exec e { s with agenda := r, eventNext := false }
    | [] => coreTurn s

/-- One step: a turn of a core and an event alternate while there are events. -/
noncomputable def step (s : State) : Host.Outcome State Fault Refusal := if s.eventNext then eventStep s else coreTurn s

/-! ### Running a given instruction next -/

/-- The firmware context of a core, about to fetch its next bundle at virtual address 0 of asid 0x000. -/
def Ctx.toFetch (x : Ctx) : Ctx :=
  { x with
    pc := 0, run := .running, task := none, asid := 0, pending := [], readyAt := 0, yielded := false, busy := [], loads := [], remote := []
    rposts := [], reply := Replies.none, late := [], refills := [], shadowWait := none, stop := Stop.none, feWait := [], blocked := false
    lateFlags := [] }

/-- The bytes of a bundle that holds a word in one slot and NOPs in the others. -/
def bundleBytes (slot w : Nat) : List Byte := toBytes 16 (w % 2 ^ 32 * 2 ^ (32 * slot))

/-- Code frame 0 of near memory of a die. -/
def codeFrame (die : Nat) : Slot := ⟨.code, 1, die, 0⟩

/-- A state whose next step fetches and runs a word: by the firmware context of the core that is next, from a code frame of its die
(log entry 14). -/
noncomputable def State.withFetchWord (s : State) (_nbits w : Nat) : State :=
  let c := s.turn
  let d := dieOf c
  let s := s.writeBytes (mkPa 1 d 0 0) (bundleBytes (tableSlot (BitVec.ofNat 32 w)) w)
  let s := { s with
    fwEn := true, eventNext := false
    spans := s.spans.put (4096 * d) ⟨true, .localWin, 0, 0, [(0, codeFrame d)]⟩ }
  s.modCore c fun k => { k.modCtx 3 Ctx.toFetch with
    fwOld := none, sinceFw := 127, frozen := none, gated := false
    cmds := k.cmds.filter fun m => m.ctx != 3
    frames := k.frames.filter fun f => !(f.asid == 0 && f.span == 0 && f.slot == 0) }

end Sys2Proof.Machine
end

