-- ==== Sys2Proof/Safety.lean ====
section
/-! DEFINITION. What the statements speak of: frames (what an instruction leaves unchanged), where an access finds its bytes, when a
form issues, and reference values in plain arithmetic that the statements compare the machine's results with. -/

namespace Sys2Proof

/-! ### Classes of instructions -/

/-- The forms that compute from registers into one register, and never trap, hold or block (R139 to R153, R135). -/
def Instr.isRegisterForm : Instr → Bool
  | .timeDom .. | .timeCyc .. | .add .. | .addW .. | .sub .. | .subW .. | .mul .. | .mulW .. | .mulh .. | .mulhu .. | .div ..
  | .divW .. | .divu .. | .divuW .. | .rem .. | .remW .. | .remu .. | .remuW .. | .and .. | .or .. | .xor .. | .shl ..
  | .shlW .. | .shr .. | .shrW .. | .sra .. | .sraW .. | .rotr .. | .rotrW .. | .clz .. | .ctz .. | .popc .. | .min ..
  | .max .. | .minu .. | .maxu .. | .sextB .. | .sextH .. | .sextW .. | .zextB .. | .zextH .. | .zextW .. | .sel .. | .cmpEq ..
  | .cmpNe .. | .cmpLt .. | .cmpLe .. | .cmpLtu .. | .cmpLeu .. | .addi .. | .addiW .. | .andi .. | .ori .. | .xori ..
  | .shli .. | .shliW .. | .shri .. | .shriW .. | .srai .. | .sraiW .. | .cmpiEq .. | .cmpiNe .. | .cmpiLt .. | .cmpiLe ..
  | .cmpiLtu .. | .cmpiLeu .. | .cmpiGt .. | .cmpiGe .. | .cmpiGtu .. | .cmpiGeu .. | .movi .. | .movhi .. | .pand .. | .por ..
  | .pnot .. | .pxor .. | .xab .. | .xba .. | .xbaH .. | .fadd .. | .fsub .. | .fmul .. | .ffma .. | .fdiv .. | .fsqrt ..
  | .fmin .. | .fmax .. | .fcmpEq .. | .fcmpLt .. | .fcmpLe .. | .fcmpUn .. | .fcmpNe .. | .fcvtF32S64 .. | .fcvtF32Z64 ..
  | .fcvtS64F32 .. | .fcvtZ64F32 .. | .fcvtF32Bf16 .. | .fcvtBf16F32 .. | .fcvtF32F16 .. | .fcvtF16F32 .. => true
  | _ => false

/-- The forms that OR into SR_FFLAGS (R149). -/
def Instr.isFloatForm : Instr → Bool
  | .fadd .. | .fsub .. | .fmul .. | .ffma .. | .fdiv .. | .fsqrt .. | .fmin .. | .fmax .. | .fcmpEq .. | .fcmpLt ..
  | .fcmpLe .. | .fcmpUn .. | .fcmpNe .. | .fcvtF32S64 .. | .fcvtF32Z64 .. | .fcvtS64F32 .. | .fcvtZ64F32 .. | .fcvtF32Bf16 ..
  | .fcvtBf16F32 .. | .fcvtF32F16 .. | .fcvtF16F32 .. => true
  | _ => false

/-- The forms that may write memory: stores, atomics and combining adds, the handle words (KVFIND splits one), an element of a tile in place, the end
of a snapshot, and the privileged forms and LAUNCH, which write or take back lines of it. -/
def Instr.storesMemory : Instr → Bool
  | .stmD .. | .stmW .. | .stmH .. | .stmB .. | .stmXD .. | .stmXW .. | .stmXH .. | .stmXB .. | .atomAdd .. | .atomAddW ..
  | .atomAnd .. | .atomAndW .. | .atomOr .. | .atomOrW .. | .atomXor .. | .atomXorW .. | .atomMin .. | .atomMinW .. | .atomMax ..
  | .kvfind .. | .tset .. | .atomMaxW .. | .atomMinu .. | .atomMinuW .. | .atomMaxu .. | .atomMaxuW .. | .atomSwap .. | .atomSwapW .. | .atomCas ..
  | .atomCasW .. | .caddD .. | .caddW .. | .ldh .. | .ldhd .. | .sth .. | .accept .. | .reject .. | .spload .. | .spinv ..
  | .ctxsave .. | .ctxload .. | .launch .. => true
  | _ => false

end Sys2Proof

namespace Sys2Proof.Safety

open Sys2Proof.Machine

/-! ### Frames -/

/-- Nothing changes outside the context in issue: no other state of the package, no other core, no other context of the core, nothing
of the core but its contexts, no byte of memory. -/
structure OnlyMe (z t : State) : Prop where
  rest : t = { z with cores := t.cores }
  cores : ∀ c, c ≠ z.iss.core → t.core c = z.core c
  core : t.core z.iss.core = { z.core z.iss.core with ctxs := (t.core z.iss.core).ctxs }
  ctxs : ∀ x, x ≠ z.iss.ctx → t.ctx z.iss.core x = z.ctx z.iss.core x
  memory : ∀ a, t.byte a = z.byte a

/-- Every register but those listed holds what it held: a and b registers, handle registers, predicates and counting flags. -/
structure RegsBut (ds : List Reg) (x y : Ctx) : Prop where
  a : ∀ n, Reg.a n ∉ ds → y.regs.a.get 0 n = x.regs.a.get 0 n
  b : ∀ n, Reg.b n ∉ ds → y.regs.b.get 0 n = x.regs.b.get 0 n
  h : ∀ n, Reg.h n ∉ ds → y.regs.h.look n = x.regs.h.look n
  p : ∀ n, Reg.p n ∉ ds → y.regs.p.get false n = x.regs.p.get false n
  q : ∀ n, Reg.q n ∉ ds → y.regs.q.get 0 n = x.regs.q.get 0 n

/-- An instruction writes the registers of `ds` and, where `flags` is set, leaves flags that SR_FFLAGS takes in a later cycle (R149); the cycles
from which results are readable follow the registers written; nothing else of the machine changes. -/
structure WritesOnly (ds : List Reg) (flags : Bool) (z t : State) : Prop where
  only : OnlyMe z t
  regs : RegsBut ds z.me t.me
  busy : ∀ b ∈ t.me.busy, b ∈ z.me.busy ∨ b.reg ∈ ds
  fflags : ∃ fs, t.me.lateFlags = z.me.lateFlags ++ fs ∧ (flags = false → fs = []) ∧ fs.length ≤ 1
  context : t.me = { z.me with regs := t.me.regs, busy := t.me.busy, lateFlags := t.me.lateFlags }

/-! ### Reference values -/

/-- Target of BR and CALL (R114): within the 16 MiB block of the bundle, in numbers. -/
def target (pc : Word) (off : BitVec 20) : Word :=
  BitVec.ofNat 64 (pc.toNat / 2 ^ 24 * 2 ^ 24 + (pc.toNat / 16 + off.toNat) % 2 ^ 20 * 16)

/-- A .w result (R139): 32 bits, sign-extended. -/
def word32 (v : Int) : Word := (BitVec.ofInt 32 v).signExtend 64

/-- The low 32 bits of an operand as a signed and as an unsigned number. -/
def low (x : Word) : Int := (x.setWidth 32).toInt
def lowU (x : Word) : Nat := x.toNat % 2 ^ 32

/-- Quotient and remainder of R142 in exact numbers, with its cases for a divisor of 0. -/
def quotient (x y : Int) : Int := if y = 0 then -1 else x.tdiv y
def remainder (x y : Int) : Int := if y = 0 then x else x.tmod y

/-! ### Bit patterns of FP32 -/

/-- NaN, signalling NaN, finite, zero: sign [31], exponent [30:23], fraction [22:0] (R24). -/
def nan32 (w : BitVec 32) : Bool := w.extractLsb' 23 8 == 255 && w.extractLsb' 0 23 != 0
def signalling32 (w : BitVec 32) : Bool := nan32 w && !w.getLsbD 22
def finite32 (w : BitVec 32) : Bool := w.extractLsb' 23 8 != 255
def zero32 (w : BitVec 32) : Bool := w.extractLsb' 0 31 == 0

/-! ### Transfers and loops -/

/-- The bundle in issue goes on at an address, and the trace records the transfer (R90, R338). -/
def goes (z : State) (t : Word) : State := ({ z with iss := { z.iss with target := some t } }).note 0 t

/-- The loop stack that the bundle in issue leaves and where it goes on. -/
def looped (z : State) (loops : List LoopRec) (t : Word) : State :=
  ({ z.modMe (fun k => { k with loops := loops }) with iss := { z.iss with target := some t } }).noteMask

/-! ### Waits (R104, R278) -/

/-- The bundle waits: at step 5 of R104, or at step 4. -/
def blocked (z : State) : State := { z with iss := { z.iss with status := .blocked } }
def held (z : State) : State := { z with iss := { z.iss with status := .held } }

/-- No earlier acquire of the context is outstanding: an access that loads may be performed (R278, R279). -/
def Ordered (z : State) : Prop := z.iss.acquiring = false

/-- No earlier acquire is outstanding, and no access at all where the scope of the bundle makes its stores releases. -/
def Released (z : State) : Prop := z.iss.acquiring = false ∧ (z.iss.scope ≠ 0 → z.iss.accessing = false)

/-! ### The local store (R157 to R159) -/

/-- Byte of the local store that a window offset names. -/
def lsPlace (z : State) (ea : Word) : Nat := z.me.winBase + ea.toNat

/-- An access of `size` bytes at a window offset is aligned and inside the window. -/
def inWindow (z : State) (ea : Word) (size : Nat) : Prop := ea.toNat % size = 0 ∧ ea.toNat + size ≤ z.me.winLen

/-- The value of `size` bytes, lowest address first, as they stood before the bundle (R3, R103). -/
def lsValue (z : State) (o size : Nat) : Nat := ((List.range size).map fun k => (z.iss.ls.get 0 (o + k)).toNat * 256 ^ k).sum

/-- A loaded value: sign-extended or zero-extended to 64 bits (R158). -/
def loaded (signed : Bool) (size v : Nat) : Word :=
  if signed then BitVec.ofInt 64 (signedOf (8 * size) v) else BitVec.ofNat 64 (v % 2 ^ (8 * size))

/-- What the full/empty variants ask of the full bit of the granule before the bundle: nothing, full for a load that waits, empty for
STS.fe (R158). -/
def feAsk (z : State) (o : Nat) (f : Fe) : Prop :=
  match f with
  | .plain => True
  | .fs => True
  | .fw => z.iss.full.get false (o / 16) = true
  | .fc => z.iss.full.get false (o / 16) = true
  | .fe => z.iss.full.get false (o / 16) = false

/-- The bundle waits for a full bit: the wait of its slot keeps the cycle in which it began (R159). -/
def feWaits (z : State) (ea : Word) (f : Fe) : State :=
  blocked (z.modMe fun x => { x with feWait := addWait ⟨z.cycle, z.iss.slot, ea, f != .fe⟩ x.feWait })

/-- How a load of the local store ends in every case: in the order of R157 the alignment, then the window; then it waits for earlier
acquires, for the context's earlier commands (R84) and for the full bit; then it writes B[d], and LDS.fc clears the bit. -/
structure LoadsLs (z : State) (i : Instr) (d : BitVec 5) (ea : Word) (size : Nat) (signed : Bool) (f : Fe) : Prop where
  misaligned : ea.toNat % size ≠ 0 → exec i z = .next (z.trapBundle .misalign ea)
  outside : ea.toNat % size = 0 → z.me.winLen < ea.toNat + size → exec i z = .next (z.trapBundle .spanMiss ea)
  orders : inWindow z ea size → ¬ Ordered z → exec i z = .next (blocked z)
  waits : inWindow z ea size → z.lsWaits (lsPlace z ea) size false = true → exec i z = .next (blocked z)
  asks : inWindow z ea size → Ordered z → z.lsWaits (lsPlace z ea) size false = false → ¬ feAsk z (lsPlace z ea) f →
    exec i z = .next (feWaits z ea f)
  loads : inWindow z ea size → Ordered z → z.lsWaits (lsPlace z ea) size false = false → feAsk z (lsPlace z ea) f →
    exec i z = .next
      (let y := z.wrB d (loaded signed size (lsValue z (lsPlace z ea) size)) 3
       if f = .fc then y.modMyCore fun k => k.setFull (lsPlace z ea) false else y)

/-- A word of the local store holds a handle, before the bundle or by an earlier slot of it. -/
def lsHandle (z : State) (o : Nat) : Bool := z.iss.tags.get false (o / 8) || z.myCore.lsTags.get false (o / 8)

/-- How a store to the local store ends in every case: as a load, but that a word that holds a handle raises HANDLE_CLOBBER (R54). The
full/empty variants set the full bit of the granule. -/
structure StoresLs (z : State) (i : Instr) (d : BitVec 5) (ea : Word) (size : Nat) (f : Fe) : Prop where
  misaligned : ea.toNat % size ≠ 0 → exec i z = .next (z.trapBundle .misalign ea)
  outside : ea.toNat % size = 0 → z.me.winLen < ea.toNat + size → exec i z = .next (z.trapBundle .spanMiss ea)
  clobbers : inWindow z ea size → lsHandle z (lsPlace z ea) = true → exec i z = .next (z.trapBundle .handleClobber ea)
  orders : inWindow z ea size → lsHandle z (lsPlace z ea) = false → ¬ Ordered z → exec i z = .next (blocked z)
  waits : inWindow z ea size → lsHandle z (lsPlace z ea) = false → z.lsWaits (lsPlace z ea) size true = true →
    exec i z = .next (blocked z)
  asks : inWindow z ea size → lsHandle z (lsPlace z ea) = false → Ordered z → z.lsWaits (lsPlace z ea) size true = false →
    ¬ feAsk z (lsPlace z ea) f → exec i z = .next (feWaits z ea f)
  stores : inWindow z ea size → lsHandle z (lsPlace z ea) = false → Ordered z → z.lsWaits (lsPlace z ea) size true = false →
    feAsk z (lsPlace z ea) f →
    exec i z = .next (z.modMyCore fun k =>
      let k' := k.lsWriteBytes (lsPlace z ea) ((List.range size).map fun n => BitVec.ofNat 8 ((z.opB d).toNat / 256 ^ n))
      if f = .plain then k' else k'.setFull (lsPlace z ea) true)

/-! ### Mortar memory (R160 to R169) -/

/-- The core keeps a translation that an access has used (R40). -/
def kept (z : State) (f : FrameEntry) : State := z.modMyCore fun k => k.keepFrame f

/-- The value of `size` bytes of memory, lowest address first (R3). -/
def memValue (z : State) (pa size : Nat) : Nat := ((List.range size).map fun k => (z.byte (pa + k)).toNat * 256 ^ k).sum

/-- An access is aligned and reaches this package's memory, outside the hub control space, at a physical address. -/
structure Reaches (z : State) (acc : Access) (ea : Word) (size pa : Nat) (f : FrameEntry) : Prop where
  aligned : ea.toNat % size = 0
  maps : ∃ x, z.translate z.iss.core z.iss.ctx acc ea.toNat = .ok (x, f) ∧ x.mode = .localWin ∧ x.pa = pa
  plain : isHubSpace pa = false

/-- An access is aligned and goes through a REMOTE window. -/
structure Far (z : State) (acc : Access) (ea : Word) (size : Nat) (x : Xlat) (f : FrameEntry) : Prop where
  aligned : ea.toNat % size = 0
  maps : z.translate z.iss.core z.iss.ctx acc ea.toNat = .ok (x, f)
  far : x.mode ≠ .localWin

/-- No other context of the core leases the line of an address. -/
def Unleased (z : State) (pa : Nat) : Prop := z.leasedByOther z.iss.core z.iss.ctx (lineOf pa) = false

/-- No other context of the core leases the line, and the core's L1 holds it in M, E or S (R258, R270). -/
def readable (z : State) (pa : Nat) : Prop :=
  Unleased z pa ∧ ∃ l, z.l1 z.iss.core (lineOf pa) = some l ∧ (l.state = .M ∨ l.state = .E ∨ l.state = .S)

/-- No other context of the core leases the line, and the core's L1 holds it in M or E (R258, R270). -/
def Owned (z : State) (pa : Nat) : Prop :=
  Unleased z pa ∧ ∃ l, z.l1 z.iss.core (lineOf pa) = some l ∧ (l.state = .M ∨ l.state = .E)

/-- The line is held in M or E and the shadow that a write needs is taken (R161). -/
def mayWrite (z : State) (pa : Nat) : Prop :=
  Unleased z pa ∧ ∃ l, z.l1 z.iss.core (lineOf pa) = some l ∧ (l.state = .M ∨ l.state = .E) ∧
    ∀ e, z.innermost (lineOf pa) = some e → e.2.gen.toNat ≤ l.sg.toNat

/-- How an access waits for its line in M or E (R258, R262, R270): while another context leases it, while it is absent (it is requested once
there is room), shared or buffered (it is requested), or on its way. -/
structure AwaitsLine (z : State) (i : Instr) (f : FrameEntry) (pa : Nat) : Prop where
  leased : z.leasedByOther z.iss.core z.iss.ctx (lineOf pa) = true → exec i z = .next (held (kept z f))
  absent : Unleased z pa → z.l1 z.iss.core (lineOf pa) = none →
    (∀ y, (kept z f).roomFor z.iss.core (lineOf pa) = some y → exec i z = .next (held (y.request z.iss.core (lineOf pa) .M))) ∧
    ((kept z f).roomFor z.iss.core (lineOf pa) = none → exec i z = .next (held (kept z f)))
  shared : Unleased z pa → ∀ l, z.l1 z.iss.core (lineOf pa) = some l → (l.state = .S ∨ l.state = .U) →
    exec i z = .next (held ((kept z f).request z.iss.core (lineOf pa) .M))
  moving : Unleased z pa → ∀ l, z.l1 z.iss.core (lineOf pa) = some l → l.stable = false → exec i z = .next (held (kept z f))

/-- How a write of a line that the L1 holds waits for its shadow (R161, R272): the home is asked once; where its pool is full the write raises
SNAP_FULL. -/
structure AwaitsShadow (z : State) (i : Instr) (f : FrameEntry) (pa : Nat) (ea : Word) : Prop where
  full : ∀ l e, z.l1 z.iss.core (lineOf pa) = some l → z.innermost (lineOf pa) = some e → l.sg.toNat < e.2.gen.toNat →
    z.me.reply.full = some (lineOf pa) → exec i z = .next (z.trapBundle .snapFull ea)
  waits : ∀ l e, z.l1 z.iss.core (lineOf pa) = some l → z.innermost (lineOf pa) = some e → l.sg.toNat < e.2.gen.toNat →
    z.me.reply.full ≠ some (lineOf pa) → z.me.shadowWait = some (lineOf pa) → exec i z = .next (held (kept z f))
  asks : ∀ l e, z.l1 z.iss.core (lineOf pa) = some l → z.innermost (lineOf pa) = some e → l.sg.toNat < e.2.gen.toNat →
    z.me.reply.full ≠ some (lineOf pa) → z.me.shadowWait ≠ some (lineOf pa) →
    exec i z = .next (held (((kept z f).modMe fun x => { x with shadowWait := some (lineOf pa) }).post
      [.shadow ⟨z.iss.core, z.inc z.iss.core⟩ z.iss.ctx (lineOf pa)]))

/-- The context has no question of a bundle outstanding, so its bundle may ask one. -/
def Unasked (z : State) : Prop := z.me.reply.asked = none ∧ z.me.late = []

/-- An access through a REMOTE window as its context remembers it (R289). -/
def farEntry (y : State) (op : RemoteOp) (va : Word) (size : Nat) (signed : Bool) (dst : Option Reg) : RemoteAcc :=
  ⟨op, y.me.pc, va, dst, size, signed, y.me.bundle, (op == .load || op == .atomic || op == .ldh || op == .ldhd) && y.iss.scope != 0, false⟩

/-- A remote access as it is sent and remembered (R289): its number is that of its bundle with its result register. -/
def sent (y : State) (op : RemoteOp) (va : Word) (x : Xlat) (size : Nat) (signed : Bool) (fn : Nat) (dst : Option Reg) (a b : Word) : State :=
  (y.modMe fun k => { k with
    remote := k.remote ++ [farEntry y op va size signed dst], reply := { k.reply with kept := none } }).deliver
    x.peer.toNat (.remoteAccess y.peer.toNat y.iss.core y.iss.ctx (op.code + 16 * size + 256 * fn) x.pa a b y.me.pc
      (64 * y.me.bundle + match dst with | some r => r.num | none => 0) [])

/-- A remote access that the peer denies: it is remembered with its trap, which is deferred (R289, R317). -/
def denied (y : State) (op : RemoteOp) (va : Word) (size : Nat) (signed : Bool) (dst : Option Reg) : State :=
  (y.modMe fun k => { k with remote := k.remote ++ [{ farEntry y op va size signed dst with refused := true }] }).deferred
    y.iss.core y.iss.ctx .remoteDenied y.me.pc va

/-- The peer has answered about the word that the access names (R157). -/
def Answered (z : State) (x : Xlat) (c : Nat) : Prop := z.me.reply.block = x.peer.toNat * 2 ^ 45 + x.pa ∧ z.me.reply.probe = some c

def Unanswered (z : State) (x : Xlat) : Prop := z.me.reply.block = x.peer.toNat * 2 ^ 45 + x.pa → z.me.reply.probe = none

/-- The bundle turns to a word of a peer: what another peer keeps for it is given up. -/
def turnedTo (y : State) (va : Word) (x : Xlat) : State :=
  (match y.me.reply.kept with
    | none => y
    | some k => (y.modMe fun m => { m with reply := { m.reply with kept := none, probe := none } }).deliver (k / 2 ^ 45)
        (.remoteAccess y.peer.toNat y.iss.core y.iss.ctx 11 (k % 2 ^ 45) 0 0 0 0 [])).modMe fun k =>
    { k with reply := { k.reply with block := x.peer.toNat * 2 ^ 45 + x.pa, va := va, probe := none } }

/-- A question to the peer of a REMOTE window: whether an access passes its form's own checks there (R157). -/
def probed (y : State) (op : RemoteOp) (va : Word) (x : Xlat) (size fn : Nat) (a b : Word) : State :=
  ((turnedTo y va x).modMe fun k => { k with reply := { k.reply with asked := some (11, BitVec.ofNat 40 x.pa) } }).deliver x.peer.toNat
    (.remoteAccess y.peer.toNat y.iss.core y.iss.ctx (10 + 16 * size + 256 * (op.code + 16 * fn)) x.pa a b y.me.pc 0 [])

/-- How an access through a REMOTE window ends (R157, R289, R317): the peer is asked and the bundle held; a check of the form that refuses it is a
precise trap; else it waits for its order, `order`, and is sent, or, where the peer denies it, its trap is deferred. -/
structure SendsFar (z : State) (i : Instr) (op : RemoteOp) (ea : Word) (x : Xlat) (f : FrameEntry) (size : Nat) (signed : Bool) (fn : Nat)
    (dst : Option Reg) (a b : Word) (order : Prop) : Prop where
  asks : Unanswered z x → Unasked z → exec i z = .next (held (probed (kept z f) op ea x size fn a b))
  waits : ∀ q, Unanswered z x → z.me.reply.asked = some (11, q) → exec i z = .next (held (turnedTo (kept z f) ea x))
  refused : ∀ c, Answered z x c → c ≠ 0 → refusalCause c ≠ .remoteDenied → exec i z = .next (z.trapBundle (refusalCause c) ea)
  orders : ∀ c, Answered z x c → (c = 0 ∨ refusalCause c = .remoteDenied) → ¬ order → exec i z = .next (blocked (kept z f))
  sends : Answered z x 0 → order → exec i z = .next ((sent (kept z f) op ea x size signed fn dst a b).note 2 ea)
  denies : ∀ c, Answered z x c → c ≠ 0 → refusalCause c = .remoteDenied → order →
    exec i z = .next ((denied (kept z f) op ea size signed dst).note 2 ea)

/-- An access is aligned and names the hub control space of this package (R309). -/
structure NamesHub (z : State) (acc : Access) (ea : Word) (size : Nat) (x : Xlat) (f : FrameEntry) : Prop where
  aligned : ea.toNat % size = 0
  maps : z.translate z.iss.core z.iss.ctx acc ea.toNat = .ok (x, f)
  here : x.mode = .localWin
  hub : isHubSpace x.pa = true

/-- A load that waits for its line, with the register that it will write. -/
def waiting (y : State) (d : BitVec 5) (ea : Word) (pa size : Nat) (signed : Bool) : State :=
  y.modMe fun k => { k with loads := k.loads ++ [⟨.b d.toNat, y.me.pc, ea, some pa, size, signed, y.me.bundle, y.iss.scope != 0, false⟩] }

/-- A load that acquires, whose bundle goes on to the local store in slot 3, which comes after it (R102, R278). -/
def Follows (z : State) : Prop := z.iss.followed = true ∧ z.iss.scope ≠ 0

/-- How a mortar load ends in every case: the alignment and the translation are checked, a poisoned unit raises MEM_UNCORR (R32), earlier acquires are
waited for, a readable line gives its value, an absent one is requested while the load waits (the bundle has issued; where the local store follows the
load it is held until the line has come), one on its way is waited for, one that is leased or given up holds the bundle; a REMOTE window sends the
access; the hub control space is read in words of eight bytes once nothing is outstanding (R309). -/
structure LoadsMortar (z : State) (i : Instr) (d : BitVec 5) (ea : Word) (size : Nat) (signed : Bool) : Prop where
  misaligned : ea.toNat % size ≠ 0 → exec i z = .next (z.trapBundle .misalign ea)
  unmapped : ea.toNat % size = 0 → ∀ c, z.translate z.iss.core z.iss.ctx .load ea.toNat = .error c → exec i z = .next (z.trapBundle c ea)
  poisoned : ∀ pa f, Reaches z .load ea size pa f → z.poisoned pa size = true → exec i z = .next (z.trapBundle .memUncorr ea)
  orders : ∀ pa f, Reaches z .load ea size pa f → z.poisoned pa size = false → ¬ Ordered z → exec i z = .next (blocked (kept z f))
  loads : ∀ pa f, Reaches z .load ea size pa f → Ordered z → z.poisoned pa size = false → readable z pa →
    exec i z = .next (((kept z f).wrB d (loaded signed size (memValue z pa size)) 1).note 2 ea)
  leased : ∀ pa f, Reaches z .load ea size pa f → Ordered z → z.poisoned pa size = false → ¬ Unleased z pa →
    exec i z = .next (held (kept z f))
  misses : ∀ pa f, Reaches z .load ea size pa f → Ordered z → z.poisoned pa size = false → Unleased z pa →
    z.l1 z.iss.core (lineOf pa) = none →
    (∀ y, (kept z f).roomFor z.iss.core (lineOf pa) = some y →
      (¬ Follows z → exec i z = .next (((waiting y d ea pa size signed).request z.iss.core (lineOf pa) .S).note 2 ea)) ∧
      (Follows z → exec i z = .next (held (y.request z.iss.core (lineOf pa) .S)))) ∧
    ((kept z f).roomFor z.iss.core (lineOf pa) = none → exec i z = .next (held (kept z f)))
  moving : ∀ pa f l, Reaches z .load ea size pa f → Ordered z → z.poisoned pa size = false → Unleased z pa →
    z.l1 z.iss.core (lineOf pa) = some l →
    (l.state = .U → ¬ Follows z → exec i z = .next (((waiting (kept z f) d ea pa size signed).request z.iss.core (lineOf pa) .S).note 2 ea)) ∧
    (l.state = .U → Follows z → exec i z = .next (held ((kept z f).request z.iss.core (lineOf pa) .S))) ∧
    (l.state = .ISD ∨ l.state = .IMAD ∨ l.state = .SMA → ¬ Follows z →
      exec i z = .next ((waiting (kept z f) d ea pa size signed).note 2 ea)) ∧
    (l.state = .ISD ∨ l.state = .IMAD ∨ l.state = .SMA → Follows z → exec i z = .next (held (kept z f))) ∧
    (l.state = .IUA ∨ l.state = .MIA ∨ l.state = .SIA ∨ l.state = .IIA → exec i z = .next (held (kept z f)))
  remote : ∀ x f, Far z .load ea size x f → SendsFar z i .load ea x f size signed 0 (some (.b d.toNat)) 0 0 (Ordered z)
  hub : ∀ x f, NamesHub z .load ea size x f →
    (size ≠ 8 → exec i z = .next (z.trapBundle .misalign ea)) ∧
    (size = 8 → (¬ Ordered z ∨ z.me.accessing = true) → exec i z = .next (blocked (kept z f))) ∧
    (size = 8 → Ordered z → z.me.accessing = false →
      exec i z = .next (({ kept z f with freeUse := z.freeUse + 1 }).wrB d (z.hubRead (x.pa % 2 ^ 21)) 1))

/-- How a mortar store ends in every case: as a load, but that it needs the line in M or E with its shadow taken, that a word that holds a handle
raises HANDLE_CLOBBER (R54), that it is a release, and that it turns the line's state to M (R258). -/
structure StoresMortar (z : State) (i : Instr) (d : BitVec 5) (ea : Word) (size : Nat) : Prop where
  misaligned : ea.toNat % size ≠ 0 → exec i z = .next (z.trapBundle .misalign ea)
  unmapped : ea.toNat % size = 0 → ∀ c, z.translate z.iss.core z.iss.ctx .store ea.toNat = .error c → exec i z = .next (z.trapBundle c ea)
  lines : ∀ pa f, Reaches z .store ea size pa f → AwaitsLine z i f pa
  clobbers : ∀ pa f, Reaches z .store ea size pa f → Owned z pa → z.tag pa = true → exec i z = .next (z.trapBundle .handleClobber ea)
  shadows : ∀ pa f, Reaches z .store ea size pa f → Owned z pa → z.tag pa = false → AwaitsShadow z i f pa ea
  orders : ∀ pa f, Reaches z .store ea size pa f → z.tag pa = false → mayWrite z pa → ¬ Released z → exec i z = .next (blocked (kept z f))
  stores : ∀ pa f, Reaches z .store ea size pa f → Released z → z.tag pa = false → mayWrite z pa →
    exec i z = .next ((((kept z f).writeBytes pa
      ((List.range size).map fun n => BitVec.ofNat 8 ((z.opB d).toNat / 256 ^ n))).wrote pa).note 2 ea)
  remote : ∀ x f, Far z .store ea size x f → SendsFar z i .store ea x f size false 0 none (z.opB d) 0 (Released z)
  hub : ∀ x f, NamesHub z .store ea size x f →
    (size ≠ 8 → exec i z = .next (z.trapBundle .misalign ea)) ∧
    (size = 8 → (¬ Released z ∨ z.me.accessing = true) → exec i z = .next (blocked (kept z f))) ∧
    (size = 8 → Released z → z.me.accessing = false → exec i z = .next ((kept z f).hubWrite (x.pa % 2 ^ 21) (z.opB d)))

/-- A byte that shows no memory of its own: of the tile table, which shows the descriptors, or of a pool, which shows the shadows (R273). -/
def ShowsOther (a : Nat) : Prop := isTileTable a = true ∨ isShadowPool a = true

/-- Frame of a store to mortar memory that is done: the bytes stored to, at the address that its operands translate to, are those of B[d] (the
tile table and the pools show what they hold), every other byte reads as before, and so do the context with its registers and every other core. -/
def FramesStore (z : State) (i : Instr) (d : BitVec 5) (ea : Word) (size : Nat) : Prop :=
  ∀ pa f, Reaches z .store ea size pa f → Released z → z.tag pa = false → mayWrite z pa →
    ∃ t, exec i z = .next t ∧ t.me = z.me ∧ (∀ c, c ≠ z.iss.core → t.core c = z.core c) ∧
      (∀ a, a < pa ∨ pa + size ≤ a → t.byte a = z.byte a) ∧
      (∀ n, n < size → ¬ ShowsOther (pa + n) → t.byte (pa + n) = BitVec.ofNat 8 ((z.opB d).toNat / 256 ^ n)) ∧
      (∀ a, t.tag a = z.tag a)

/-- How an atomic ends in every case (R162): once its line is held in M or E, a poisoned unit raises MEM_UNCORR; it returns the old value and
writes the new one with its shadow taken, except a .cas that fails, which writes nothing and meets no handle. `new` takes the old value, the
operand and the comparand, all of `size` bytes. -/
structure Atomic (z : State) (i : Instr) (d : BitVec 5) (ea v c : Word) (size : Nat) (op : Nat) (new : Nat → Nat → Nat → Nat)
    (writes : Nat → Nat → Bool) : Prop where
  misaligned : ea.toNat % size ≠ 0 → exec i z = .next (z.trapBundle .misalign ea)
  unmapped : ea.toNat % size = 0 → ∀ e, z.translate z.iss.core z.iss.ctx .store ea.toNat = .error e → exec i z = .next (z.trapBundle e ea)
  hub : ∀ x f, NamesHub z .store ea size x f → exec i z = .next (z.trapBundle .pageClass ea)
  lines : ∀ pa f, Reaches z .store ea size pa f → AwaitsLine z i f pa
  poisoned : ∀ pa f, Reaches z .store ea size pa f → Owned z pa → z.poisoned pa size = true → exec i z = .next (z.trapBundle .memUncorr ea)
  clobbers : ∀ pa f, Reaches z .store ea size pa f → Owned z pa → z.poisoned pa size = false →
    writes (memValue z pa size) (c.toNat % 2 ^ (8 * size)) = true → z.tag pa = true → exec i z = .next (z.trapBundle .handleClobber ea)
  shadows : ∀ pa f, Reaches z .store ea size pa f → Owned z pa → z.poisoned pa size = false →
    writes (memValue z pa size) (c.toNat % 2 ^ (8 * size)) = true → z.tag pa = false → AwaitsShadow z i f pa ea
  orders : ∀ pa f, Reaches z .store ea size pa f → z.poisoned pa size = false →
    (z.tag pa = false ∧ mayWrite z pa ∨ Owned z pa ∧ writes (memValue z pa size) (c.toNat % 2 ^ (8 * size)) = false) →
    ¬ Released z → exec i z = .next (blocked (kept z f))
  swaps : ∀ pa f, Reaches z .store ea size pa f → Released z → z.tag pa = false → z.poisoned pa size = false → mayWrite z pa →
    let old := memValue z pa size
    writes old (c.toNat % 2 ^ (8 * size)) = true →
    exec i z = .next (((((kept z f).writeNat pa size (new old (v.toNat % 2 ^ (8 * size)) (c.toNat % 2 ^ (8 * size)))).wrote pa).wrB d
      (loaded true size old) 1).note 2 ea)
  keeps : ∀ pa f, Reaches z .store ea size pa f → Released z → z.poisoned pa size = false → Owned z pa →
    writes (memValue z pa size) (c.toNat % 2 ^ (8 * size)) = false →
    exec i z = .next (((kept z f).wrB d (loaded true size (memValue z pa size)) 1).note 2 ea)
  remote : ∀ x f, Far z .store ea size x f → SendsFar z i .atomic ea x f size true op (some (.b d.toNat))
    (BitVec.ofNat 64 (v.toNat % 2 ^ (8 * size))) (BitVec.ofNat 64 (c.toNat % 2 ^ (8 * size))) (Released z)

/-- How a combining add ends in every case (R163, R264): in place on a line in M or E, buffered in a U line, which it asks for, unless a sum of the
other width lies on its slots, sent through a REMOTE window. -/
structure Combines (z : State) (i : Instr) (ea v : Word) (size : Nat) : Prop where
  misaligned : ea.toNat % size ≠ 0 → exec i z = .next (z.trapBundle .misalign ea)
  unmapped : ea.toNat % size = 0 → ∀ e, z.translate z.iss.core z.iss.ctx .store ea.toNat = .error e → exec i z = .next (z.trapBundle e ea)
  hub : ∀ x f, NamesHub z .store ea size x f → exec i z = .next (z.trapBundle .pageClass ea)
  leased : ∀ pa f, Reaches z .store ea size pa f → ¬ Unleased z pa → exec i z = .next (held (kept z f))
  absent : ∀ pa f, Reaches z .store ea size pa f → Unleased z pa → z.l1 z.iss.core (lineOf pa) = none →
    (∀ y, (kept z f).roomFor z.iss.core (lineOf pa) = some y → exec i z = .next (held (y.request z.iss.core (lineOf pa) .U))) ∧
    ((kept z f).roomFor z.iss.core (lineOf pa) = none → exec i z = .next (held (kept z f)))
  moving : ∀ pa f l, Reaches z .store ea size pa f → Unleased z pa → z.l1 z.iss.core (lineOf pa) = some l →
    (l.state = .S → exec i z = .next (held ((kept z f).request z.iss.core (lineOf pa) .U))) ∧
    (l.state = .U → sumsClash l (pa % 128 / 4) (size == 8) = true →
      exec i z = .next (held ((kept z f).request z.iss.core (lineOf pa) .U))) ∧
    (l.stable = false → exec i z = .next (held (kept z f)))
  clobbers : ∀ pa f l, Reaches z .store ea size pa f → Unleased z pa → z.l1 z.iss.core (lineOf pa) = some l →
    (l.state = .M ∨ l.state = .E ∨ (l.state = .U ∧ sumsClash l (pa % 128 / 4) (size == 8) = false)) →
    (z.tag pa = true → exec i z = .next (z.trapBundle .handleClobber ea)) ∧ (z.tag pa = false → AwaitsShadow z i f pa ea)
  orders : ∀ pa f l, Reaches z .store ea size pa f → z.tag pa = false → Unleased z pa → z.l1 z.iss.core (lineOf pa) = some l →
    (l.state = .M ∨ l.state = .E ∨ (l.state = .U ∧ sumsClash l (pa % 128 / 4) (size == 8) = false)) →
    (∀ e, z.innermost (lineOf pa) = some e → e.2.gen.toNat ≤ l.sg.toNat) → ¬ Released z → exec i z = .next (blocked (kept z f))
  inPlace : ∀ pa f, Reaches z .store ea size pa f → Released z → z.tag pa = false → mayWrite z pa →
    exec i z = .next ((((kept z f).writeNat pa size ((memValue z pa size + v.toNat) % 2 ^ (8 * size))).wrote pa).note 2 ea)
  buffered : ∀ pa f l, Reaches z .store ea size pa f → Released z → z.tag pa = false → Unleased z pa →
    z.l1 z.iss.core (lineOf pa) = some l → l.state = .U →
    sumsClash l (pa % 128 / 4) (size == 8) = false → (∀ e, z.innermost (lineOf pa) = some e → e.2.gen.toNat ≤ l.sg.toNat) →
    exec i z = .next (((kept z f).setL1 z.iss.core (lineOf pa)
      { l with sums := addSum l.sums (pa % 128 / 4) (size == 8) v }).note 2 ea)
  remote : ∀ x f, Far z .store ea size x f → SendsFar z i .cadd ea x f size false 0 none v 0 (Released z)

/-! ### Handle words (R54, R156, R169) -/

/-- An address of LDH, LDHD and STH that names a word of the window: bits [63:62] are 0b11, the offset is aligned and inside. -/
structure WindowWord (z : State) (ea : Word) (o : Nat) : Prop where
  kind : bits ea 62 2 = 3
  clear : bits ea 20 42 = 0
  aligned : ea.toNat % 8 = 0
  inside : bits ea 0 20 + 8 ≤ z.me.winLen
  place : o = z.me.winBase + bits ea 0 20

/-- An address of LDH, LDHD and STH that names a word of mortar memory of this package. -/
structure MortarWord (z : State) (ea : Word) (pa : Nat) (f : FrameEntry) : Prop where
  kind : bits ea 62 2 ≠ 3
  reaches : Reaches z .store ea 8 pa f

/-- An address of LDH, LDHD and STH that goes through a REMOTE window. -/
structure FarWord (z : State) (ea : Word) (x : Xlat) (f : FrameEntry) : Prop where
  kind : bits ea 62 2 ≠ 3
  far : Far z .store ea 8 x f

/-! ### Tiles (R46 to R56, R170 to R183) -/

/-- A form asks a home and holds the bundle until the answer comes (R104 step 4). -/
def asks (z : State) (kind : Nat) (t : BitVec 40) (peer : Nat) (e : Instr) : State :=
  held ((z.modMe fun x => { x with reply := { x.reply with asked := some (kind, t) } }).deliver peer e)

/-- A shape word as R173 asks: reserved bits zero, a layout, a tier, and a place that the tier has. -/
structure ShapeWord (w : Word) : Prop where
  reserved : bits w 55 8 = 0
  layout : w.extractLsb' 44 2 ≠ 3
  tier : bits w 46 2 ≠ 3
  far : bits w 46 2 = 0 → bits w 48 7 = 0
  near : bits w 46 2 = 1 → bits w 48 7 < 4

/-- Row-major index of the element that an index operand names, from the first word of a descriptor (R46, R177). -/
def elementAt (w0 w : Word) : Nat := bits w 32 16 * ((w0.extractLsb' 32 14).toNat + 1) + bits w 0 16

/-- An index operand names an element (R177). -/
structure IndexWord (w0 w : Word) : Prop where
  high : bits w 48 16 = 0
  middle : bits w 16 16 = 0
  row : bits w 32 16 ≤ (w0.extractLsb' 18 14).toNat
  col : bits w 0 16 ≤ (w0.extractLsb' 32 14).toNat

/-- An update reuses the storage (R53): the tile is open here, or it is homed in this package and the handle is its only holder. -/
def Reused (z : State) (v : Handle) : Prop :=
  v.tile ∈ z.me.openSet ∨ (homePeer v.tile = z.peer.toNat ∧ (v.fresh = true ∨ z.me.reply.unique = some true))

/-- An update copies (R53). -/
def Copied (z : State) (v : Handle) : Prop :=
  v.tile ∉ z.me.openSet ∧ (homePeer v.tile ≠ z.peer.toNat ∨ (v.fresh = false ∧ z.me.reply.unique = some false))

/-- No earlier command of the context still names a tile (R179). -/
def Unread (z : State) (t : BitVec 40) : Prop := ∀ c ∈ z.cmdsOf z.iss.core z.iss.ctx, c.names t = true → c.bundle = z.me.bundle

/-- The home's answers that a copying update needs: the descriptor, with half of the scale handle where there is one (R51), and the
copy's tile; and room for the drop of the old handle (R55). -/
structure CopyReady (z : State) (ws : List Word) (t : BitVec 40) (sc : Option Handle) : Prop where
  desc : z.me.reply.desc = some ws
  tile : z.me.reply.tile = some t
  index : t.toNat % 2 ^ 24 ≠ 0
  scale : (Desc.ofWords ws).scale = sc ∧ (sc = none ∨ ws.length = 9)
  room : z.me.drops.length < 16

/-- A copying update as it is queued: the copy holds half of the scale handle, the register is empty until the update is done (R175). -/
def copying (z : State) (h : BitVec 6) (v : Handle) (t : BitVec 40) (sc : Option Handle) (eng : Option Engine) (w : UpdWrite) : State :=
  (((z.modDesc t fun q => { q with scale := sc }).markScale sc).enqueue eng (.update h.toNat v (some ⟨true, 31, t⟩) false w) eng.isSome).wrH h none

/-- A node of a page table of KVFIND (R183): the first word names its start and its run of tokens, the second the next node. -/
structure Node (z : State) (node : Word) (pa : Nat) (f : FrameEntry) : Prop where
  aligned : node.toNat % 128 = 0
  maps : ∃ x, z.translate z.iss.core z.iss.ctx .load node.toNat = .ok (x, f) ∧ x.mode = .localWin ∧ x.pa = pa
  plain : isHubSpace pa = false
  line : z.leasedByOther z.iss.core z.iss.ctx (lineOf pa) = false ∧
    ∃ l, z.l1 z.iss.core (lineOf pa) = some l ∧ (l.state = .M ∨ l.state = .E ∨ l.state = .S)
  sound : z.poisoned pa 16 = false

/-- A refill has served the split that asked for it (R51). -/
def refilled (z : State) : State := z.modMe fun x => { x with reply := { x.reply with asked := none, refill := false } }

/-! ### Engine commands (R83, R191 to R227) -/

/-- The command that a form adds to its core: its number is the context's (0 for one without), its window that of the context. -/
def queued (z : State) (eng : Option Engine) (op : CmdOp) (numbered : Bool) : Cmd :=
  { serial := z.myCore.nextSerial, ctx := z.iss.ctx, engine := eng, seq := if numbered then z.me.cmdNo else 0, pc := z.me.pc
    bundle := z.me.bundle, win := z.me.winBase, winLen := z.me.winLen, op := op, running := false, progress := 0, fetched := false
    steps := 0, panel := 0, feWait := none }

/-- How a vector or special-function form issues (R191): its regions resolve, its own checks pass and the queue has an open entry. -/
structure IssuesVector (z : State) (i : Instr) (op : VOp) (rm : BitVec 2) (sat quiet : Bool) (d s t : Word) (sr tr : Bool) : Prop where
  queues : ∀ dr sr' tr', regionOf z d = .ok dr →
    (if sr then ∃ r, regionOf z s = .ok r ∧ sr' = some r else sr' = none) →
    (if tr then ∃ r, regionOf z t = .ok r ∧ tr' = some r else tr' = none) →
    op.check dr sr' tr' t = .ok () →
    (z.queueOpen .vector = true → exec i z = .next (z.enqueue (some op.engine) (.vec ⟨op, rm, sat, quiet, dr, sr', tr', s, t⟩))) ∧
    (z.queueOpen .vector = false → exec i z = .next (blocked z))
  traps : ∀ dr sr' tr' c a, regionOf z d = .ok dr →
    (if sr then ∃ r, regionOf z s = .ok r ∧ sr' = some r else sr' = none) →
    (if tr then ∃ r, regionOf z t = .ok r ∧ tr' = some r else tr' = none) →
    op.check dr sr' tr' t = .error (.trap c a) → exec i z = .next (z.trapBundle c a)
  region : ∀ c a, regionOf z d = .error (.trap c a) → exec i z = .next (z.trapBundle c a)

/-- A group descriptor as R202 asks of the member that issues. -/
structure GroupWord (w : Word) (member : Nat) : Prop where
  reserved : bits w 48 3 = 0
  size : bits w 51 2 ≠ 0
  members : ((List.range 8).countP fun k => w.getLsbD (56 + k)) = 2 ^ bits w 51 2
  mine : w.getLsbD (56 + member) = true
  rank : bits w 53 3 = (List.range member).countP fun k => w.getLsbD (56 + k)

/-- A copy source of R68 as its form reads it. -/
def SourceOf (z : State) (k : SrcKind) (hx : BitVec 6) (w : Word) (len : Nat) (src : CopySrc) : Prop :=
  match k with
  | .ls => w.toNat % 16 = 0 ∧ len % 16 = 0 ∧ w.toNat + len ≤ z.me.winLen ∧ src = .ls w.toNat
  | .va => src = .va w.toNat
  | .tile => ∃ v, z.opH hx = some v ∧ src = .tile v.tile w.toNat

/-- A copy as it enters the queue (R72, R223): nothing started, nothing landed. -/
def copyCommand (fn : Nat) (src : CopySrc) (dst : CopyDst) (d s : Word) (len : Nat) : CmdOp :=
  .copy ⟨fn, src, dst, d, s, len, 0, [], 0, false, [], none, none, []⟩

/-- The queue has an open entry and the context has fewer than 32 copies that a stop can cut (R83, R325). -/
def CopyRoom (z : State) : Prop :=
  z.queueOpen .copy = true ∧ ((z.cmdsOf z.iss.core z.iss.ctx).filter fun c => c.op.cuttable).length < 32

/-- A target word of TMOVE and MIGR (R182): far memory, near memory of a die, or a slice. -/
structure TargetWord (w : Word) : Prop where
  reserved : bits w 9 55 = 0
  kind : bits w 0 2 ≠ 3
  far : bits w 0 2 = 0 → bits w 2 7 = 0
  near : bits w 0 2 = 1 → bits w 4 5 = 0

/-! ### Privileged forms and launches (R138, R184 to R189) -/

/-- The context in issue is a firmware context (R184, R312). -/
def Firmware (z : State) : Prop := z.isFirmware z.iss.core z.iss.ctx = true

/-- An aligned range of at most a frame that translates to mortar memory of this package outside the hub control space. -/
structure MortarRange (z : State) (acc : Access) (va : Word) (len pa : Nat) (f : FrameEntry) : Prop where
  frame : va.toNat % 2 ^ 21 + len ≤ 2 ^ 21
  maps : ∃ x, z.translate z.iss.core z.iss.ctx acc va.toNat = .ok (x, f) ∧ x.mode = .localWin ∧ x.cls = .mortar ∧ x.pa = pa
  plain : isHubSpace pa = false

/-- A context of the core in issue that CTXSAVE and CTXLOAD may name: the word is that of SR_COREID, and it is not a firmware
context (R188). -/
def NamesTask (z : State) (w : Word) (x : Nat) : Prop :=
  x = bits w 8 2 ∧ bits w 0 8 = z.iss.core ∧ z.isFirmware z.iss.core x = false

/-- A context is stopped and every answer it waited for has come: it can be saved (R188, R326). -/
structure Saveable (z : State) (x : Nat) (t : Task) : Prop where
  stopped : (z.ctx z.iss.core x).stopped = true
  task : (z.ctx z.iss.core x).task = some t
  loads : (z.ctx z.iss.core x).loads = []
  remote : (z.ctx z.iss.core x).remote = []
  refills : (z.ctx z.iss.core x).refills = []
  late : (z.ctx z.iss.core x).late = []
  rposts : (z.ctx z.iss.core x).rposts = []
  flags : (z.ctx z.iss.core x).lateFlags = []
  commands : ∀ c ∈ z.cmdsOf z.iss.core x, c.wasCut = true
  room : z.myCore.savedDrops.length + (z.ctx z.iss.core x).drops.length ≤ 64

/-- What LAUNCH needs to read its packet from this package (R138). -/
structure PacketReady (z : State) (va : Word) (pa : Nat) (f : FrameEntry) : Prop where
  range : MortarRange z .load va 128 pa f
  aligned : va.toNat % 128 = 0
  first : z.me.accessing = false
  quiet : (kept z f).rangeQuiet pa 128 = true
  sound : z.poisoned pa 128 = false

/-- What LAUNCH needs besides to reach its queue: the slot is the process's own, and no doorbell of it comes first (R138, R315). -/
structure LaunchReady (z : State) (va : Word) (n : Nat) (pa : Nat) (f : FrameEntry) : Prop where
  packet : PacketReady z va pa f
  number : n ≤ 63
  mapped : (z.qslot n).mapped = true
  process : z.procOf z.iss.core z.iss.ctx = some (z.qslot n).proc.toNat
  silent : ∀ e ∈ z.agenda, doorbellTail n e = none

/-! ### Traps (R316 to R323) -/

/-- The first word of a trap record (R320): command number, code of a TRAP, engine, slot, kind, cause. -/
def recordWord (t : TrapInfo) : Word :=
  let kind : Nat := match t.kind with | .precise => 0 | .engine => 1 | .deferred => 2
  let engine : Nat := match t.engine with | none => 0 | some .matrix => 1 | some .vector => 2 | some .sfu => 3 | some .copy => 4
  BitVec.ofNat 64 (t.seq.toNat * 2 ^ 32 + t.imm.toNat * 2 ^ 16 + engine * 2 ^ 12 + t.slot % 4 * 2 ^ 10 + kind * 2 ^ 8
    + t.cause.code.toNat)

/-- A context as the entry to its handler finds it (R321): its leases are over, its held bundle has given back what it was given. -/
def leftBehind (s : State) (c x : Nat) : State := (s.endLeases c x fun _ => true).forgetReply c x

/-- A handler can be entered (R319, R321): there is one, its record area of 64 bytes lies in the window and holds no handle, its first
bundle can be fetched. -/
structure HandlerReady (s : State) (c x : Nat) : Prop where
  handler : (s.ctx c x).tvecHandler ≠ 0
  inside : (s.ctx c x).tvecRec.toNat * 64 + 64 ≤ (s.ctx c x).winLen
  untagged : (s.core c).lsAnyTag ((s.ctx c x).winBase + (s.ctx c x).tvecRec.toNat * 64) 64 = false
  fetch : s.fetchOk c x (BitVec.ofNat 64 ((s.ctx c x).tvecHandler.toNat * 16)) = true

/-! ### Issue of a bundle (R85, R90, R102 to R104) -/

/-- A turn of a core comes, not an event (R85). -/
def NoEvent (s : State) : Prop := s.eventNext = false ∨ (s.agenda = [] ∧ s.homeWait = [])

/-- The context that the turn of a core examines first: it is ready, no stop or trap is taken instead, no context has yielded. -/
structure Issues (s : State) (c x : Nat) : Prop where
  turn : c = s.turn
  thawed : (s.core c).frozen = none
  powered : (s.core c).gated = false
  fresh : ∀ y, y < 4 → (s.ctx c y).yielded = false
  first : (s.issueOrder c).head? = some x
  ready : (s.ctx c x).ready s.cycle = true
  going : (s.ctx c x).atStop = false
  noTrap : (s.ctx c x).takesPending = false

/-- The bundle in issue as its first slot finds it: operands latched, its translation kept (R40, R102). -/
def begun (s : State) (c x : Nat) (f : FrameEntry) : State := (s.latch c x).modMyCore fun k => k.keepFrame f

/-- How the turn of a core goes on after a bundle: a line that the bundle waited for is met, due events are posted, the next core is
next. -/
def turned (s a : State) (c x : Nat) : State := ((a.metLine (s.latch c x) c x).giveWord c x).afterTurn c

/-- Slots of a bundle take their effects one after another, each in the state that the one before it leaves (R102). -/
def SlotsPass : List (Nat × Instr) → State → State → Prop
  | [], a, t => t = a
  | (k, i) :: r, a, t => ∃ b, exec i (a.atSlot k) = .next b ∧ b.iss.status = .ok ∧ SlotsPass r b t

/-- The bytes of a bundle at the program counter, translated (R39, R90). -/
structure Fetches (s : State) (c x : Nat) (pa : Nat) (f : FrameEntry) : Prop where
  aligned : (s.ctx c x).pc.toNat % 16 = 0
  maps : ∃ a, s.translate c x .fetch (s.ctx c x).pc.toNat = .ok (a, f) ∧ a.pa = pa

/-- A slot form: an instruction that has an encoding. -/
def isSlotForm (i : Instr) : Bool := (encode i).isSome

/-- The slots in which an instruction may stand (R92, R93). -/
def standsIn (i : Instr) (w : BitVec 32) (slot : Nat) : Bool :=
  match i with | .hdr .. => slot == 0 | _ => opcodeSlot (w.extractLsb' 24 8).toNat slot

/-! ### Events -/

/-- Counts and contexts of a core go on: it is neither frozen nor gated (R87, R339). -/
def Goes (z : State) (c : Nat) : Prop := (z.core c).frozen = none ∧ (z.core c).gated = false

/-- No context of a core but one waits for a load (R262). -/
def NoLoadsBut (z : State) (c x : Nat) : Prop := ∀ y, y < 4 → y ≠ x → (z.ctx c y).loads = []

/-- A line as it stands once everything it waited for has come: nothing is counted any more, its sg is the home's (R262, R272). -/
def arrived (z : State) (line : Nat) (l : L1Line) (st : LineState) : L1Line :=
  { l with state := st, grant := none, got := 0, gotHalves := 0, lost := false, sums := [], sg := z.homeSg line }

/-- The directory's entry of a line becomes a state (R259); a new entry is the youngest of its side array (R256). -/
def dirTo (z : State) (line : Nat) (d : DirState) : State :=
  { z with dir := z.dir.put line d, entryAge := if z.entryAge.contains line then z.entryAge else z.entryAge ++ [line] }

/-- A home carries a message about a line out at once: its lines rest and its refills have come, and no earlier message of its lines waits. -/
def Serves (z : State) (e : Instr) : Prop := z.homeReady e = true ∧ z.homeWait = []

/-- A message waits at its home (R263). -/
def waitsHome (z : State) (e : Instr) : State := { z.askRefills (z.homeRefills e) with homeWait := z.homeWait ++ [e] }

/-- A forward or an Inv waits at its core (R262). -/
def waitsAt (z : State) (c : Nat) (e : Instr) : State := z.modCore c fun k => { k with heldProbes := k.heldProbes ++ [e] }

/-- Elements of a vector command are written in order, and each lane takes the flags of its element (R29, R196). -/
def written (z : State) (core x : Nat) (quiet : Bool) (d : Region) (vs : List (Nat × Flags)) : State :=
  ((List.range vs.length).zip vs).foldl (fun y e =>
    (y.modCore core fun k => d.put k e.1 e.2.1).modCtx core x fun k => k.raiseLanes quiet [(e.1, e.2.2)]) z

/-- A unit runs a vector command, whose sources wait for no empty granule, on a core whose local store holds no handle. -/
structure RunsVector (z : State) (core : Nat) (e : Engine) (c : Cmd) (v : VCmd) : Prop where
  goes : Goes z core
  found : (z.core core).cmds.find? (fun c => c.engine == some e && c.running) = some c
  op : c.op = .vec v
  filled : ∀ r ∈ v.reads, r.ready (z.core core) = true
  plain : (z.core core).lsTags = []

/-- The matrix engine runs an MMA or MMAC on a window of tiles whose operands pass R199. -/
structure RunsMatrix (z : State) (core : Nat) (c : Cmd) (acc : Bool) (d : Region) (o : Operands) (r0 c0 rows cols : Nat) : Prop where
  window : 0 < rows ∧ 0 < cols
  found : (z.core core).cmds.find? (fun c => c.engine == some .matrix && c.running) = some c
  op : ∃ fa fb ta tb, c.op = .mma acc fa fb ta tb d r0 c0 rows cols ∧ z.operands fa fb ta tb = .ok o

/-- A deferred trap, as a context takes it up (R317). -/
def deferredTrap (z : State) (cause : Cause) (pc addr : Word) : TrapInfo :=
  { cause := cause, kind := .deferred, engine := none, slot := 0, imm := 0, seq := 0, pc := pc, addr := addr, cancelled := 0
    progress := 0, cycle := z.cycle }

/-- An admin command has run: its completion carries the identifier of its entry, and vector 0 is raised unless it is masked (R332, R340). -/
def completed (y : State) (id status : Nat) (result : Word) : State :=
  { y with
    completions := y.completions ++ [⟨id, status, result⟩]
    msix := if y.msix.get false 64 = true then y.msix else y.msix.set false 0 true }

/-- The state in which an admin command runs: the head has moved past its entry. -/
def taken (z : State) : State := { z with adminHead := z.adminHead + 1 }

/-- A range of the host's memory, lowest address first. -/
def hostRange (z : State) (at_ n : Nat) : List Byte := (List.range n).map fun i => z.hostMem.get 0 (at_ + i)

/-- The entry of the admin ring that runs next, as R332 lays it out: opcode at byte 0, identifier at 2, buffer at 8, its length at 16. -/
structure NextEntry (z : State) (e : AdminEntry) : Prop where
  waits : z.adminHead ≠ z.adminTail
  place : e.at_ = z.adminBase + 64 * (z.adminHead.toNat % 64)
  opcode : ofBytes (hostRange z e.at_ 2) = e.opcode
  id : ofBytes (hostRange z (e.at_ + 2) 2) = e.id
  buf : ofBytes (hostRange z (e.at_ + 8) 8) = e.buf
  len : ofBytes (hostRange z (e.at_ + 16) 4) = e.len

/-- Bytes written to a buffer of the host. -/
def toBuffer (y : State) (buf : Nat) (bs : List Byte) : State :=
  { y with hostMem := ((List.range bs.length).zip bs).foldl (fun t e => t.set 0 (buf + e.1) e.2) y.hostMem }

end Sys2Proof.Safety
end

