-- ==== Sys2Proof/Certificates/Slice0/Obligations.lean ====
section
/-! DEFINITION. The statements about the machine, for the provers. `z` is the state in which an instruction takes effect: the bundle
in issue, its slot and its latched operands stand in `z.iss` (R102). -/

open Sys2Proof Sys2Proof.Machine Sys2Proof.Safety

/-! ### Control -/

/-- The header (R93 to R96): a wait on a flag that reads 0 blocks; otherwise the scope is set, the stall count runs from this cycle, and
the flag is taken from or added to, an increment saturating (R79). -/
def Obligations.HeaderResults : Prop :=
  ∀ (z : State) (l1 l2 l3 : BitVec 6) (stall scope : BitVec 3) (q : BitVec 4),
    let y := ({ z with iss := { z.iss with scope := scope } }).modMe fun x => { x with readyAt := z.cycle + stall.toNat + 1 }
    exec (.hdr l1 l2 l3 stall scope 0 q) z = .next y ∧
    (z.opQ q ≠ 0 → exec (.hdr l1 l2 l3 stall scope 1 q) z = .next y) ∧
    (z.opQ q ≠ 0 → exec (.hdr l1 l2 l3 stall scope 2 q) z = .next (y.wrQ q (z.opQ q - 1))) ∧
    exec (.hdr l1 l2 l3 stall scope 3 q) z = .next (y.wrQ q (min (z.opQ q + 1) 65535)) ∧
    (z.opQ q = 0 → ∀ sync : BitVec 2, sync = 1 ∨ sync = 2 →
      exec (.hdr l1 l2 l3 stall scope sync q) z = .next { z with iss := { z.iss with status := .blocked } })

/-- R114, R115: the four branch forms transfer after the bundle; BRX and CALL write the return address; in the last bundle of the
innermost body each raises LOOP_BAD (R119), and a register target off a bundle boundary raises PC_ALIGN. That LOOP_BAD comes first where both hold is
the model's order (log entry 83). -/
def Obligations.BranchResults : Prop :=
  ∀ (z : State) (g : BitVec 4) (off : BitVec 20) (d s : BitVec 5), z.opP g = true →
    (z.me.atLoopEnd = false →
      exec (.br g off) z = .next (goes z (target z.me.pc off)) ∧
      exec (.call g off) z = .next ((goes z (target z.me.pc off)).wrA 31 (z.me.pc + 16) 1) ∧
      (z.opA s &&& 15 = 0 →
        exec (.brx g d s) z = .next ((goes z (z.opA s)).wrA d (z.me.pc + 16) 1) ∧
        exec (.ret g s) z = .next (goes z (z.opA s))) ∧
      (z.opA s &&& 15 ≠ 0 →
        exec (.brx g d s) z = .next (z.trapBundle .pcAlign 0) ∧ exec (.ret g s) z = .next (z.trapBundle .pcAlign 0))) ∧
    (z.me.atLoopEnd = true →
      exec (.br g off) z = .next (z.trapBundle .loopBad 0) ∧ exec (.call g off) z = .next (z.trapBundle .loopBad 0) ∧
      exec (.brx g d s) z = .next (z.trapBundle .loopBad 0) ∧ exec (.ret g s) z = .next (z.trapBundle .loopBad 0))

/-- R117 to R119: LOOP and LOOPX refuse what the rule names, in the order in which it tests it; else they push a record whose first pass begins at
once; a loop of no iterations makes no pass and goes on after its body; LBRK pops the innermost record, and with an empty stack raises
LOOP_BAD. -/
def Obligations.LoopForms : Prop :=
  (∀ (z : State) (g : BitVec 4) (stg : BitVec 3) (cnt : BitVec 10) (c : BitVec 5) (len : BitVec 7) (i : Instr) (n : Word), z.opP g = true →
    ((i = .loop g stg cnt len ∧ n = cnt.setWidth 64) ∨ (i = .loopx g stg c len ∧ n = z.opA c)) →
    let last := z.me.pc + 16 * len.setWidth 64
    (len = 0 ∨ 2 ^ 32 ≤ n.toNat → exec i z = .next (z.trapBundle .loopBad 0)) ∧
    (len ≠ 0 → n.toNat < 2 ^ 32 →
      (4 ≤ z.me.loops.length → exec i z = .next (z.trapBundle .loopDepth 0)) ∧
      (z.me.loops.length < 4 →
        ((∃ l r, z.me.loops = l :: r ∧ l.last.toNat < last.toNat) → exec i z = .next (z.trapBundle .loopBad 0)) ∧
        ((∀ l ∈ z.me.loops.head?, last.toNat ≤ l.last.toNat) →
          (0 < n.toNat →
            exec i z = .next (looped z (⟨z.me.pc + 16, last, stg, BitVec.ofNat 32 (n.toNat - 1), 1, false⟩ :: z.me.loops) (z.me.pc + 16))) ∧
          (n = 0 → exec i z = .next (looped z z.me.loops (last + 16))))))) ∧
  (∀ (z : State) (g : BitVec 4), z.opP g = true →
    (z.me.loops = [] → exec (.lbrk g) z = .next (z.trapBundle .loopBad 0)) ∧
    (∀ l r, z.me.loops = l :: r →
      exec (.lbrk g) z = .next (z.setLoops (({ z.me with loops := r, pc := l.last + 16 }).endBodies z.me.pc r.length))))

/-- R118, whole: how a pass of the innermost loop begins; a loop of N iterations and S stages makes N + S - 1 passes, and stage k runs iteration i in
pass i + k; a loop of no iterations makes none. -/
def Obligations.PassBegins : Prop :=
  (∀ (x : Ctx) (l : LoopRec) (r : List LoopRec), x.loops = l :: r →
    let start : Nat := if 0 < l.n.toNat ∧ l.drain = false then 1 else 0
    let m : Nat := (l.mask.toNat * 2 + start) % 2 ^ (l.stg.toNat + 1)
    let n : Nat := l.n.toNat - start
    let l' : LoopRec := { l with mask := BitVec.ofNat 8 m, n := BitVec.ofNat 32 n }
    (m ≠ 0 → x.beginPass = { x with loops := l' :: r, pc := l.head }) ∧
    (m = 0 → 0 < n → x.beginPass = { x with loops := l' :: r, pc := l.head, stop := { x.stop with atHead := true } }) ∧
    (m = 0 → n = 0 → x.beginPass = { x with loops := r, pc := l.last + 16 })) ∧
  (∀ (x : Ctx) (head last : Word) (stg : BitVec 3) (count : BitVec 32) (r : List LoopRec),
    x.loops = ⟨head, last, stg, count, 0, false⟩ :: r →
    let after (passes : Nat) : Ctx := (List.range passes).foldl (fun y _ => y.beginPass) x
    (∀ p, 0 < count.toNat → p < count.toNat + stg.toNat →
      ∃ n m, after (p + 1) = { x with loops := ⟨head, last, stg, n, m, false⟩ :: r, pc := head } ∧
        ∀ k, k ≤ stg.toNat → m.getLsbD k = decide (k ≤ p ∧ p - k < count.toNat)) ∧
    (0 < count.toNat → after (count.toNat + stg.toNat + 1) = { x with loops := r, pc := last + 16 }) ∧
    (count = 0 → after 1 = { x with loops := r, pc := last + 16 }))

/-- NOP (R122), HALT (R123), TRAP (R124), ERET (R125), YIELD (R126), DRAIN (R127) and the fences (R134); WAIT, POST and RPOST (R128 to R130, R132) with
the amount A[s] + imm. HALT of a context without a task, which the spec does not describe, halts it: the model's choice (log entry 18); so is that
ERET outside the handler raises PRIV_OP where its bundle also ends a loop body (log entry 83). -/
def Obligations.FlagsStopAndYield : Prop :=
  (∀ (z : State) (g : BitVec 4) (imm : BitVec 15) (c : BitVec 3), z.opP g = true →
    exec (.nop g) z = .next z ∧
    exec (.halt g) z = .next (z.modMe fun k => { k with run := if k.task.isSome then .ending else .halted, loops := [] }) ∧
    exec (.trap g imm) z = .next (z.trapBundle .swTrap (imm.setWidth 64)) ∧
    (z.me.handler = true → z.me.atLoopEnd = false → exec (.eret g) z = .next { z with iss := { z.iss with eret := true } }) ∧
    (z.me.handler = true → z.me.atLoopEnd = true → exec (.eret g) z = .next (z.trapBundle .loopBad 0)) ∧
    (z.me.handler = false → exec (.eret g) z = .next (z.trapBundle .privOp 0)) ∧
    exec (.yield g) z = .next (z.modMe fun k => { k with yielded := true }) ∧
    (z.cmdsOf z.iss.core z.iss.ctx = [] → z.me.drops = [] → z.me.accessing = false → z.me.rposts = [] →
      exec (.drain g) z = .next z) ∧
    ((z.cmdsOf z.iss.core z.iss.ctx ≠ [] ∨ z.me.drops ≠ [] ∨ z.me.accessing = true ∨ z.me.rposts ≠ []) →
      exec (.drain g) z = .next (blocked z)) ∧
    (z.me.accessing = false →
      exec (.fenceFull g c) z = .next z ∧ exec (.fenceAcq g c) z = .next z ∧ exec (.fenceRel g c) z = .next z) ∧
    (z.me.accessing = true → exec (.fenceFull g c) z = .next (blocked z) ∧ exec (.fenceAcq g c) z = .next (blocked z) ∧
      exec (.fenceRel g c) z = .next (blocked z))) ∧
  (∀ (z : State) (g q : BitVec 4) (s : BitVec 5) (imm : BitVec 8), z.opP g = true →
    let v := (z.opA s + imm.setWidth 64).toNat
    (v ≤ 65535 → v ≤ z.opQ q →
      exec (.waitGe g q s imm) z = .next z ∧ exec (.waitTake g q s imm) z = .next (z.wrQ q (z.opQ q - v))) ∧
    (v ≤ 65535 → v = z.opQ q → exec (.waitEq g q s imm) z = .next z) ∧
    (v ≤ 65535 → v ≠ z.opQ q → exec (.waitEq g q s imm) z = .next (blocked z)) ∧
    (v ≤ 65535 → z.opQ q < v →
      exec (.waitGe g q s imm) z = .next (blocked z) ∧ exec (.waitTake g q s imm) z = .next (blocked z)) ∧
    (65535 < v →
      exec (.waitGe g q s imm) z = .next (z.trapBundle .flagRange 0) ∧
      exec (.waitEq g q s imm) z = .next (z.trapBundle .flagRange 0) ∧
      exec (.waitTake g q s imm) z = .next (z.trapBundle .flagRange 0)) ∧
    exec (.postInc g q s imm) z = .next (z.wrQ q (min (z.opQ q + v) 65535)) ∧
    exec (.postSet g q s imm) z = .next (z.wrQ q (min v 65535)) ∧
    (let peer := bits (z.opA s) 24 14
     let target := peer * 1024 + bits (z.opA s) 8 2 * 256 + bits (z.opA s) 0 8
     (z.peerAbsent peer = true → exec (.rpost g q s imm) z = .next (z.trapBundle .peerAbsent 0)) ∧
     (z.peerAbsent peer = false → z.peerAllowed peer = false → exec (.rpost g q s imm) z = .next (z.trapBundle .peerDenied 0)) ∧
     (z.peerAbsent peer = false → z.peerAllowed peer = true →
      (z.me.rposts.length < 8 → target ∉ z.me.rposts → z.me.accessing = false →
        exec (.rpost g q s imm) z = .next ((z.modMe fun k => { k with rposts := k.rposts ++ [target] }).deliver peer
          (.rpostArrival z.peer.toNat z.iss.core z.iss.ctx (bits (z.opA s) 0 8) (bits (z.opA s) 8 2) q.toNat imm.toNat z.me.pc))) ∧
      ((8 ≤ z.me.rposts.length ∨ target ∈ z.me.rposts ∨ z.me.accessing = true) → exec (.rpost g q s imm) z = .next (blocked z)))))

/-! ### Integer forms -/

/-- R142: signed quotients truncate toward zero and remainders have the sign of the dividend; a divisor of 0 gives all ones and the
dividend; the most negative number by -1 gives itself and 0, because the exact quotient wraps. -/
def Obligations.IntegerDivision : Prop :=
  ∀ (z : State) (g : BitVec 4) (d s t : BitVec 5), z.opP g = true →
    let x := z.opX s
    let y := z.opX t
    exec (.div g d s t) z = .next (z.wrX d (BitVec.ofInt 64 (quotient x.toInt y.toInt)) 20) ∧
    exec (.divW g d s t) z = .next (z.wrX d (word32 (quotient (low x) (low y))) 12) ∧
    exec (.divu g d s t) z = .next (z.wrX d (BitVec.ofInt 64 (quotient x.toNat y.toNat)) 20) ∧
    exec (.divuW g d s t) z = .next (z.wrX d (word32 (quotient (lowU x) (lowU y))) 12) ∧
    exec (.rem g d s t) z = .next (z.wrX d (BitVec.ofInt 64 (remainder x.toInt y.toInt)) 20) ∧
    exec (.remW g d s t) z = .next (z.wrX d (word32 (remainder (low x) (low y))) 12) ∧
    exec (.remu g d s t) z = .next (z.wrX d (BitVec.ofInt 64 (remainder x.toNat y.toNat)) 20) ∧
    exec (.remuW g d s t) z = .next (z.wrX d (word32 (remainder (lowU x) (lowU y))) 12)

/-- R141 (and R139 for the .w variants): the register forms, each with the value in exact numbers, wrapped to 64 bits or computed on the low 32 bits
and sign-extended; the results are readable after the latencies of R97. Shifts and rotations go by the low six bits of X[t], or the low five
for .w; the arithmetic shift rounds toward minus infinity. Leading and trailing zeros and set bits are each said by what characterises them. Division
and remainder, which R141 leaves to R142, act on the quotients and remainders of that rule. -/
def Obligations.IntegerArithmeticAndShifts : Prop :=
  (∀ (z : State) (g : BitVec 4) (d s t : BitVec 5), z.opP g = true →
    let x := z.opX s
    let y := z.opX t
    exec (.add g d s t) z = .next (z.wrX d (BitVec.ofNat 64 (x.toNat + y.toNat)) 1) ∧
    exec (.addW g d s t) z = .next (z.wrX d (word32 (low x + low y)) 1) ∧
    exec (.sub g d s t) z = .next (z.wrX d (BitVec.ofInt 64 (x.toInt - y.toInt)) 1) ∧
    exec (.subW g d s t) z = .next (z.wrX d (word32 (low x - low y)) 1) ∧
    exec (.mul g d s t) z = .next (z.wrX d (BitVec.ofNat 64 (x.toNat * y.toNat)) 3) ∧
    exec (.mulW g d s t) z = .next (z.wrX d (word32 (low x * low y)) 3) ∧
    exec (.mulh g d s t) z = .next (z.wrX d (BitVec.ofInt 64 (x.toInt * y.toInt / 2 ^ 64)) 3) ∧
    exec (.mulhu g d s t) z = .next (z.wrX d (BitVec.ofNat 64 (x.toNat * y.toNat / 2 ^ 64)) 3) ∧
    exec (.div g d s t) z = .next (z.wrX d (BitVec.ofInt 64 (quotient x.toInt y.toInt)) 20) ∧
    exec (.divW g d s t) z = .next (z.wrX d (word32 (quotient (low x) (low y))) 12) ∧
    exec (.divu g d s t) z = .next (z.wrX d (BitVec.ofInt 64 (quotient x.toNat y.toNat)) 20) ∧
    exec (.divuW g d s t) z = .next (z.wrX d (word32 (quotient (lowU x) (lowU y))) 12) ∧
    exec (.rem g d s t) z = .next (z.wrX d (BitVec.ofInt 64 (remainder x.toInt y.toInt)) 20) ∧
    exec (.remW g d s t) z = .next (z.wrX d (word32 (remainder (low x) (low y))) 12) ∧
    exec (.remu g d s t) z = .next (z.wrX d (BitVec.ofInt 64 (remainder x.toNat y.toNat)) 20) ∧
    exec (.remuW g d s t) z = .next (z.wrX d (word32 (remainder (lowU x) (lowU y))) 12) ∧
    exec (.and g d s t) z = .next (z.wrX d (x &&& y) 1) ∧
    exec (.or g d s t) z = .next (z.wrX d (x ||| y) 1) ∧
    exec (.xor g d s t) z = .next (z.wrX d (x ^^^ y) 1) ∧
    exec (.min g d s t) z = .next (z.wrX d (BitVec.ofInt 64 (min x.toInt y.toInt)) 1) ∧
    exec (.max g d s t) z = .next (z.wrX d (BitVec.ofInt 64 (max x.toInt y.toInt)) 1) ∧
    exec (.minu g d s t) z = .next (z.wrX d (BitVec.ofNat 64 (min x.toNat y.toNat)) 1) ∧
    exec (.maxu g d s t) z = .next (z.wrX d (BitVec.ofNat 64 (max x.toNat y.toNat)) 1)) ∧
  (∀ (z : State) (g : BitVec 4) (d s t : BitVec 5), z.opP g = true →
    let x := z.opX s
    let c := (z.opX t).toNat % 64
    let cw := (z.opX t).toNat % 32
    exec (.shl g d s t) z = .next (z.wrX d (BitVec.ofNat 64 (x.toNat * 2 ^ c)) 1) ∧
    exec (.shlW g d s t) z = .next (z.wrX d (word32 (lowU x * 2 ^ cw)) 1) ∧
    exec (.shr g d s t) z = .next (z.wrX d (BitVec.ofNat 64 (x.toNat / 2 ^ c)) 1) ∧
    exec (.shrW g d s t) z = .next (z.wrX d (word32 (lowU x / 2 ^ cw : Nat)) 1) ∧
    exec (.sra g d s t) z = .next (z.wrX d (BitVec.ofInt 64 (x.toInt / 2 ^ c)) 1) ∧
    exec (.sraW g d s t) z = .next (z.wrX d (word32 (low x / 2 ^ cw)) 1) ∧
    exec (.rotr g d s t) z = .next (z.wrX d (BitVec.ofNat 64 (x.toNat / 2 ^ c + x.toNat * 2 ^ (64 - c))) 1) ∧
    exec (.rotrW g d s t) z = .next (z.wrX d (word32 (lowU x / 2 ^ cw + lowU x * 2 ^ (32 - cw) : Nat)) 1)) ∧
  (∀ (z : State) (g : BitVec 4) (d s : BitVec 5), z.opP g = true →
    let x := z.opX s
    (∃ n : Nat, n ≤ 64 ∧ (∀ k, 64 - n ≤ k → k < 64 → x.getLsbD k = false) ∧ (n < 64 → x.getLsbD (63 - n) = true) ∧
      exec (.clz g d s) z = .next (z.wrX d (BitVec.ofNat 64 n) 1)) ∧
    (∃ n : Nat, n ≤ 64 ∧ (∀ k, k < n → x.getLsbD k = false) ∧ (n < 64 → x.getLsbD n = true) ∧
      exec (.ctz g d s) z = .next (z.wrX d (BitVec.ofNat 64 n) 1)) ∧
    exec (.popc g d s) z = .next (z.wrX d (BitVec.ofNat 64 ((List.range 64).countP fun k => x.getLsbD k)) 1) ∧
    exec (.sextB g d s) z = .next (z.wrX d ((x.extractLsb' 0 8).signExtend 64) 1) ∧
    exec (.sextH g d s) z = .next (z.wrX d ((x.extractLsb' 0 16).signExtend 64) 1) ∧
    exec (.sextW g d s) z = .next (z.wrX d ((x.extractLsb' 0 32).signExtend 64) 1) ∧
    exec (.zextB g d s) z = .next (z.wrX d (BitVec.ofNat 64 (x.toNat % 2 ^ 8)) 1) ∧
    exec (.zextH g d s) z = .next (z.wrX d (BitVec.ofNat 64 (x.toNat % 2 ^ 16)) 1) ∧
    exec (.zextW g d s) z = .next (z.wrX d (BitVec.ofNat 64 (x.toNat % 2 ^ 32)) 1))

/-- R143, R144: the immediate forms act as their register forms with the immediate in place of X[t], which the encoding gives sign-extended to ADDI,
ANDI, ORI, XORI and MOVI, and as a shift count below 64 (32 for .w); MOVHI shifts 21 bits in. -/
def Obligations.ImmediateResults : Prop :=
  ∀ (z : State) (g : BitVec 4) (d s : BitVec 5) (imm : BitVec 15) (sh : BitVec 6) (sw : BitVec 5) (l : BitVec 21), z.opP g = true →
    let x := z.opX s
    let v : Word := imm.signExtend 64
    exec (.addi g d s imm) z = .next (z.wrX d (BitVec.ofInt 64 (x.toInt + imm.toInt)) 1) ∧
    exec (.addiW g d s imm) z = .next (z.wrX d (word32 (low x + imm.toInt)) 1) ∧
    exec (.andi g d s imm) z = .next (z.wrX d (x &&& v) 1) ∧
    exec (.ori g d s imm) z = .next (z.wrX d (x ||| v) 1) ∧
    exec (.xori g d s imm) z = .next (z.wrX d (x ^^^ v) 1) ∧
    exec (.shli g d s sh) z = .next (z.wrX d (BitVec.ofNat 64 (x.toNat * 2 ^ sh.toNat)) 1) ∧
    exec (.shliW g d s sw) z = .next (z.wrX d (word32 (lowU x * 2 ^ sw.toNat)) 1) ∧
    exec (.shri g d s sh) z = .next (z.wrX d (BitVec.ofNat 64 (x.toNat / 2 ^ sh.toNat)) 1) ∧
    exec (.shriW g d s sw) z = .next (z.wrX d (word32 (lowU x / 2 ^ sw.toNat : Nat)) 1) ∧
    exec (.srai g d s sh) z = .next (z.wrX d (BitVec.ofInt 64 (x.toInt / 2 ^ sh.toNat)) 1) ∧
    exec (.sraiW g d s sw) z = .next (z.wrX d (word32 (low x / 2 ^ sw.toNat)) 1) ∧
    exec (.movi g d l) z = .next (z.wrX d (BitVec.ofInt 64 l.toInt) 1) ∧
    exec (.movhi g d l) z = .next (z.wrX d (BitVec.ofNat 64 ((z.opX d).toNat * 2 ^ 21 + l.toNat)) 1)

/-- R145: CMP and CMPI under the conditions of R106, signed on the values as integers and unsigned on the 64-bit patterns. -/
def Obligations.CompareResults : Prop :=
  ∀ (z : State) (g : BitVec 4) (d : BitVec 3) (s t : BitVec 5) (imm : BitVec 13), z.opP g = true →
    let x := z.opX s
    let y := z.opX t
    let v : Word := imm.signExtend 64
    exec (.cmpEq g d s t) z = .next (z.wrP d (decide (x = y)) 1) ∧
    exec (.cmpNe g d s t) z = .next (z.wrP d (decide (x ≠ y)) 1) ∧
    exec (.cmpLt g d s t) z = .next (z.wrP d (decide (x.toInt < y.toInt)) 1) ∧
    exec (.cmpLe g d s t) z = .next (z.wrP d (decide (x.toInt ≤ y.toInt)) 1) ∧
    exec (.cmpLtu g d s t) z = .next (z.wrP d (decide (x.toNat < y.toNat)) 1) ∧
    exec (.cmpLeu g d s t) z = .next (z.wrP d (decide (x.toNat ≤ y.toNat)) 1) ∧
    exec (.cmpiEq g d s imm) z = .next (z.wrP d (decide (x = v)) 1) ∧
    exec (.cmpiNe g d s imm) z = .next (z.wrP d (decide (x ≠ v)) 1) ∧
    exec (.cmpiLt g d s imm) z = .next (z.wrP d (decide (x.toInt < imm.toInt)) 1) ∧
    exec (.cmpiLe g d s imm) z = .next (z.wrP d (decide (x.toInt ≤ imm.toInt)) 1) ∧
    exec (.cmpiGt g d s imm) z = .next (z.wrP d (decide (imm.toInt < x.toInt)) 1) ∧
    exec (.cmpiGe g d s imm) z = .next (z.wrP d (decide (imm.toInt ≤ x.toInt)) 1) ∧
    exec (.cmpiLtu g d s imm) z = .next (z.wrP d (decide (x.toNat < v.toNat)) 1) ∧
    exec (.cmpiLeu g d s imm) z = .next (z.wrP d (decide (x.toNat ≤ v.toNat)) 1) ∧
    exec (.cmpiGtu g d s imm) z = .next (z.wrP d (decide (v.toNat < x.toNat)) 1) ∧
    exec (.cmpiGeu g d s imm) z = .next (z.wrP d (decide (v.toNat ≤ x.toNat)) 1)

/-- Barriers (R133), time (R135) and the system registers (R136): BARJ remembers the generation and joins, BARW passes once the generation has changed;
TIME and RDSR write an a register; WRSR writes SR_FFLAGS at once and the other registers for later bundles (log entry 15). SEL (R146), the
predicate forms (R147) and the cross-cluster copies (R148), readable from the second bundle after (R80); XBA.h reads the raw bits of a handle
register, 0 for an invalid one. -/
def Obligations.SelectMoveAndBarrierForms : Prop :=
  (∀ (z : State) (g : BitVec 4) (k : BitVec 3) (d : BitVec 5) (sr : BitVec 12), z.opP g = true →
    exec (.barj g k) z = .next ((z.modMe fun x =>
      { x with barGen := x.barGen.set false k.toNat (z.barrier z.iss.core k.toNat).gen }).post [.barrierArrival z.iss.core z.iss.ctx k.toNat]) ∧
    ((z.barrier z.iss.core k.toNat).gen ≠ z.me.barGen.get false k.toNat → exec (.barw g k) z = .next z) ∧
    exec (.timeDom g d) z = .next (z.wrA d (BitVec.ofNat 64 (z.ticks / 360360)) 2) ∧
    exec (.timeCyc g d) z = .next (z.wrA d (BitVec.ofNat 64 z.cycle) 2) ∧
    (srKnown sr.toNat = true → (sr = 0x028 → z.gmmaPending = false) → (sr = 0x008 → z.me.lateFlags = []) →
      exec (.rdsr g d sr) z = .next (z.wrA d (z.readSr z.iss.core z.iss.ctx sr.toNat) 2)) ∧
    (srKnown sr.toNat = false →
      exec (.rdsr g d sr) z = .next (z.trapBundle .srUndef 0) ∧ exec (.wrsr g d sr) z = .next (z.trapBundle .srUndef 0)) ∧
    (srKnown sr.toNat = true → ((sr = 0x028 ∧ z.gmmaPending = true) ∨ (sr = 0x008 ∧ z.me.lateFlags ≠ [])) →
      exec (.rdsr g d sr) z = .next (blocked z)) ∧
    (srAny sr.toNat = true ∨ (srFirmware sr.toNat = true ∧ z.isFirmware z.iss.core z.iss.ctx = true) →
      (sr = 0x008 → z.me.lateFlags = []) → exec (.wrsr g d sr) z = .next (if sr = 0x008 then z.writeSr z.iss.core z.iss.ctx 0x008 (z.opA d)
        else { z with iss := { z.iss with wrsr := some (sr, z.opA d) } })) ∧
    (srKnown sr.toNat = true → srAny sr.toNat = false → (srFirmware sr.toNat = true → z.isFirmware z.iss.core z.iss.ctx = false) →
      exec (.wrsr g d sr) z = .next (z.trapBundle .privSr 0))) ∧
  (∀ (z : State) (g p ps pt : BitVec 4) (d s t : BitVec 5) (pd : BitVec 3) (h : BitVec 6), z.opP g = true →
    (z.opP p = true → exec (.sel g d s t p) z = .next (z.wrX d (z.opX s) 1)) ∧
    (z.opP p = false → exec (.sel g d s t p) z = .next (z.wrX d (z.opX t) 1)) ∧
    exec (.pand g pd ps pt) z = .next (z.wrP pd (z.opP ps && z.opP pt) 1) ∧
    exec (.por g pd ps pt) z = .next (z.wrP pd (z.opP ps || z.opP pt) 1) ∧
    exec (.pxor g pd ps pt) z = .next (z.wrP pd (xor (z.opP ps) (z.opP pt)) 1) ∧
    exec (.pnot g pd ps) z = .next (z.wrP pd (!z.opP ps) 1) ∧
    exec (.xab g d s) z = .next (z.wrB d (z.opA s) 2 true) ∧
    exec (.xba g d s) z = .next (z.wrA d (z.opB s) 2 true) ∧
    (z.opH h = none → exec (.xbaH g d h) z = .next (z.wrA d 0 2 true)) ∧
    (∀ v, z.opH h = some v → exec (.xbaH g d h) z = .next (z.wrA d
      (BitVec.ofNat 64 (2 ^ 63 + (if v.fresh then 2 ^ 62 else 0) + v.e.toNat * 2 ^ 40 + v.tile.toNat)) 2 true)))

/-! ### Scalar floating point -/

/-- R149, R150: the rounding forms compute the exact value of their operands and round it once to FP32 in the mode of the form; the
result is zero-extended and the flags are ORed into SR_FFLAGS. FFMA reads A[d]. -/
def Obligations.FloatArithmetic : Prop :=
  ∀ (z : State) (g : BitVec 4) (d s t : BitVec 5) (rm : BitVec 2), z.opP g = true →
    let x := fp32.decode ((z.opA s).toNat % 2 ^ 32)
    let y := fp32.decode ((z.opA t).toNat % 2 ^ 32)
    let c := fp32.decode ((z.opA d).toNat % 2 ^ 32)
    let put (lat : Nat) (v : Machine.Num × Flags) : State :=
      z.wrF d lat (BitVec.ofNat 64 (fp32.convert rm false v.1).1, (fp32.convert rm false v.1).2 ||| v.2)
    exec (.fadd g d s t rm) z = .next (put 4 (addExact rm x y)) ∧
    exec (.fsub g d s t rm) z = .next (put 4 (addExact rm x y.neg)) ∧
    exec (.fmul g d s t rm) z = .next (put 4 (mulExact x y)) ∧
    exec (.ffma g d s t rm) z = .next (put 4 (fmaExact rm x y c)) ∧
    exec (.fdiv g d s t rm) z = .next (put 12 (divExact x y)) ∧
    exec (.fsqrt g d s rm) z = .next (put 14 (sqrtExact x))

/-- R150, special cases at the level of bit patterns: a NaN operand gives 0x7FC0_0000, with NV when one is signalling; a finite nonzero value by a zero
gives an infinity of the sign of the quotient with DZ; zero by zero gives the canonical NaN with NV; the root of -0 is -0, that of any other
negative number the canonical NaN with NV. R151, R152: FMIN and FMAX choose an operand, a NaN losing to a number; FCMP orders the values; NV for a
signalling NaN, for .lt and .le for any NaN. -/
def Obligations.FloatSpecialCasesAndChoices : Prop :=
  (∀ (z : State) (g : BitVec 4) (d s t : BitVec 5) (rm : BitVec 2), z.opP g = true →
    let a := (z.opA s).setWidth 32
    let b := (z.opA t).setWidth 32
    let nv : BitVec 5 := if signalling32 a || signalling32 b then 16 else 0
    (nan32 a = true ∨ nan32 b = true →
      exec (.fadd g d s t rm) z = .next (z.wrF d 4 (0x7FC00000, nv)) ∧ exec (.fsub g d s t rm) z = .next (z.wrF d 4 (0x7FC00000, nv)) ∧
      exec (.fmul g d s t rm) z = .next (z.wrF d 4 (0x7FC00000, nv)) ∧ exec (.fdiv g d s t rm) z = .next (z.wrF d 12 (0x7FC00000, nv))) ∧
    (finite32 a = true → zero32 a = false → zero32 b = true →
      exec (.fdiv g d s t rm) z = .next (z.wrF d 12 (if xor (a.getLsbD 31) (b.getLsbD 31) then 0xFF800000 else 0x7F800000, 8))) ∧
    (zero32 a = true → zero32 b = true → exec (.fdiv g d s t rm) z = .next (z.wrF d 12 (0x7FC00000, 16))) ∧
    (a = 0x80000000 → exec (.fsqrt g d s rm) z = .next (z.wrF d 14 (0x80000000, 0))) ∧
    (a.getLsbD 31 = true → zero32 a = false → nan32 a = false → exec (.fsqrt g d s rm) z = .next (z.wrF d 14 (0x7FC00000, 16)))) ∧
  (∀ (z : State) (g : BitVec 4) (d s t : BitVec 5) (pd : BitVec 3), z.opP g = true →
    let x := fp32.decode ((z.opA s).toNat % 2 ^ 32)
    let y := fp32.decode ((z.opA t).toNat % 2 ^ 32)
    let sig : Flags := if x.signalling || y.signalling then 16 else 0
    let any : Flags := if x.isNan || y.isNan then 16 else 0
    let nums := !x.isNan && !y.isNan
    exec (.fmin g d s t) z = .next (z.wrF d 4 (BitVec.ofNat 64 (fp32.convert rne false (x.min y)).1, sig)) ∧
    exec (.fmax g d s t) z = .next (z.wrF d 4 (BitVec.ofNat 64 (fp32.convert rne false (x.max y)).1, sig)) ∧
    exec (.fcmpEq g pd s t) z = .next ((z.wrP pd (nums && decide (x.cmp y = 0)) 4).raise sig 4) ∧
    exec (.fcmpLt g pd s t) z = .next ((z.wrP pd (nums && decide (x.cmp y < 0)) 4).raise any 4) ∧
    exec (.fcmpLe g pd s t) z = .next ((z.wrP pd (nums && decide (x.cmp y ≤ 0)) 4).raise any 4) ∧
    exec (.fcmpUn g pd s t) z = .next ((z.wrP pd (!nums) 4).raise sig 4) ∧
    exec (.fcmpNe g pd s t) z = .next ((z.wrP pd (!(nums && decide (x.cmp y = 0))) 4).raise sig 4))

/-- R153: the eight conversions; the operand is read as its format says, the result follows R25 and is zero-extended. -/
def Obligations.FloatConversions : Prop :=
  ∀ (z : State) (g : BitVec 4) (d s : BitVec 5) (rm : BitVec 2) (sat : Bool), z.opP g = true →
    let w := z.opA s
    let put (v : Nat × Flags) : State := z.wrF d 4 (BitVec.ofNat 64 v.1, v.2)
    exec (.fcvtF32S64 g d s rm sat) z = .next (put (fp32.convert rm sat (Num.ofInt w.toInt))) ∧
    exec (.fcvtF32Z64 g d s rm sat) z = .next (put (fp32.convert rm sat (Num.ofInt w.toNat))) ∧
    exec (.fcvtS64F32 g d s rm sat) z = .next (put (convertInt 64 true 0 rm (fp32.decode (w.toNat % 2 ^ 32)))) ∧
    exec (.fcvtZ64F32 g d s rm sat) z = .next (put (convertInt 64 false 0 rm (fp32.decode (w.toNat % 2 ^ 32)))) ∧
    exec (.fcvtF32Bf16 g d s rm sat) z = .next (put (fp32.convert rm sat (bf16.decode (w.toNat % 2 ^ 16)))) ∧
    exec (.fcvtBf16F32 g d s rm sat) z = .next (put (bf16.convert rm sat (fp32.decode (w.toNat % 2 ^ 32)))) ∧
    exec (.fcvtF32F16 g d s rm sat) z = .next (put (fp32.convert rm sat (fp16.decode (w.toNat % 2 ^ 16)))) ∧
    exec (.fcvtF16F32 g d s rm sat) z = .next (put (fp16.convert rm sat (fp32.decode (w.toNat % 2 ^ 32))))

/-- R19, R25: a number that a format holds converts to itself in every rounding mode and raises no flag: for FP32, BF16, FP16 and every
programmable format of a valid format word. -/
def Obligations.FormatsHoldTheirNumbers : Prop :=
  ∀ (w : BitVec 16) (f : FloatFmt) (rm : BitVec 2) (code : Nat), elemOf w = some (.float f) → code < 2 ^ (1 + f.ebits + f.mbits) →
    (f.decode code).isNan = false → f.convert rm false (f.decode code) = (code, 0)

/-! ### Register forms: what they leave -/

/-- Writing a register (R79, R102): the register holds the value, every other register what it held; a write to a0 or b0 is discarded and leaves the
whole machine as it was. Frame of the register forms (integer, immediate, compare, predicate, cross-cluster, floating point, TIME): whatever the guard
reads, they answer a next state, and nothing changes but the destination that their encoding names and, for the floating forms, the flags that
SR_FFLAGS takes when the result is readable (R149). -/
def Obligations.RegisterFrames : Prop :=
  (∀ (z : State) (n : BitVec 5) (p : BitVec 3) (v : Word) (b : Bool) (lat : Nat) (cross : Bool),
    (n ≠ 0 → (z.wrA n v lat cross).me.regs.a.get 0 n.toNat = v ∧ WritesOnly [.a n.toNat] false z (z.wrA n v lat cross)) ∧
    (n ≠ 0 → (z.wrB n v lat cross).me.regs.b.get 0 n.toNat = v ∧ WritesOnly [.b n.toNat] false z (z.wrB n v lat cross)) ∧
    z.wrA 0 v lat cross = z ∧ z.wrB 0 v lat cross = z ∧
    (p ≠ 0 → (z.wrP p b lat).me.regs.p.get false p.toNat = b ∧ WritesOnly [.p p.toNat] false z (z.wrP p b lat)) ∧
    (z.iss.slot < 2 → z.wrX n v lat = z.wrA n v lat) ∧ (2 ≤ z.iss.slot → z.wrX n v lat = z.wrB n v lat)) ∧
  (∀ (i : Instr) (z : State), i.isRegisterForm = true →
    ∃ t, exec i z = .next t ∧ WritesOnly (i.dests z.iss.slot) i.isFloatForm z t)

/-! ### The local store -/

/-- R156, R158, R159: every load of the local store and every store to it, from the offset B[s] + off x size or the index B[s] + B[t]; with the tag test
of R54 and the waits of R84 and R278. That a store meets the tag which an STH of an earlier slot of its bundle has just set is the model's choice (log
entry 86). -/
def Obligations.LocalLoadsAndStores : Prop :=
  (∀ (z : State) (g : BitVec 4) (d s t : BitVec 5) (off : BitVec 12), z.opP g = true →
    let at' (size : Nat) : Word := BitVec.ofInt 64 ((z.opB s).toNat + off.toInt * size)
    let ix : Word := BitVec.ofNat 64 ((z.opB s).toNat + (z.opB t).toNat)
    LoadsLs z (.ldsD g d s off) d (at' 8) 8 false .plain ∧
    LoadsLs z (.ldsW g d s off) d (at' 4) 4 true .plain ∧
    LoadsLs z (.ldsWu g d s off) d (at' 4) 4 false .plain ∧
    LoadsLs z (.ldsH g d s off) d (at' 2) 2 true .plain ∧
    LoadsLs z (.ldsHu g d s off) d (at' 2) 2 false .plain ∧
    LoadsLs z (.ldsB g d s off) d (at' 1) 1 true .plain ∧
    LoadsLs z (.ldsBu g d s off) d (at' 1) 1 false .plain ∧
    LoadsLs z (.ldsFw g d s off) d (at' 8) 8 false .fw ∧
    LoadsLs z (.ldsFc g d s off) d (at' 8) 8 false .fc ∧
    LoadsLs z (.ldsXD g d s t) d ix 8 false .plain ∧
    LoadsLs z (.ldsXW g d s t) d ix 4 true .plain ∧
    LoadsLs z (.ldsXWu g d s t) d ix 4 false .plain ∧
    LoadsLs z (.ldsXH g d s t) d ix 2 true .plain ∧
    LoadsLs z (.ldsXHu g d s t) d ix 2 false .plain ∧
    LoadsLs z (.ldsXB g d s t) d ix 1 true .plain ∧
    LoadsLs z (.ldsXBu g d s t) d ix 1 false .plain) ∧
  (∀ (z : State) (g : BitVec 4) (d s t : BitVec 5) (off : BitVec 12), z.opP g = true →
    let at' (size : Nat) : Word := BitVec.ofInt 64 ((z.opB s).toNat + off.toInt * size)
    let ix : Word := BitVec.ofNat 64 ((z.opB s).toNat + (z.opB t).toNat)
    StoresLs z (.stsD g d s off) d (at' 8) 8 .plain ∧
    StoresLs z (.stsW g d s off) d (at' 4) 4 .plain ∧
    StoresLs z (.stsH g d s off) d (at' 2) 2 .plain ∧
    StoresLs z (.stsB g d s off) d (at' 1) 1 .plain ∧
    StoresLs z (.stsFs g d s off) d (at' 8) 8 .fs ∧
    StoresLs z (.stsFe g d s off) d (at' 8) 8 .fe ∧
    StoresLs z (.stsXD g d s t) d ix 8 .plain ∧
    StoresLs z (.stsXW g d s t) d ix 4 .plain ∧
    StoresLs z (.stsXH g d s t) d ix 2 .plain ∧
    StoresLs z (.stsXB g d s t) d ix 1 .plain)

/-- Frames of stores. Bytes written to the local store read as they were given, every byte outside the run reads as before, and of the core
nothing but those bytes changes; a full bit that is written changes the bit of its own granule alone. A store to mortar memory that is done
changes the bytes at the address that its operands translate to, and no register, no other byte, no tag. -/
def Obligations.StoreFrames : Prop :=
  (∀ (k : Core) (o : Nat) (bs : List Byte) (f : Bool) (b : Nat),
    (∀ n, n < bs.length → (k.lsWriteBytes o bs).lsByte (o + n) = bs.getD n 0) ∧
    ((b < o ∨ o + bs.length ≤ b) → (k.lsWriteBytes o bs).lsByte b = k.lsByte b) ∧
    k.lsWriteBytes o bs = { k with ls := (k.lsWriteBytes o bs).ls } ∧
    (k.setFull o f).isFull o = f ∧ (b / 16 ≠ o / 16 → (k.setFull o f).isFull b = k.isFull b) ∧
    k.setFull o f = { k with full := (k.setFull o f).full }) ∧
  (∀ (z : State) (g : BitVec 4) (d s t : BitVec 5) (off : BitVec 12), z.opP g = true →
    let at' (size : Nat) : Word := BitVec.ofInt 64 ((z.opB s).toNat + off.toInt * size)
    let ix : Word := BitVec.ofNat 64 ((z.opB s).toNat + (z.opB t).toNat)
    FramesStore z (.stmD g d s off) d (at' 8) 8 ∧ FramesStore z (.stmW g d s off) d (at' 4) 4 ∧
    FramesStore z (.stmH g d s off) d (at' 2) 2 ∧ FramesStore z (.stmB g d s off) d (at' 1) 1 ∧
    FramesStore z (.stmXD g d s t) d ix 8 ∧ FramesStore z (.stmXW g d s t) d ix 4 ∧
    FramesStore z (.stmXH g d s t) d ix 2 ∧ FramesStore z (.stmXB g d s t) d ix 1)

/-- Frame of memory: a slot form that stores nothing (all but those of `Instr.storesMemory`), whatever it does else, leaves every byte of
memory as it was; the frames of the tile table and of the shadow pools show what these hold and are no memory of their own (R46, R273). -/
def Obligations.MemoryFrame : Prop :=
  ∀ (i : Instr) (z t : State), isSlotForm i = true → i.storesMemory = false → exec i z = .next t →
    t.mem = z.mem ∧ ∀ a, ¬ ShowsOther a → t.byte a = z.byte a

/-! ### Mortar memory -/

/-- R156, R157, R160, R161, R289, R309: every load of mortar memory and every store to it: the checks, the waits for order, for the
line, for its shadow, and the access. That the word of the residency answer reads as a
free value is the model's choice (log entry 13), and so is that an access through a REMOTE window is checked at its peer, which keeps the word for it,
before it is sent (log entry 27). -/
def Obligations.MortarLoadsAndStores : Prop :=
  (∀ (z : State) (g : BitVec 4) (d s t : BitVec 5) (off : BitVec 12), z.opP g = true →
    let at' (size : Nat) : Word := BitVec.ofInt 64 ((z.opB s).toNat + off.toInt * size)
    let ix : Word := BitVec.ofNat 64 ((z.opB s).toNat + (z.opB t).toNat)
    LoadsMortar z (.ldmD g d s off) d (at' 8) 8 false ∧
    LoadsMortar z (.ldmW g d s off) d (at' 4) 4 true ∧
    LoadsMortar z (.ldmWu g d s off) d (at' 4) 4 false ∧
    LoadsMortar z (.ldmH g d s off) d (at' 2) 2 true ∧
    LoadsMortar z (.ldmHu g d s off) d (at' 2) 2 false ∧
    LoadsMortar z (.ldmB g d s off) d (at' 1) 1 true ∧
    LoadsMortar z (.ldmBu g d s off) d (at' 1) 1 false ∧
    LoadsMortar z (.ldmXD g d s t) d ix 8 false ∧
    LoadsMortar z (.ldmXW g d s t) d ix 4 true ∧
    LoadsMortar z (.ldmXWu g d s t) d ix 4 false ∧
    LoadsMortar z (.ldmXH g d s t) d ix 2 true ∧
    LoadsMortar z (.ldmXHu g d s t) d ix 2 false ∧
    LoadsMortar z (.ldmXB g d s t) d ix 1 true ∧
    LoadsMortar z (.ldmXBu g d s t) d ix 1 false) ∧
  (∀ (z : State) (g : BitVec 4) (d s t : BitVec 5) (off : BitVec 12), z.opP g = true →
    let at' (size : Nat) : Word := BitVec.ofInt 64 ((z.opB s).toNat + off.toInt * size)
    let ix : Word := BitVec.ofNat 64 ((z.opB s).toNat + (z.opB t).toNat)
    StoresMortar z (.stmD g d s off) d (at' 8) 8 ∧
    StoresMortar z (.stmW g d s off) d (at' 4) 4 ∧
    StoresMortar z (.stmH g d s off) d (at' 2) 2 ∧
    StoresMortar z (.stmB g d s off) d (at' 1) 1 ∧
    StoresMortar z (.stmXD g d s t) d ix 8 ∧
    StoresMortar z (.stmXW g d s t) d ix 4 ∧
    StoresMortar z (.stmXH g d s t) d ix 2 ∧
    StoresMortar z (.stmXB g d s t) d ix 1)

/-- R157, R161, R162: the ten atomics at both widths, in every case; the old value is sign-extended into B[d], and .cas compares it with B[d]. R163,
R264: the combining adds at both widths, in every case; sums of both widths never lie on one slot pair. That a poisoned unit does not stop a combining
add is the model's choice (log entry 32), and so is that an access through a REMOTE window is checked at its peer, which keeps the word for it, before
it is sent (log entry 27). -/
def Obligations.AtomicsAndCombiningAdds : Prop :=
  (∀ (z : State) (g : BitVec 4) (d s t : BitVec 5), z.opP g = true →
    Atomic z (.atomAdd g d s t) d (z.opB s) (z.opB t) (z.opB d) 8 0
      (fun old v _ => (old + v) % 2 ^ 64) (fun _ _ => true) ∧
    Atomic z (.atomAddW g d s t) d (z.opB s) (z.opB t) (z.opB d) 4 0
      (fun old v _ => (old + v) % 2 ^ 32) (fun _ _ => true) ∧
    Atomic z (.atomAnd g d s t) d (z.opB s) (z.opB t) (z.opB d) 8 1
      (fun old v _ => old &&& v) (fun _ _ => true) ∧
    Atomic z (.atomAndW g d s t) d (z.opB s) (z.opB t) (z.opB d) 4 1
      (fun old v _ => old &&& v) (fun _ _ => true) ∧
    Atomic z (.atomOr g d s t) d (z.opB s) (z.opB t) (z.opB d) 8 2
      (fun old v _ => old ||| v) (fun _ _ => true) ∧
    Atomic z (.atomOrW g d s t) d (z.opB s) (z.opB t) (z.opB d) 4 2
      (fun old v _ => old ||| v) (fun _ _ => true) ∧
    Atomic z (.atomXor g d s t) d (z.opB s) (z.opB t) (z.opB d) 8 3
      (fun old v _ => old ^^^ v) (fun _ _ => true) ∧
    Atomic z (.atomXorW g d s t) d (z.opB s) (z.opB t) (z.opB d) 4 3
      (fun old v _ => old ^^^ v) (fun _ _ => true) ∧
    Atomic z (.atomMin g d s t) d (z.opB s) (z.opB t) (z.opB d) 8 4
      (fun old v _ => if signedOf 64 v < signedOf 64 old then v else old) (fun _ _ => true) ∧
    Atomic z (.atomMinW g d s t) d (z.opB s) (z.opB t) (z.opB d) 4 4
      (fun old v _ => if signedOf 32 v < signedOf 32 old then v else old) (fun _ _ => true) ∧
    Atomic z (.atomMax g d s t) d (z.opB s) (z.opB t) (z.opB d) 8 5
      (fun old v _ => if signedOf 64 old < signedOf 64 v then v else old) (fun _ _ => true) ∧
    Atomic z (.atomMaxW g d s t) d (z.opB s) (z.opB t) (z.opB d) 4 5
      (fun old v _ => if signedOf 32 old < signedOf 32 v then v else old) (fun _ _ => true) ∧
    Atomic z (.atomMinu g d s t) d (z.opB s) (z.opB t) (z.opB d) 8 6
      (fun old v _ => min old v) (fun _ _ => true) ∧
    Atomic z (.atomMinuW g d s t) d (z.opB s) (z.opB t) (z.opB d) 4 6
      (fun old v _ => min old v) (fun _ _ => true) ∧
    Atomic z (.atomMaxu g d s t) d (z.opB s) (z.opB t) (z.opB d) 8 7
      (fun old v _ => max old v) (fun _ _ => true) ∧
    Atomic z (.atomMaxuW g d s t) d (z.opB s) (z.opB t) (z.opB d) 4 7
      (fun old v _ => max old v) (fun _ _ => true) ∧
    Atomic z (.atomSwap g d s t) d (z.opB s) (z.opB t) (z.opB d) 8 8
      (fun _ v _ => v) (fun _ _ => true) ∧
    Atomic z (.atomSwapW g d s t) d (z.opB s) (z.opB t) (z.opB d) 4 8
      (fun _ v _ => v) (fun _ _ => true) ∧
    Atomic z (.atomCas g d s t) d (z.opB s) (z.opB t) (z.opB d) 8 9
      (fun _ v _ => v) (fun old c => old == c) ∧
    Atomic z (.atomCasW g d s t) d (z.opB s) (z.opB t) (z.opB d) 4 9
      (fun _ v _ => v) (fun old c => old == c)) ∧
  (∀ (z : State) (g : BitVec 4) (s t : BitVec 5), z.opP g = true →
    Combines z (.caddD g s t) (z.opB s) (z.opB t) 8 ∧ Combines z (.caddW g s t) (z.opB s) (z.opB t) 4)

/-- R164, R165, R269: a LEASE is refused for a bad count, a line that is not of this package or is of host memory, or a third line; on a line not yet
leased it takes a slot and waits; once the line is held it completes, and on a line that has a slot, be it expired, it renews the count. UNLEASE frees
the slot and says whether the lease was live. R166 to R168: SNAP over whole lines of this package's memory takes a register, a new generation and the
level after the enclosing snapshots of its own, and writes the token; ACCEPT and REJECT of a token end the register it names, REJECT those within it
first; a token that names none raises SNAP_BAD. -/
def Obligations.LeasesAndSnapshots : Prop :=
  (∀ (z : State) (g : BitVec 4) (d s t : BitVec 5), z.opP g = true →
    let ea := z.opB s
    let n := (z.opB t).toNat
    (n = 0 ∨ z.leasemax.toNat < n → exec (.lease g s t) z = .next (z.trapBundle .leaseBad 0)) ∧
    (0 < n → n ≤ z.leasemax.toNat →
      (∀ pa f, Reaches z .store ea 1 pa f → paTier pa = 3 → exec (.lease g s t) z = .next (z.trapBundle .leaseRemote ea)) ∧
      (∀ x f, Far z .store ea 1 x f → exec (.lease g s t) z = .next (z.trapBundle .leaseRemote ea)) ∧
      (∀ pa f, Reaches z .store ea 1 pa f → paTier pa ≠ 3 →
        (¬ Ordered z → (z.me.slotOn (lineOf pa) ≠ none ∨ z.me.leases.length < 2) → exec (.lease g s t) z = .next (blocked (kept z f))) ∧
        (z.me.slotOn (lineOf pa) = none → 2 ≤ z.me.leases.length → exec (.lease g s t) z = .next (z.trapBundle .leaseDepth ea)) ∧
        (Ordered z →
          (∀ l, z.me.slotOn (lineOf pa) = some l →
            (z.me.reply.leased = some (lineOf pa) → exec (.lease g s t) z = .next ((kept z f).note 2 ea)) ∧
            (z.me.reply.leased ≠ some (lineOf pa) → l.state ≠ .acquiring →
              exec (.lease g s t) z = .next (((kept z f).modMe fun k =>
                k.setLease { l with state := .held, cycles := n, until_ := z.cycle + n }).note 2 ea)) ∧
            (z.me.reply.leased ≠ some (lineOf pa) → l.state = .acquiring →
              ∃ y, exec (.lease g s t) z = .next y ∧ y.iss.status = .blocked ∧ y.me.leases = z.me.leases)) ∧
          (z.me.slotOn (lineOf pa) = none → z.me.leases.length < 2 →
            ∃ y, exec (.lease g s t) z = .next y ∧ y.iss.status = .blocked ∧
              y.me.leases = z.me.leases ++ [⟨lineOf pa, .acquiring, n, 0⟩])))) ∧
    (∀ pa f, Reaches z .unlease ea 1 pa f →
      (z.me.accessing = true → exec (.unlease g d s) z = .next (blocked (kept z f))) ∧
      (z.me.accessing = false →
        (z.me.slotOn (lineOf pa) = none → exec (.unlease g d s) z = .next ((kept z f).wrB d 0 1)) ∧
        (∀ l, z.me.slotOn (lineOf pa) = some l →
          let y := (kept z f).modMe fun k => { k with leases := k.leases.filter fun m => m.line != lineOf pa }
          (l.live = false → exec (.unlease g d s) z = .next (y.wrB d 0 1)) ∧
          (l.live = true → y.leasedOn z.iss.core (lineOf pa) = true → exec (.unlease g d s) z = .next (y.wrB d 1 1)) ∧
          (l.live = true → y.leasedOn z.iss.core (lineOf pa) = false →
            exec (.unlease g d s) z = .next ((y.releaseProbes z.iss.core (lineOf pa)).wrB d 1 1)))))) ∧
  (∀ (z : State) (g : BitVec 4) (d s t : BitVec 5), z.opP g = true →
    let va := z.opB s
    let len := (z.opB t).toNat
    let own (e : Nat × Snap) : Bool := z.ownSnap z.iss.core z.iss.ctx e.2
    (va.toNat % 128 ≠ 0 ∨ len = 0 ∨ len % 128 ≠ 0 ∨ 2 ^ 21 < va.toNat % 2 ^ 21 + len → exec (.snap g d s t) z = .next (z.trapBundle .snapBad va)) ∧
    (∀ pa f, Reaches z .store va 128 pa f → 0 < len → len % 128 = 0 → va.toNat % 2 ^ 21 + len ≤ 2 ^ 21 →
      (paTier pa = 3 → exec (.snap g d s t) z = .next (z.trapBundle .snapBad va)) ∧
      (paTier pa ≠ 3 →
        let k : Snap := ⟨z.snapGen + 1, 0, z.owner z.iss.core z.iss.ctx, z.ownWindow z.iss.core z.iss.ctx, lineOf pa, len / 128⟩
        ((∃ e ∈ z.snaps, k.meets e.2 = true ∧ (own e = false ∨ k.within e.2 = false)) →
          exec (.snap g d s t) z = .next (z.trapBundle .snapOverlap va)) ∧
        ((∀ e ∈ z.snaps, k.meets e.2 = true → own e = true ∧ k.within e.2 = true) →
          let level := 1 + (z.snaps.filter fun e => own e && k.within e.2).length
          (4 < level → exec (.snap g d s t) z = .next (z.trapBundle .snapDepth va)) ∧
          (level ≤ 4 → z.freeSnap = none → exec (.snap g d s t) z = .next (z.trapBundle .snapNoreg va)) ∧
          (∀ r, level ≤ 4 → z.freeSnap = some r →
            ((z.me.accessing = true ∨ ∃ e ∈ z.reserves, k.covers e.2 = true) → exec (.snap g d s t) z = .next (blocked (kept z f))) ∧
            (z.me.accessing = false → (∀ e ∈ z.reserves, k.covers e.2 = false) → exec (.snap g d s t) z = .next (({ kept z f with
              snaps := z.snaps.put r { k with level := level }, snapGen := z.snapGen + 1, freeUse := z.freeUse + 1 }).wrB d
                (BitVec.ofNat 64 (r * 256 + level)) 1)))))) ∧
    (z.snapNamed (z.opB s) = none →
      exec (.accept g s) z = .next (z.trapBundle .snapBad 0) ∧ exec (.reject g s) z = .next (z.trapBundle .snapBad 0)) ∧
    (∀ r k, z.snapNamed (z.opB s) = some (r, k) →
      (z.snapsInside r k ≠ [] → exec (.accept g s) z = .next (z.trapBundle .snapOrder 0)) ∧
      (z.snapsInside r k = [] →
        (z.me.accessing = true → exec (.accept g s) z = .next (blocked z)) ∧
        (z.me.accessing = false → exec (.accept g s) z = .next (z.acceptSnap r))) ∧
      (z.me.accessing = true → exec (.reject g s) z = .next (blocked z)) ∧
      (z.me.accessing = false →
        let y := z.endLeases z.iss.core z.iss.ctx k.covers
        (y.rangeLeasedByOther z.iss.core z.iss.ctx k = true → exec (.reject g s) z = .next (blocked y)) ∧
        (y.rangeLeasedByOther z.iss.core z.iss.ctx k = false → (∀ h ∈ y.shadows, y.lineQuiet h.line = true) →
          exec (.reject g s) z = .next (((y.snapsInside r k).map (·.1) ++ [r]).foldl State.rejectSnap y)))))

/-- R169, R54, R51: LDH moves a handle from a tagged word to a register and leaves the word zero and untagged; LDHD splits it between the two, with a
refill from its home where its weight is 1; STH moves it back; a word or register that does not suit traps. A word of mortar memory is met as a store
meets it (R161); through a REMOTE window the access is sent once the peer has checked it. That the access finds the word as the check did (log entry
27), that LDH and LDHD meet MEM_UNCORR at a poisoned word (log entry 32) and that all three wait in the local store as LDS and STS do (log entry 33) is
the model's reading. -/
def Obligations.HandleWords : Prop :=
  ∀ (z : State) (g : BitVec 4) (h : BitVec 6) (s : BitVec 5) (off : BitVec 6), z.opP g = true →
    let ea : Word := BitVec.ofInt 64 ((z.opB s).toNat + off.toInt * 8)
    let ldh : Instr := .ldh g h s off
    let ldhd : Instr := .ldhd g h s off
    let sth : Instr := .sth g h s off
    -- a word of the window
    (∀ o, WindowWord z ea o →
      (z.opH h = none → z.myCore.lsTag o = false →
        exec ldh z = .next (z.trapBundle .handleUntagged ea) ∧ exec ldhd z = .next (z.trapBundle .handleUntagged ea)) ∧
      (z.opH h = none → z.myCore.lsTag o = true →
        let v := z.myCore.readHandle o
        let waits : Prop := ¬ Ordered z ∨ z.lsWaits o 8 true = true
        (waits → exec ldh z = .next (blocked z) ∧ (v.e ≠ 0 → exec ldhd z = .next (blocked z))) ∧
        (Ordered z → z.lsWaits o 8 true = false →
          exec ldh z = .next ((z.wrH h (some v)).modMyCore fun k => k.clearWord o) ∧
          (v.e ≠ 0 → exec ldhd z = .next ((z.wrH h (some v.split)).modMyCore fun k => k.writeHandle o v.split))) ∧
        (v.e = 0 →
          (Unasked z → exec ldhd z = .next (asks z 3 v.tile (homePeer v.tile) (.refillRequest v.tile z.peer.toNat z.iss.core z.iss.ctx))) ∧
          (z.me.reply.asked = some (3, v.tile) → z.me.reply.refill = false → exec ldhd z = .next (held z)) ∧
          (z.me.reply.asked = some (3, v.tile) → z.me.reply.refill = true →
            (waits → exec ldhd z = .next (blocked (refilled z))) ∧
            (¬ waits → exec ldhd z = .next (((refilled z).wrH h (some v.split)).modMyCore fun k => k.writeHandle o v.split))))) ∧
      (∀ v, z.opH h = some v → z.me.isOpen v.tile = false →
        (z.myCore.lsTag o = true → exec sth z = .next (z.trapBundle .handleClobber ea)) ∧
        (z.myCore.lsTag o = false →
          ((¬ Ordered z ∨ z.lsWaits o 8 true = true) → exec sth z = .next (blocked z)) ∧
          (Ordered z → z.lsWaits o 8 true = false →
            exec sth z = .next ((z.wrH h none).modMyCore fun k => k.writeHandle o v))))) ∧
    -- a word of mortar memory
    (∀ pa f, MortarWord z ea pa f →
      (z.opH h = none →
        AwaitsLine z ldh f pa ∧ AwaitsLine z ldhd f pa ∧
        (Owned z pa →
          (z.tag pa = false → exec ldh z = .next (z.trapBundle .handleUntagged ea) ∧ exec ldhd z = .next (z.trapBundle .handleUntagged ea)) ∧
          (z.tag pa = true → z.poisoned pa 8 = true →
            exec ldh z = .next (z.trapBundle .memUncorr ea) ∧ exec ldhd z = .next (z.trapBundle .memUncorr ea)) ∧
          (z.tag pa = true → z.poisoned pa 8 = false → AwaitsShadow z ldh f pa ea ∧ AwaitsShadow z ldhd f pa ea)) ∧
        (mayWrite z pa → z.tag pa = true → z.poisoned pa 8 = false →
          let v := z.readHandle pa
          (¬ Released z → exec ldh z = .next (blocked (kept z f)) ∧ (v.e ≠ 0 → exec ldhd z = .next (blocked (kept z f)))) ∧
          (Released z →
            exec ldh z = .next (((((kept z f).wrH h (some v)).clearWord pa).wrote pa).note 2 ea) ∧
            (v.e ≠ 0 → exec ldhd z = .next (((((kept z f).wrH h (some v.split)).writeHandle pa v.split).wrote pa).note 2 ea))) ∧
          (v.e = 0 →
            (Unasked z → exec ldhd z = .next (asks (kept z f) 3 v.tile (homePeer v.tile)
              (.refillRequest v.tile z.peer.toNat z.iss.core z.iss.ctx))) ∧
            (z.me.reply.asked = some (3, v.tile) → z.me.reply.refill = false → exec ldhd z = .next (held (kept z f))) ∧
            (z.me.reply.asked = some (3, v.tile) → z.me.reply.refill = true →
              (¬ Released z → exec ldhd z = .next (blocked (refilled (kept z f)))) ∧
              (Released z →
                exec ldhd z = .next (((((refilled (kept z f)).wrH h (some v.split)).writeHandle pa v.split).wrote pa).note 2 ea)))))) ∧
      (∀ v, z.opH h = some v → z.me.isOpen v.tile = false →
        AwaitsLine z sth f pa ∧
        (Owned z pa → z.tag pa = true → exec sth z = .next (z.trapBundle .handleClobber ea)) ∧
        (Owned z pa → z.tag pa = false → AwaitsShadow z sth f pa ea) ∧
        (mayWrite z pa → z.tag pa = false →
          (¬ Released z → exec sth z = .next (blocked (kept z f))) ∧
          (Released z → exec sth z = .next (((((kept z f).wrH h none).writeHandle pa v).wrote pa).note 2 ea))))) ∧
    -- a word in a REMOTE window
    (∀ x f, FarWord z ea x f →
      (z.opH h = none → SendsFar z ldh .ldh ea x f 8 false 0 (some (.h h.toNat)) 0 0 (Released z) ∧
        SendsFar z ldhd .ldhd ea x f 8 false 0 (some (.h h.toNat)) 0 0 (Released z)) ∧
      (∀ v, z.opH h = some v → z.me.isOpen v.tile = false →
        SendsFar z sth .sth ea x f 8 false 0 (some (.h h.toNat)) v.toWord 0 (Released z))) ∧
    -- the register
    ((∃ o, WindowWord z ea o) ∨ (∃ pa f, MortarWord z ea pa f) ∨ (∃ x f, FarWord z ea x f) →
      ((z.opH h).isSome = true → exec ldh z = .next (z.trapBundle .handleLive ea) ∧ exec ldhd z = .next (z.trapBundle .handleLive ea)) ∧
      (z.opH h = none → exec sth z = .next (z.trapBundle .handleInvalid ea)) ∧
      (∀ v, z.opH h = some v → z.me.isOpen v.tile = true → exec sth z = .next (z.trapBundle .tileOpen ea)))

/-! ### Tiles -/

/-- R170, R51: DUP splits a handle into two of half its weight, fresh cleared in both, and no weight is lost; a handle of weight 1 asks its home for
more. R171, R55, R174: DROP empties the register, queues the drop and takes the tile out of the open set. R172, R52, R180, R181: what a form learns of
a tile: TUNIQ knows an open tile and a fresh handle to be unique and asks the home otherwise; TDESC reads a word of the descriptor that the home has
sent; TGET the element that its index names, widened as its format says. -/
def Obligations.HandleWeightsAndQueries : Prop :=
  (∀ (z : State) (g : BitVec 4) (h j : BitVec 6) (v : Handle), z.opP g = true →
    (z.opH j = none → exec (.dup g h j) z = .next (z.trapBundle .handleInvalid 0)) ∧
    (z.opH j = some v →
      ((z.opH h).isSome = true → exec (.dup g h j) z = .next (z.trapBundle .handleLive 0)) ∧
      (z.opH h = none → v.tile ∈ z.me.openSet → exec (.dup g h j) z = .next (z.trapBundle .tileOpen 0)) ∧
      (z.opH h = none → v.tile ∉ z.me.openSet → v.e ≠ 0 →
        let half : Handle := ⟨false, v.e - 1, v.tile⟩
        exec (.dup g h j) z = .next ((z.wrH h (some half)).wrH j (some half)) ∧ weight half.e + weight half.e = weight v.e) ∧
      (z.opH h = none → v.tile ∉ z.me.openSet → v.e = 0 →
        exec (.dup g h j) z = .next ((z.modMe fun x => { x with refills := x.refills ++ [(h.toNat, j.toNat, v.tile)] }).deliver
          (homePeer v.tile) (.refillRequest v.tile z.peer.toNat z.iss.core z.iss.ctx)))) ∧
    (z.opH h = none → exec (.drop g h) z = .next (z.trapBundle .handleInvalid 0)) ∧
    (z.opH h = some v →
      (z.me.drops.length < 16 → exec (.drop g h) z = .next ((z.wrH h none).modMe fun x =>
        { x with drops := x.drops ++ [⟨v.tile, v.e, x.bundle, false⟩], openSet := x.openSet.filter (· != v.tile) })) ∧
      (16 ≤ z.me.drops.length → exec (.drop g h) z = .next (blocked z)))) ∧
  (∀ (z : State) (g : BitVec 4) (h : BitVec 6) (s t : BitVec 5) (v : Handle), z.opP g = true →
    (z.opH h = none → exec (.tuniq g h s) z = .next (z.trapBundle .handleInvalid 0) ∧
      exec (.tdesc g h s t) z = .next (z.trapBundle .handleInvalid 0) ∧ exec (.tget g h s t) z = .next (z.trapBundle .handleInvalid 0)) ∧
    (z.opH h = some v →
      (v.tile ∈ z.me.openSet ∨ v.fresh = true → exec (.tuniq g h s) z = .next (z.wrB s 1 1)) ∧
      (v.tile ∉ z.me.openSet → v.fresh = false →
        (∀ b, z.me.reply.unique = some b → exec (.tuniq g h s) z = .next (z.wrB s (if b then 1 else 0) 1)) ∧
        (z.me.reply.unique = none → ((∃ d ∈ z.me.drops, d.tile = v.tile) ∨ ∃ c ∈ z.cmdsOf z.iss.core z.iss.ctx, c.willDrop v.tile = true) →
          exec (.tuniq g h s) z = .next (held z)) ∧
        (z.me.reply.unique = none → (∀ d ∈ z.me.drops, d.tile ≠ v.tile) →
          (∀ c ∈ z.cmdsOf z.iss.core z.iss.ctx, c.willDrop v.tile = false) → Unasked z →
          exec (.tuniq g h s) z = .next (asks z 1 v.tile (homePeer v.tile)
            (.uniquenessQuery v.tile v.e z.peer.toNat z.iss.core z.iss.ctx)))) ∧
      (z.me.reply.desc = none → Unasked z →
        exec (.tdesc g h s t) z = .next (asks z 0 v.tile (homePeer v.tile)
          (.descriptorRead v.tile z.peer.toNat z.iss.core z.iss.ctx 0))) ∧
      (∀ ws, z.me.reply.desc = some ws →
        exec (.tdesc g h s t) z = .next (z.wrB s (ws.getD ((z.opB t).toNat % 8) 0) 1) ∧
        (ws.getD 10 0 = BitVec.ofNat 64 (1 + bits (z.opB t) 32 16 * 65536 + bits (z.opB t) 0 16) →
          (¬ IndexWord (ws.getD 0 0) (z.opB t) → exec (.tget g h s t) z = .next (z.trapBundle .tileIndex 0)) ∧
          (IndexWord (ws.getD 0 0) (z.opB t) → ws.getD 9 0 ≠ 0 → exec (.tget g h s t) z = .next (z.trapBundle .memUncorr 0)) ∧
          (IndexWord (ws.getD 0 0) (z.opB t) → ws.getD 9 0 = 0 →
            let raw := (ws.getD 8 0).toNat
            (∀ n, elemOf ((ws.getD 0 0).extractLsb' 48 16) = some (.int n true) →
              exec (.tget g h s t) z = .next (z.wrB s (BitVec.ofInt 64 (signedOf n raw)) 1)) ∧
            (elemOf ((ws.getD 0 0).extractLsb' 48 16) = some .q16 →
              exec (.tget g h s t) z = .next (z.wrB s (BitVec.ofInt 64 (signedOf 32 raw)) 1)) ∧
            (∀ x, elemOf ((ws.getD 0 0).extractLsb' 48 16) = some x → (∀ n, x ≠ .int n true) → x ≠ .q16 →
              exec (.tget g h s t) z = .next (z.wrB s (BitVec.ofNat 64 raw) 1)))))))

/-- R173: TNEW checks its shape word, its format and its scale operand in this order, asks the home of the issuing die for a tile, and
writes a fresh handle of weight 2^31; a scaled tile takes the handle of its scale tile, which must be a BF16 tile, out of the second register and marks
that tile. That a tile of the open set may be a scale tile is the model's choice (log entry 87). -/
def Obligations.NewTiles : Prop :=
  ∀ (z : State) (g : BitVec 4) (h j : BitVec 6) (s : BitVec 5), z.opP g = true →
    let w := z.opB s
    let fw := w.extractLsb' 0 16
    let done (y : State) (t : BitVec 40) : State :=
      if w.getLsbD 63 then (y.wrH h (some ⟨true, 31, t⟩)).modMe fun x => { x with openSet := x.openSet ++ [t] }
      else y.wrH h (some ⟨true, 31, t⟩)
    (¬ ShapeWord w → exec (.tnew g h j s) z = .next (z.trapBundle .tileShape 0)) ∧
    (ShapeWord w → elemOf fw = none → exec (.tnew g h j s) z = .next (z.trapBundle .formatInvalid 0)) ∧
    (ShapeWord w → (elemOf fw).isSome = true → fwordScaled fw ≠ (j != 0) →
      exec (.tnew g h j s) z = .next (z.trapBundle .formatMismatch 0)) ∧
    (ShapeWord w → (elemOf fw).isSome = true → fwordScaled fw = false → j = 0 →
      ((z.opH h).isSome = true → exec (.tnew g h j s) z = .next (z.trapBundle .handleLive 0)) ∧
      (z.opH h = none → w.getLsbD 63 = true → 4 ≤ z.me.openSet.length →
        exec (.tnew g h j s) z = .next (z.trapBundle .openDepth 0)) ∧
      (z.opH h = none → (w.getLsbD 63 = true → z.me.openSet.length < 4) →
        (z.me.reply.tile = none → Unasked z →
          exec (.tnew g h j s) z = .next (asks z 2 0 z.peer.toNat (.tileAllocate z.iss.core z.iss.ctx w))) ∧
        (z.me.reply.tile = some 0x1000000 → exec (.tnew g h j s) z = .next (z.trapBundle .sliceFull 0)) ∧
        (z.me.reply.tile = some 0 → exec (.tnew g h j s) z = .next (z.trapBundle .tileNospace 0)) ∧
        (∀ t : BitVec 40, z.me.reply.tile = some t → t.toNat % 2 ^ 24 ≠ 0 →
          exec (.tnew g h j s) z = .next (done (z.modDesc t fun d => { d with scale := none }) t)))) ∧
    (ShapeWord w → (elemOf fw).isSome = true → fwordScaled fw = true → j ≠ 0 →
      (z.opH j = none → exec (.tnew g h j s) z = .next (z.trapBundle .handleInvalid 0)) ∧
      (∀ v, z.opH j = some v →
        (z.me.reply.desc = none → Unasked z → exec (.tnew g h j s) z = .next (asks z 0 v.tile (homePeer v.tile)
          (.descriptorRead v.tile z.peer.toNat z.iss.core z.iss.ctx 0))) ∧
        (∀ ws, z.me.reply.desc = some ws →
          ((ws.getD 0 0).extractLsb' 48 16 ≠ (2 : BitVec 16) → exec (.tnew g h j s) z = .next (z.trapBundle .formatMismatch 0)) ∧
          ((ws.getD 0 0).extractLsb' 48 16 = (2 : BitVec 16) →
            ((z.opH h).isSome = true → exec (.tnew g h j s) z = .next (z.trapBundle .handleLive 0)) ∧
            (z.opH h = none → w.getLsbD 63 = true → 4 ≤ z.me.openSet.length →
              exec (.tnew g h j s) z = .next (z.trapBundle .openDepth 0)) ∧
            (z.opH h = none → (w.getLsbD 63 = true → z.me.openSet.length < 4) →
              (z.me.reply.tile = none → Unasked z →
                exec (.tnew g h j s) z = .next (asks z 2 0 z.peer.toNat (.tileAllocate z.iss.core z.iss.ctx w))) ∧
              (z.me.reply.tile = some 0x1000000 → exec (.tnew g h j s) z = .next (z.trapBundle .sliceFull 0)) ∧
              (z.me.reply.tile = some 0 → exec (.tnew g h j s) z = .next (z.trapBundle .tileNospace 0)) ∧
              (∀ t : BitVec 40, z.me.reply.tile = some t → t.toNat % 2 ^ 24 ≠ 0 → exec (.tnew g h j s) z = .next
                (done (((z.modDesc t fun d => { d with scale := some v }).markScale (some v)).wrH j none) t)))))))

/-- R53, R174 to R179: TOPEN, TSEAL, TSET and TSETV on a tile whose storage is reused, and the copies that they make otherwise. -/
def Obligations.TileUpdates : Prop :=
  ∀ (z : State) (g : BitVec 4) (h : BitVec 6) (s t : BitVec 5) (v : Handle), z.opP g = true → z.opH h = some v →
    (v.tile ∈ z.me.openSet →
      exec (.topen g h) z = .next z ∧
      (∀ ws, z.me.reply.desc = some ws → exec (.tseal g h 0) z = .next
        ((z.modDesc v.tile fun q => { q with opened := false, sealed := true }).modMe fun x =>
          { x with openSet := x.openSet.filter (· != v.tile) })) ∧
      (∀ ws r, z.me.reply.desc = some ws → s ≠ 0 → regionOf z (z.opB s) = .ok r → r.fword = (ws.getD 0 0).extractLsb' 48 16 →
        r.count ≤ (Desc.ofWords ws).count → z.queueOpen .copy = true →
        exec (.tseal g h s) z = .next ((z.enqueue (some .copy) (.seal h.toNat v r)).wrH h none))) ∧
    (v.tile ∉ z.me.openSet →
      exec (.tseal g h s) z = .next (z.trapBundle .tileState 0) ∧
      (4 ≤ z.me.openSet.length → exec (.topen g h) z = .next (z.trapBundle .openDepth 0)) ∧
      (z.me.openSet.length < 4 → ∀ ws, z.me.reply.desc = some ws →
        (Reused z v → Unread z v.tile → exec (.topen g h) z = .next
          ((z.modDesc v.tile fun q => { q with opened := true, sealed := false }).modMe fun x =>
            { x with openSet := x.openSet ++ [v.tile] })) ∧
        (∀ u sc, Copied z v → CopyReady z ws u sc → exec (.topen g h) z = .next
          ((copying z h v u sc none .opened).modMe fun x => { x with openSet := x.openSet ++ [u] })))) ∧
    (∀ ws, z.me.reply.desc = some ws →
      (¬ IndexWord (ws.getD 0 0) (z.opB t) → exec (.tset g h s t) z = .next (z.trapBundle .tileIndex 0)) ∧
      (IndexWord (ws.getD 0 0) (z.opB t) →
        (∀ q, Reused z v → Unread z v.tile → z.desc v.tile = some q →
          exec (.tset g h s t) z = .next (z.setTileElem q (elementAt (ws.getD 0 0) (z.opB t)) (z.opB s).toNat)) ∧
        (∀ u sc, Copied z v → CopyReady z ws u sc → exec (.tset g h s t) z = .next
          (copying z h v u sc none (.elem (elementAt (ws.getD 0 0) (z.opB t)) (z.opB s)))) ∧
        (∀ r, regionOf z (z.opB s) = .ok r → r.fword = (ws.getD 0 0).extractLsb' 48 16 →
          elementAt (ws.getD 0 0) (z.opB t) + r.count ≤ (Desc.ofWords ws).count → z.queueOpen .copy = true →
          (Reused z v → Unread z v.tile → exec (.tsetv g h s t) z = .next ((z.enqueue (some .copy)
            (.update h.toNat v none false (.region (elementAt (ws.getD 0 0) (z.opB t)) r))).wrH h none)) ∧
          (∀ u sc, Copied z v → CopyReady z ws u sc → exec (.tsetv g h s t) z = .next
            (copying z h v u sc (some .copy) (.region (elementAt (ws.getD 0 0) (z.opB t)) r))))))

/-- R20, R173: an element written to a tile reads back as the low bits of its value, and no byte outside those it occupies changes. R183: KVFIND on a
page table whose first node holds the position: the handle of its page is split between its word and the register, and the position within the page
is written; a node that ends the chain before the position, or a run that lacks it, raises KV_MISS. -/
def Obligations.TileElementsAndPageFinds : Prop :=
  (∀ (z : State) (d : Desc) (n v : Nat) (x : Elem), d.elem = some x →
    let i := n / (d.cols.toNat + 1)
    let j := n % (d.cols.toNat + 1)
    let lo := d.storage.toNat + d.pos x.nibbles i j / 2
    let len := (x.nibbles + 1) / 2
    ((∀ a, lo ≤ a → a < lo + len → ¬ ShowsOther a) →
      (z.setTileElem d n v).tileElem d i j = v % 2 ^ (if x.nibbles = 1 then 4 else x.width)) ∧
    (∀ a, a < lo ∨ lo + len ≤ a → (z.setTileElem d n v).byte a = z.byte a) ∧
    z.setTileElem d n v = { z with mem := (z.setTileElem d n v).mem }) ∧
  (∀ (z : State) (g : BitVec 4) (h : BitVec 6) (s t : BitVec 5) (pa : Nat) (f : FrameEntry), z.opP g = true → z.opH h = none →
    let node := z.opB s
    let pos := (z.opB t).toNat % 2 ^ 32
    Released z → z.me.reply.got = [] → Node z node pa f →
    let start := memValue z pa 4
    let run := memValue z (pa + 4) 2
    let read : State := (kept z f).modMe fun k => { k with reply := { k.reply with
      got := [(f.peer.toNat * 2 ^ 45 + pa, [BitVec.ofNat 64 (memValue z pa 8), BitVec.ofNat 64 (memValue z (pa + 8) 8)])] } }
    let ea : Word := node + BitVec.ofNat 64 (64 + 8 * ((pos - start) / 16))
    (start ≤ pos → pos < start + run → (pos - start) / 16 < 8 →
      ∀ pa' f', Reaches read .store ea 8 pa' f' → mayWrite z pa' → z.tag pa' = true → z.poisoned pa' 8 = false →
        (z.readHandle pa').e ≠ 0 →
        exec (.kvfind g h s t) z = .next ((((((kept read f').wrH h (some (z.readHandle pa').split)).writeHandle pa'
          (z.readHandle pa').split).wrote pa').note 2 ea).wrB t (BitVec.ofNat 64 ((pos - start) % 16)) 1)) ∧
    (start ≤ pos → start + run ≤ pos ∨ 8 ≤ (pos - start) / 16 → exec (.kvfind g h s t) z = .next (z.trapBundle .kvMiss node)) ∧
    (pos < start → memValue z (pa + 8) 8 = 0 → exec (.kvfind g h s t) z = .next (z.trapBundle .kvMiss node)))

/-! ### Engine commands -/

/-- R83, R318: a queued command stands behind those of its core with the context's window and command number, the number advances modulo 2^32 for a
numbered form alone, and nothing else changes. R17, R75, R76: a region descriptor of the context in issue resolves when its count is not zero, its
reserved bits are, its selector names a valid format, its base suits the element and its extent lies in the window; otherwise the first of these
that fails is the trap. -/
def Obligations.QueueAndRegions : Prop :=
  (∀ (z : State) (eng : Option Engine) (op : CmdOp) (numbered : Bool),
    let y := z.enqueue eng op numbered
    y.myCore.cmds = z.myCore.cmds ++ [queued z eng op numbered] ∧
    y.myCore.nextSerial = z.myCore.nextSerial + 1 ∧
    y.me = (if numbered then { z.me with cmdNo := z.me.cmdNo + 1 } else z.me) ∧
    y.myCore = { z.myCore with cmds := y.myCore.cmds, nextSerial := y.myCore.nextSerial, ctxs := y.myCore.ctxs } ∧
    (∀ x, x ≠ z.iss.ctx → y.ctx z.iss.core x = z.ctx z.iss.core x) ∧ (∀ c, c ≠ z.iss.core → y.core c = z.core c) ∧
    y = { z with cores := y.cores } ∧ ∀ a, y.byte a = z.byte a) ∧
  (∀ (z : State) (w : Word),
    let count := bits w 36 16
    let base := bits w 0 20
    let stride := (w.extractLsb' 20 16).toInt
    (count = 0 ∨ bits w 62 2 ≠ 0 → regionOf z w = .error (.trap .regionBad 0)) ∧
    (count ≠ 0 → bits w 62 2 = 0 →
      let sel := bits w 52 8
      (136 ≤ sel → regionOf z w = .error (.trap .formatInvalid 0)) ∧
      (∀ fw, (sel < 128 ∧ fw = BitVec.ofNat 16 sel) ∨ (128 ≤ sel ∧ sel < 136 ∧ fw = z.me.nfmt.get 0 (sel - 128)) →
        (elemOf fw = none → regionOf z w = .error (.trap .formatInvalid 0)) ∧
        (∀ x, elemOf fw = some x →
          (x.nibbles ≠ 1 → base % (x.nibbles / 2) ≠ 0 → regionOf z w = .error (.trap .regionAlign (BitVec.ofNat 64 base))) ∧
          (x.nibbles = 1 ∨ base % (x.nibbles / 2) = 0 →
            let a : Int := 2 * base
            let b : Int := 2 * base + (count - 1) * stride * x.nibbles
            (min a b < 0 ∨ 2 * (z.me.winLen : Int) < max a b + x.nibbles →
              regionOf z w = .error (.trap .spanMiss (BitVec.ofNat 64 base))) ∧
            (0 ≤ min a b → max a b + x.nibbles ≤ 2 * (z.me.winLen : Int) →
              regionOf z w = .ok ⟨z.me.winBase, base, stride, count, fw, x, w.getLsbD 61, w.getLsbD 60⟩))))))

/-- R197 to R199, R202: MFMT sets the pair in force or says what is wrong with its word; MMA and MMAC queue a matrix command on a window of their tiles
with the formats in force, GMMA and GMMA.mc a group multiply; each form names, in its order, an invalid handle, a region or a second word that does not
suit, a missing pair, a wrong result format, a group descriptor that R202 refuses, and waits for a full queue. -/
def Obligations.MatrixForms : Prop :=
  ∀ (z : State) (g : BitVec 4) (ha hb hx : BitVec 6) (s : BitVec 5), z.opP g = true →
    let w := z.opB s
    let fa := w.extractLsb' 0 16
    let fb := w.extractLsb' 16 16
    (2 ^ 32 ≤ w.toNat → exec (.mfmt g s) z = .next (z.trapBundle .formatPair 0)) ∧
    (w.toNat < 2 ^ 32 →
      (elemOf fa = none ∨ elemOf fb = none → exec (.mfmt g s) z = .next (z.trapBundle .formatInvalid 0)) ∧
      ((elemOf fa).isSome = true → (elemOf fb).isSome = true →
        (accumOf fa fb = none → exec (.mfmt g s) z = .next (z.trapBundle .formatPair 0)) ∧
        ((accumOf fa fb).isSome = true → exec (.mfmt g s) z = .next (z.modMe fun x => { x with pair := some (fa, fb) })))) ∧
    (∀ (acc : Bool) (i : Instr), ((acc = false ∧ i = .mma g ha hb s) ∨ (acc = true ∧ i = .mmac g ha hb s)) →
      (z.opH ha = none ∨ z.opH hb = none → exec i z = .next (z.trapBundle .handleInvalid 0)) ∧
      (∀ (a b : Handle), z.opH ha = some a → z.opH hb = some b →
        (∀ c v, regionOf z w = .error (.trap c v) → exec i z = .next (z.trapBundle c v)) ∧
        (∀ r, regionOf z w = .ok r →
          (s = 0 ∨ s = 31 → exec i z = .next (z.trapBundle .regionBad 0)) ∧
          (s ≠ 0 → s ≠ 31 →
            let u := z.opB (s + 1)
            let rows := (u.extractLsb' 22 14).toNat + 1
            let cols := (u.extractLsb' 8 14).toNat + 1
            (bits u 0 8 ≠ 0 ∨ rows * cols ≠ r.count → exec i z = .next (z.trapBundle .regionBad 0)) ∧
            (bits u 0 8 = 0 → rows * cols = r.count →
              (z.me.pair = none → exec i z = .next (z.trapBundle .formatPair 0)) ∧
              (∀ p, z.me.pair = some p →
                let result : Elem := if accumOf p.1 p.2 = some .integers then .int 32 true else .float fp32
                (r.elem ≠ result → exec i z = .next (z.trapBundle .formatMismatch 0)) ∧
                (r.elem = result →
                  (z.queueOpen .matrix = false → exec i z = .next (blocked z)) ∧
                  (z.queueOpen .matrix = true → exec i z = .next (z.enqueue (some .matrix)
                    (.mma acc p.1 p.2 a.tile b.tile r (u.extractLsb' 50 14).toNat (u.extractLsb' 36 14).toNat rows cols)))))))))) ∧
    (∀ (mc : Bool) (i : Instr), ((mc = false ∧ i = .gmma g ha hb s hx) ∨ (mc = true ∧ i = .gmmaMc g ha hb s hx)) →
      (z.opH ha = none ∨ z.opH hb = none → exec i z = .next (z.trapBundle .handleInvalid 0)) ∧
      (∀ (a b : Handle), z.opH ha = some a → z.opH hb = some b →
        ((z.opH hx).isSome = true → exec i z = .next (z.trapBundle .handleLive 0)) ∧
        (z.opH hx = none →
          (z.me.pair = none → exec i z = .next (z.trapBundle .formatPair 0)) ∧
          (∀ p, z.me.pair = some p →
            (¬ GroupWord w (z.peer.toNat % 8) → exec i z = .next (z.trapBundle .gmmaBad 0)) ∧
            (GroupWord w (z.peer.toNat % 8) →
              (z.queueOpen .matrix = false → exec i z = .next (blocked z)) ∧
              (z.queueOpen .matrix = true → exec i z = .next (z.enqueue (some .matrix) (.gmma ⟨mc, p.1, p.2, a.tile, b.tile, hx.toNat, w,
                (if z.me.gtimeout = 0 then 2 ^ 32 else z.me.gtimeout.toNat), 0, false, 0⟩))))))))

/-- R191, R205 to R222: the vector and special-function forms, by what each computes, which of its operands are regions (an operand that
is no region is a scalar, and one that a form does not have counts as 0), and the options that its encoding carries. -/
def Obligations.VectorForms : Prop :=
  ∀ (z : State) (g : BitVec 4) (d s t : BitVec 5) (rm : BitVec 2) (sat quiet : Bool), z.opP g = true →
    IssuesVector z (.vaddVv g d s t rm quiet) .add rm false quiet (z.opB d) (z.opB s) (z.opB t) true true ∧
    IssuesVector z (.vaddVs g d s t rm quiet) .add rm false quiet (z.opB d) (z.opB s) (z.opB t) true false ∧
    IssuesVector z (.vsubVv g d s t rm quiet) .sub rm false quiet (z.opB d) (z.opB s) (z.opB t) true true ∧
    IssuesVector z (.vsubVs g d s t rm quiet) .sub rm false quiet (z.opB d) (z.opB s) (z.opB t) true false ∧
    IssuesVector z (.vmulVv g d s t rm quiet) .mul rm false quiet (z.opB d) (z.opB s) (z.opB t) true true ∧
    IssuesVector z (.vmulVs g d s t rm quiet) .mul rm false quiet (z.opB d) (z.opB s) (z.opB t) true false ∧
    IssuesVector z (.vfmaVv g d s t rm quiet) (.fma false) rm false quiet (z.opB d) (z.opB s) (z.opB t) true true ∧
    IssuesVector z (.vfmaVs g d s t rm quiet) (.fma false) rm false quiet (z.opB d) (z.opB s) (z.opB t) true false ∧
    IssuesVector z (.vfmaVn g d s t rm quiet) (.fma true) rm false quiet (z.opB d) (z.opB s) (z.opB t) true true ∧
    IssuesVector z (.vmaxVv g d s t quiet) .max rne false quiet (z.opB d) (z.opB s) (z.opB t) true true ∧
    IssuesVector z (.vmaxVs g d s t quiet) .max rne false quiet (z.opB d) (z.opB s) (z.opB t) true false ∧
    IssuesVector z (.vminVv g d s t quiet) .min rne false quiet (z.opB d) (z.opB s) (z.opB t) true true ∧
    IssuesVector z (.vminVs g d s t quiet) .min rne false quiet (z.opB d) (z.opB s) (z.opB t) true false ∧
    IssuesVector z (.vabs g d s quiet) .abs rne false quiet (z.opB d) (z.opB s) 0 true false ∧
    IssuesVector z (.vneg g d s quiet) .neg rne false quiet (z.opB d) (z.opB s) 0 true false ∧
    IssuesVector z (.vclmpVs g d s t quiet) .clampS rne false quiet (z.opB d) (z.opB s) (z.opB t) true false ∧
    IssuesVector z (.vclmpVv g d s t quiet) .clampV rne false quiet (z.opB d) (z.opB s) (z.opB t) true true ∧
    IssuesVector z (.vcvt g d s rm sat quiet) .cvt rm sat quiet (z.opB d) (z.opB s) 0 true false ∧
    IssuesVector z (.vcvtS g d s t rm sat quiet) .cvtS rm sat quiet (z.opB d) (z.opB s) (z.opB t) true true ∧
    IssuesVector z (.vexp g d s quiet) (.exp false) rne false quiet (z.opB d) (z.opB s) 0 true false ∧
    IssuesVector z (.vexpB2 g d s quiet) (.exp true) rne false quiet (z.opB d) (z.opB s) 0 true false ∧
    IssuesVector z (.vrcp g d s quiet) .rcp rne false quiet (z.opB d) (z.opB s) 0 true false ∧
    IssuesVector z (.vrsq g d s quiet) .rsq rne false quiet (z.opB d) (z.opB s) 0 true false ∧
    IssuesVector z (.vsumF g d s quiet) .sumF rne false quiet (z.opB d) (z.opB s) 0 true false ∧
    IssuesVector z (.vsumI g d s quiet) .sumI rne false quiet (z.opB d) (z.opB s) 0 true false ∧
    IssuesVector z (.vrmax g d s quiet) .rmax rne false quiet (z.opB d) (z.opB s) 0 true false ∧
    IssuesVector z (.vsel g d s t quiet) .sel rne false quiet (z.opB d) (z.opB s) (z.opB t) true true ∧
    IssuesVector z (.vcmpEqVv g d s t quiet) (.cmp .eq) rne false quiet (z.opB d) (z.opB s) (z.opB t) true true ∧
    IssuesVector z (.vcmpEqVs g d s t quiet) (.cmp .eq) rne false quiet (z.opB d) (z.opB s) (z.opB t) true false ∧
    IssuesVector z (.vcmpNeVv g d s t quiet) (.cmp .ne) rne false quiet (z.opB d) (z.opB s) (z.opB t) true true ∧
    IssuesVector z (.vcmpNeVs g d s t quiet) (.cmp .ne) rne false quiet (z.opB d) (z.opB s) (z.opB t) true false ∧
    IssuesVector z (.vcmpLtVv g d s t quiet) (.cmp .lt) rne false quiet (z.opB d) (z.opB s) (z.opB t) true true ∧
    IssuesVector z (.vcmpLtVs g d s t quiet) (.cmp .lt) rne false quiet (z.opB d) (z.opB s) (z.opB t) true false ∧
    IssuesVector z (.vcmpLeVv g d s t quiet) (.cmp .le) rne false quiet (z.opB d) (z.opB s) (z.opB t) true true ∧
    IssuesVector z (.vcmpLeVs g d s t quiet) (.cmp .le) rne false quiet (z.opB d) (z.opB s) (z.opB t) true false ∧
    IssuesVector z (.vcmpGtVv g d s t quiet) (.cmp .gt) rne false quiet (z.opB d) (z.opB s) (z.opB t) true true ∧
    IssuesVector z (.vcmpGtVs g d s t quiet) (.cmp .gt) rne false quiet (z.opB d) (z.opB s) (z.opB t) true false ∧
    IssuesVector z (.vcmpGeVv g d s t quiet) (.cmp .ge) rne false quiet (z.opB d) (z.opB s) (z.opB t) true true ∧
    IssuesVector z (.vcmpGeVs g d s t quiet) (.cmp .ge) rne false quiet (z.opB d) (z.opB s) (z.opB t) true false ∧
    IssuesVector z (.vtopkMax g d s t quiet) (.topk false) rne false quiet (z.opB d) (z.opB s) (z.opB t) true (t != 0) ∧
    IssuesVector z (.vtopkMin g d s t quiet) (.topk true) rne false quiet (z.opB d) (z.opB s) (z.opB t) true (t != 0) ∧
    IssuesVector z (.vgath g d s t quiet) .gath rne false quiet (z.opB d) (z.opB s) (z.opB t) true true ∧
    IssuesVector z (.vscat g d s t quiet) .scat rne false quiet (z.opB d) (z.opB s) (z.opB t) true true ∧
    IssuesVector z (.viota g d s t quiet) .iota rne false quiet (z.opB d) (z.opB s) (z.opB t) false false ∧
    IssuesVector z (.vfill g d s quiet) .fill rne false quiet (z.opB d) (z.opB s) 0 false false ∧
    IssuesVector z (.vbfly g d s t quiet) (.bfly false) rne false quiet (z.opB d) (z.opB s) (z.opB t) true true ∧
    IssuesVector z (.vbflyCj g d s t quiet) (.bfly true) rne false quiet (z.opB d) (z.opB s) (z.opB t) true true ∧
    IssuesVector z (.vtwid g d s t quiet) .twid rne false quiet (z.opB d) (z.opB s) (z.opB t) false false ∧
    IssuesVector z (.vcmul g d s t rm quiet) (.cmul false) rm false quiet (z.opB d) (z.opB s) (z.opB t) true true ∧
    IssuesVector z (.vcmulCj g d s t rm quiet) (.cmul true) rm false quiet (z.opB d) (z.opB s) (z.opB t) true true ∧
    IssuesVector z (.viaddVv g d s t quiet) (.iadd false) rne false quiet (z.opB d) (z.opB s) (z.opB t) true true ∧
    IssuesVector z (.viaddVs g d s t quiet) (.iadd false) rne false quiet (z.opB d) (z.opB s) (z.opB t) true false ∧
    IssuesVector z (.viaddVvSat g d s t quiet) (.iadd true) rne false quiet (z.opB d) (z.opB s) (z.opB t) true true ∧
    IssuesVector z (.viaddVsSat g d s t quiet) (.iadd true) rne false quiet (z.opB d) (z.opB s) (z.opB t) true false ∧
    IssuesVector z (.vimulVv g d s t quiet) .imul rne false quiet (z.opB d) (z.opB s) (z.opB t) true true ∧
    IssuesVector z (.vimulVs g d s t quiet) .imul rne false quiet (z.opB d) (z.opB s) (z.opB t) true false ∧
    IssuesVector z (.vandVv g d s t quiet) .band rne false quiet (z.opB d) (z.opB s) (z.opB t) true true ∧
    IssuesVector z (.vandVs g d s t quiet) .band rne false quiet (z.opB d) (z.opB s) (z.opB t) true false ∧
    IssuesVector z (.vorVv g d s t quiet) .bor rne false quiet (z.opB d) (z.opB s) (z.opB t) true true ∧
    IssuesVector z (.vorVs g d s t quiet) .bor rne false quiet (z.opB d) (z.opB s) (z.opB t) true false ∧
    IssuesVector z (.vxorVv g d s t quiet) .bxor rne false quiet (z.opB d) (z.opB s) (z.opB t) true true ∧
    IssuesVector z (.vxorVs g d s t quiet) .bxor rne false quiet (z.opB d) (z.opB s) (z.opB t) true false ∧
    IssuesVector z (.vshlVv g d s t quiet) .shl rne false quiet (z.opB d) (z.opB s) (z.opB t) true true ∧
    IssuesVector z (.vshlVs g d s t quiet) .shl rne false quiet (z.opB d) (z.opB s) (z.opB t) true false ∧
    IssuesVector z (.vshrVv g d s t quiet) .shr rne false quiet (z.opB d) (z.opB s) (z.opB t) true true ∧
    IssuesVector z (.vshrVs g d s t quiet) .shr rne false quiet (z.opB d) (z.opB s) (z.opB t) true false ∧
    IssuesVector z (.vshrArVv g d s t quiet) .sar rne false quiet (z.opB d) (z.opB s) (z.opB t) true true ∧
    IssuesVector z (.vshrArVs g d s t quiet) .sar rne false quiet (z.opB d) (z.opB s) (z.opB t) true false ∧
    IssuesVector z (.vflg g d quiet) (.flg false) rne false quiet (z.opB d) 0 0 false false ∧
    IssuesVector z (.vflgClr g d quiet) (.flg true) rne false quiet (z.opB d) 0 0 false false ∧
    IssuesVector z (.vmaskw g d s t quiet) .maskw rne false quiet (z.opB d) (z.opB s) (z.opB t) false false

/-- R182, R227: TMOVE and MIGR queue a move of a tile of this package to a target; MIGR gives a deadline. R68, R106, R223 to R226: the nine forms of CPY
and the three of CPYR queue a copy of 1 to 2^32 - 1 bytes once their endpoints pass: a local endpoint on 16 bytes inside the window, local endpoints
apart, a new tile of a slice whose storage holds the bytes, a destination word of another context of a package that may be reached. CPY .hn writes
the register after that of its source, modulo 64: the model's choice (log entry 43). -/
def Obligations.MovesAndCopies : Prop :=
  (∀ (z : State) (g : BitVec 4) (h : BitVec 6) (s t : BitVec 5) (v : Handle), z.opP g = true → z.opH h = some v →
    (¬ TargetWord (z.opB s) →
      exec (.tmove g h s) z = .next (z.trapBundle .tileTarget 0) ∧ exec (.migr g s t h) z = .next (z.trapBundle .tileTarget 0)) ∧
    (TargetWord (z.opB s) → homePeer v.tile ≠ z.peer.toNat →
      exec (.tmove g h s) z = .next (z.trapBundle .tileRemote 0) ∧ exec (.migr g s t h) z = .next (z.trapBundle .tileRemote 0)) ∧
    (TargetWord (z.opB s) → homePeer v.tile = z.peer.toNat → z.queueOpen .copy = true →
      (∀ ws, z.me.reply.desc = some ws →
        exec (.tmove g h s) z = .next (z.enqueue (some .copy) (.move v.tile (z.opB s) 0 z.cycle false none))) ∧
      ((z.opB t).toNat < 2 ^ 32 →
        exec (.migr g s t h) z = .next (z.enqueue (some .copy) (.move v.tile (z.opB s) (z.opB t).toNat z.cycle true none))) ∧
      (2 ^ 32 ≤ (z.opB t).toNat → exec (.migr g s t h) z = .next (z.trapBundle .copyBad 0)))) ∧
  (∀ (z : State) (g : BitVec 4) (d s t : BitVec 5) (hx : BitVec 6) (src : CopySrc), z.opP g = true →
    let dw := z.opB d
    let sw := z.opB s
    let len := (z.opB t).toNat
    let into (i : Instr) (fn : Nat) (dst : CopyDst) : Prop :=
      exec i z = .next (z.enqueue (some .copy) (copyCommand fn src dst dw sw len))
    0 < len → len < 2 ^ 32 → z.queueOpen .copy = true →
    (CopyRoom z → dw.toNat % 16 = 0 → len % 16 = 0 → dw.toNat + len ≤ z.me.winLen →
      (SourceOf z .ls hx sw len src → (sw.toNat + len ≤ dw.toNat ∨ dw.toNat + len ≤ sw.toNat) →
        into (.cpyLl g d s t) 0 (.ls dw.toNat)) ∧
      (SourceOf z .ls hx sw len src → sw.toNat < dw.toNat + len → dw.toNat < sw.toNat + len →
        exec (.cpyLl g d s t) z = .next (z.trapBundle .regionOverlap 0)) ∧
      (SourceOf z .va hx sw len src → into (.cpyVl g d s t) 3 (.ls dw.toNat)) ∧
      (SourceOf z .tile hx sw len src → into (.cpyHl g d s t hx) 6 (.ls dw.toNat))) ∧
    (CopyRoom z →
      (SourceOf z .ls hx sw len src → into (.cpyLv g d s t) 1 (.va dw.toNat)) ∧
      (SourceOf z .va hx sw len src → into (.cpyVv g d s t) 4 (.va dw.toNat)) ∧
      (SourceOf z .tile hx sw len src → into (.cpyHv g d s t hx) 7 (.va dw.toNat))) ∧
    (∀ x, ShapeWord dw → dw.getLsbD 63 = false → bits dw 46 2 = 2 → elemOf (dw.extractLsb' 0 16) = some x →
      fwordScaled (dw.extractLsb' 0 16) = false →
      len ≤ (geometry (bits dw 44 2) (bits dw 16 14) (bits dw 30 14) x.nibbles).2 →
      (z.opH hx = none → SourceOf z .ls hx sw len src → into (.cpyLn g d s t hx) 2 (.newTile dw hx.toNat none)) ∧
      (z.opH hx = none → SourceOf z .va hx sw len src → into (.cpyVn g d s t hx) 5 (.newTile dw hx.toNat none)) ∧
      (z.opH (hx + 1) = none → SourceOf z .tile hx sw len src → into (.cpyHn g d s t hx) 8 (.newTile dw (hx + 1).toNat none))) ∧
    (CopyRoom z → len % 16 = 0 → bits dw 38 2 = 0 → bits dw 10 14 = 0 → bits dw 44 20 % 16 = 0 →
      z.peerAbsent (bits dw 24 14) = false → z.peerAllowed (bits dw 24 14) = true →
      (SourceOf z .ls hx sw len src → into (.cpyrL g d s t) 0 (.remote dw)) ∧
      (SourceOf z .va hx sw len src → into (.cpyrV g d s t) 1 (.remote dw)) ∧
      (SourceOf z .tile hx sw len src → into (.cpyrH g d s t hx) 2 (.remote dw))))

/-! ### Privileged forms, launches -/

/-- R184: outside a firmware context each of the six privileged forms raises PRIV_OP and does nothing else. R185, R35, R37: SPLOAD writes the entry
that its image of 528 bytes holds into the span tables of the selected dies, where no selected entry has a present slot. R186: SPINV clears the slots
of a range, waits until no access and no chunk holds an old translation of it and no L1 a line, and then for the acknowledgement. R189: REJOIN flips the
core's incarnation bit once its L1 is empty and waits for every home. That SPLOAD counts the slots of an entry whose V is 0 as present (log entry 24), and
that SPINV waits for accesses under any address-space identifier (105), are the model's choices. -/
def Obligations.PrivilegedForms : Prop :=
  (∀ (z : State) (g : BitVec 4) (d s t : BitVec 5), z.opP g = true → ¬ Firmware z →
    ∀ i ∈ [Instr.spload g s t, .spinv g d s t, .quiesce g d s, .ctxsave g s t, .ctxload g s t, .rejoin g],
      exec i z = .next (z.trapBundle .privOp 0)) ∧
  (∀ (z : State) (g : BitVec 4) (d s t : BitVec 5), z.opP g = true → Firmware z →
    let va := z.opB s
    let sel := z.opB t
    (∀ pa f, MortarRange z .load va 528 pa f → va.toNat % 16 = 0 → bits sel 20 44 = 0 → bits sel 12 4 = 0 → bits sel 16 4 ≠ 0 →
      (kept z f).rangeQuiet pa 528 = true → z.poisoned pa 528 = false →
      let y := (kept z f).takeRange pa 528
      (y.spanImage (y.readBytes pa 528) = none → exec (.spload g s t) z = .next (z.trapBundle .spanBad va)) ∧
      ∀ e, y.spanImage (y.readBytes pa 528) = some e →
        let dies := (List.range 4).filter fun k => sel.getLsbD (16 + k)
        ((∀ k ∈ dies, ∀ o, y.spans.look (4096 * k + bits sel 0 12) = some o → o.slots = []) →
          exec (.spload g s t) z = .next { y with
            spans := dies.foldl (fun m k => m.put (4096 * k + bits sel 0 12) e) y.spans }) ∧
        ((∃ k ∈ dies, ∃ o, y.spans.look (4096 * k + bits sel 0 12) = some o ∧ o.slots ≠ []) →
          exec (.spload g s t) z = .next (z.trapBundle .spanBad va))) ∧
    (bits (z.opB d) 12 52 = 0 → va.toNat % 2 ^ 21 = 0 → sel ≠ 0 → sel.toNat % 2 ^ 21 = 0 →
      let asid := (z.opB d).setWidth 12
      let frames := z.namedFrames asid va.toNat sel.toNat
      (z.me.reply.asked = none → z.snapOver frames = true → exec (.spinv g d s t) z = .next (z.trapBundle .spinvSnap va)) ∧
      (z.me.reply.asked = none → z.snapOver frames = false →
        let y := ((z.clearSlots asid va.toNat sel.toNat).midway 6).modMe fun x =>
          { x with reply := { x.reply with desc := some (frames.map fun f => BitVec.ofNat 64 f) } }
        exec (.spinv g d s t) z = .next (blocked
          (y.post (y.cores.map fun e => .spinvNotice e.1 asid.toNat va.toNat sel.toNat)))) ∧
      (∀ q, z.me.reply.asked = some (6, q) →
        let old := (z.me.reply.desc.getD []).map BitVec.toNat
        let w := z.takeBack old
        (w.oldTranslation asid va.toNat sel.toNat old = true ∨ w.cachedLines old ≠ [] → exec (.spinv g d s t) z = .next (blocked w)) ∧
        (w.oldTranslation asid va.toNat sel.toNat old = false → w.cachedLines old = [] →
          exec (.spinv g d s t) z = .next (blocked ((w.midway 7).post [.spinvAck w.iss.core w.iss.ctx])))) ∧
      (∀ q, z.me.reply.asked = some (7, q) →
        (z.me.reply.unique = some true → exec (.spinv g d s t) z = .next z) ∧
        (z.me.reply.unique ≠ some true → exec (.spinv g d s t) z = .next (blocked z)))) ∧
    (z.me.reply.asked = none →
      (z.myCore.l1 ≠ [] → exec (.rejoin g) z = .next (z.trapBundle .rejoinState 0)) ∧
      (z.myCore.l1 = [] → exec (.rejoin g) z = .next (blocked
        ((({ z with incOwn := z.incOwn.set false z.iss.core (!z.inc z.iss.core) } : State).midway 8).post
          ((List.range 128).map fun k => .rejoinNotice z.iss.core k))))) ∧
    (∀ q, z.me.reply.asked = some (8, q) →
      (z.rejoined z.iss.core = true → exec (.rejoin g) z = .next z) ∧
      (z.rejoined z.iss.core = false → exec (.rejoin g) z = .next (blocked z))))

/-- R187, R188, R324 to R328: QUIESCE asks a context of its core to stop and reports how it stopped; CTXSAVE writes the area of a stopped task, moves its
handles there and frees the context; through a REMOTE window the area's home does the writing first; CTXLOAD gives a context what an area of that
context describes. An area that CTXSAVE writes and CTXLOAD reads gives the context back its registers, its window, its identity, its loops and its
flags. The handles travel as tagged words; each loop's drain mark is cleared; leases come back expired; the reserved bits of SR_GSTAT read 0. That a save
waits for every answer, that an area in a REMOTE window is saved by its home, the causes of an area that is not aligned or that no pool has room for, and the
order of CTX_RUNNING and PRIV_OP are the model's choices (log entry 20), as is which task an area names, which the 4096 bytes do not hold (21). -/
def Obligations.StopSaveAndLoad : Prop :=
  (∀ (z : State) (g : BitVec 4) (d s t : BitVec 5) (x : Nat), z.opP g = true → Firmware z →
    let c := z.iss.core
    let k := z.ctx c x
    let va := z.opB t
    (x = bits (z.opB s) 8 2 → bits (z.opB s) 0 8 = c → x ≠ 3 →
      (k.run ≠ .running → exec (.quiesce g d s) z = .next (z.wrB d 2 1)) ∧
      (k.run = .running → k.stopped = true →
        exec (.quiesce g d s) z = .next (z.wrB d (if k.stop.atHead then 1 else 0) 1)) ∧
      (k.run = .running → k.stopped = false →
        exec (.quiesce g d s) z = .next (blocked ((z.modCtx c x Ctx.askStop).midway 9)))) ∧
    (NamesTask z (z.opB s) x → va.toNat % 4096 = 0 →
      (∀ a f, z.translate c z.iss.ctx .store va.toNat = .ok (a, f) → a.mode ≠ .localWin → ∀ task, Saveable z x task →
        let w := (kept z f).endLeases c x fun _ => true
        let bs := (w.areaWords c x).flatMap fun v => toBytes 8 v.toNat
        (w.me.reply.probe = none → w.me.reply.asked = none → w.me.late = [] → exec (.ctxsave g s t) z = .next (blocked
          ((w.modMe fun q => { q with reply := { q.reply with asked := some (12, BitVec.ofNat 40 x), va := va } }).deliver a.peer.toNat
            (.remoteAccess w.peer.toNat w.iss.core w.iss.ctx 12 a.pa 0 0 w.me.pc 4096 bs)))) ∧
        (∀ n, w.me.reply.probe = some n → n ≠ 0 → exec (.ctxsave g s t) z = .next (z.trapBundle (refusalCause n) va)) ∧
        (w.me.reply.probe = some 0 → exec (.ctxsave g s t) z = .next ((w.unloadTask c x task).settleFw c))) ∧
      ∀ pa f, MortarRange z .store va 4096 pa f →
      (k.stopped = false → exec (.ctxsave g s t) z = .next (z.trapBundle .ctxRunning 0)) ∧
      (∀ task, Saveable z x task →
        (z.anyTag pa 4096 = true → exec (.ctxsave g s t) z = .next (z.trapBundle .handleClobber va)) ∧
        (z.anyTag pa 4096 = false →
          let w := (kept z f).endLeases c x fun _ => true
          w.writeQuiet pa 4096 = true →
          (w.takeToWrite pa 4096 = none → exec (.ctxsave g s t) z = .next (z.trapBundle .snapFull va)) ∧
          ∀ y, w.takeToWrite pa 4096 = some y →
            exec (.ctxsave g s t) z = .next
              (((y.writeArea pa ((w.areaWords c x).flatMap fun v => toBytes 8 v.toNat)).unloadTask c x task).settleFw c))) ∧
      ((k.task.isSome = true ∨ k.run = .running ∨ k.run = .ending) →
        exec (.ctxload g s t) z = .next (z.trapBundle .ctxRunning 0)) ∧
      (k.task = none → (k.run = .idle ∨ k.run = .halted) → (kept z f).rangeQuiet pa 4096 = true → z.poisoned pa 4096 = false →
        let ws := wordsOf 512 (((kept z f).takeRange pa 4096).readBytes pa 4096)
        (ws.getD 155 0 ≠ z.coreId c x → exec (.ctxload g s t) z = .next (z.trapBundle .privOp 0)) ∧
        (ws.getD 155 0 = z.coreId c x → z.copyRoom (Nat.min (ws.getD 511 0).toNat 32) = true → (kept z f).writeQuiet pa 4096 = true →
          ∀ y, (kept z f).takeToWrite pa 4096 = some y →
            ∃ o, exec (.ctxload g s t) z = .next o ∧ o.iss = z.iss ∧
              let hs := (List.range 64).filterMap fun i =>
                if y.tag (pa + 0x200 + 8 * i) then some (i, y.readHandle (pa + 0x200 + 8 * i)) else none
              let n := ctxOf ws hs z.cycle
              o.ctx c x = { n with task := (o.ctx c x).task, bundle := (o.ctx c x).bundle, drops := (o.ctx c x).drops } ∧
              (o.ctx c x).task.isSome = true ∧
              (∀ i, i < 64 → o.tag (pa + 0x200 + 8 * i) = false))))) ∧
  (∀ (s : State) (c x n : Nat) (hs : Tab Handle),
    let k := s.ctx c x
    let y := ctxOf (s.saveWords c x) hs n
    (∀ i, 0 < i → i < 32 → y.regs.a.get 0 i = k.regs.a.get 0 i ∧ y.regs.b.get 0 i = k.regs.b.get 0 i) ∧
    (∀ i, 0 < i → i < 8 → y.regs.p.get false i = k.regs.p.get false i) ∧
    (∀ i, i < 16 → y.regs.q.get 0 i = k.regs.q.get 0 i) ∧ y.regs.h = hs ∧
    (∀ i, i < 8 → y.nfmt.get 0 i = k.nfmt.get 0 i ∧ y.barGen.get false i = k.barGen.get false i) ∧
    (∀ i, i < 256 → y.vflags.get 0 i = k.vflags.get 0 i) ∧
    y.fflags = k.fflags ∧ y.check = k.check ∧ y.gtimeout = k.gtimeout ∧ y.gstat = k.gstat &&& 0xFF00FFFFFFFFFFFF ∧ y.pair = k.pair ∧
    y.asid = k.asid ∧ y.lsbase = k.lsbase ∧ y.lslen = k.lslen ∧ y.tvecRec = k.tvecRec ∧ y.tvecHandler = k.tvecHandler ∧
    y.rank = k.rank ∧ y.nranks = k.nranks ∧ y.argp = k.argp ∧ y.cmdNo = k.cmdNo ∧ y.handler = k.handler ∧ y.task = none ∧
    (k.openSet.length ≤ 4 → y.openSet = k.openSet) ∧
    (k.leases.length ≤ 2 → (∀ l ∈ k.leases, l.line * 128 < 2 ^ 63) →
      y.leases = k.leases.map fun l => ⟨l.line, .expired, 0, 0⟩) ∧
    (k.loops.length ≤ 4 → k.stop.atHead = false →
      y.pc = k.pc ∧ y.loops = k.loops.map fun l => { l with drain := false }))

/-- R138, R308, R315: LAUNCH reads its packet, copies it into the next entry of its queue with the parent's launch number at byte 104, advances the tail
and answers 1; a full ring answers 0; a packet off 128 bytes, outside mortar memory, with an uncorrected error, or a slot that is not the process's own,
traps, in this order. The packet waits for the context's earlier accesses (R138). How the packet and the entry are read and written at their homes, that a
doorbell of the same cycle comes first by standing in the agenda, and that an entry at an address without a frame ends in the fault noFrame, are the
model's choices (log entries 30, 31, 67, 95). -/
def Obligations.LaunchForm : Prop :=
  ∀ (z : State) (g : BitVec 4) (d s t : BitVec 5), z.opP g = true →
    let va := z.opA s
    let n := (z.opA t).toNat
    let q := z.qslot n
    (va.toNat % 128 ≠ 0 → exec (.launch g d s t) z = .next (z.trapBundle .launchAlign va)) ∧
    (∀ x f, va.toNat % 128 = 0 → z.translate z.iss.core z.iss.ctx .load va.toNat = .ok (x, f) → x.cls ≠ .mortar →
      exec (.launch g d s t) z = .next (z.trapBundle .pageClass va)) ∧
    (∀ pa f, va.toNat % 128 = 0 → MortarRange z .load va 128 pa f →
      (z.me.accessing = true → exec (.launch g d s t) z = .next (blocked (kept z f))) ∧
      (z.me.accessing = false → (kept z f).rangeQuiet pa 128 = false → exec (.launch g d s t) z = .next (held (kept z f))) ∧
      (z.me.accessing = false → (kept z f).rangeQuiet pa 128 = true → z.poisoned pa 128 = true →
        exec (.launch g d s t) z = .next (z.trapBundle .memUncorr va))) ∧
    (∀ pa f, PacketReady z va pa f → 63 < n ∨ q.mapped = false ∨ z.procOf z.iss.core z.iss.ctx ≠ some q.proc.toNat →
      exec (.launch g d s t) z = .next (z.trapBundle .launchQueue 0)) ∧
    (∀ pa f, LaunchReady z va n pa f →
      let w := (kept z f).takeRange pa 128
      ((q.tail - q.head).toNat = 2 ^ (q.lgsize.toNat + 4) → exec (.launch g d s t) z = .next (w.wrA d 0 1)) ∧
      ((q.tail - q.head).toNat ≠ 2 ^ (q.lgsize.toNat + 4) →
        let at' := q.base.toNat * 128 + 128 * (q.tail.toNat % 2 ^ (q.lgsize.toNat + 4))
        w.writeQuiet at' 128 = true →
        let y := (w.deviceWrite at' (w.readBytes pa 128)).writeNat (at' + 104) 8 (match z.me.task with | none => 0 | some k => k.launch)
        (paExists at' = true → exec (.launch g d s t) z = .next ((({ y with slots := y.slots.put n { q with tail := q.tail + 1 } } : State)).wrA d 1 1)) ∧
        (paExists at' = false → z.iss.status = .ok → exec (.launch g d s t) z = .fault (.noFrame at'))))

/-! ### Traps and system registers -/

/-- R319 to R321: a context that takes a trap and whose handler can be entered is in handler mode at the handler's address, with its loop depth
remembered (where the trap is that of the last bundle before a stop, its loops drain no more: R326); the record in its window holds the report, the resume address, the time and SR_LOOP; its granules are full; nothing else of the context or
of memory changes. R321, R323: a precise trap inside a handler, or a record area that is outside the window or holds a handle, ends the task by
DOUBLE_FAULT; a context without a handler ends by the trap's cause; it issues nothing more. R125, R322: the end of a bundle with ERET reads the resume
address from the record, leaves handler mode, drops the loop records pushed since the trap, and goes on there; an address off 16 bytes raises PC_ALIGN. -/
def Obligations.TrapsAndReturn : Prop :=
  (∀ (s : State) (c x : Nat) (t : TrapInfo) (resume : Word),
    let y := leftBehind s c x
    let k := y.ctx c x
    let e := s.takeTrap c x t resume
    let o := k.winBase + k.tvecRec.toNat * 64
    ¬ (k.handler = true ∧ t.kind = .precise) → HandlerReady y c x →
    e.ctx c x = { k with
      handler := true, handlerDepth := k.loops.length, pc := BitVec.ofNat 64 (k.tvecHandler.toNat * 16)
      loops := if t.kind = .precise ∧ k.lastBeforeStop = true then k.loops.map (fun l => { l with drain := false }) else k.loops } ∧
    (e.core c).lsRead o 8 = (recordWord t).toNat ∧
    (e.core c).lsRead (o + 8) 8 = resume.toNat ∧
    (e.core c).lsRead (o + 16) 8 = t.pc.toNat ∧
    (e.core c).lsRead (o + 24) 8 = t.addr.toNat ∧
    (e.core c).lsRead (o + 32) 8 = (if t.kind = .engine then t.cancelled % 2 ^ 16 * 2 ^ 32 + t.progress % 2 ^ 32 else 0) ∧
    (e.core c).lsRead (o + 40) 8 = y.timeDom.toNat ∧
    (e.core c).lsRead (o + 48) 8 = k.loopWord.toNat ∧
    (∀ i, i < 64 → (e.core c).isFull (o + i) = true) ∧
    (∀ b, b < o ∨ o + 64 ≤ b → (e.core c).lsByte b = (y.core c).lsByte b) ∧
    (∀ z, z ≠ x → e.ctx c z = y.ctx c z) ∧ e = { y with cores := e.cores } ∧ ∀ a, e.byte a = y.byte a) ∧
  (∀ (s : State) (c x : Nat) (t : TrapInfo) (resume : Word),
    let y := leftBehind s c x
    let k := y.ctx c x
    (k.handler = true → t.kind = .precise → s.takeTrap c x t resume = y.endByFault c x .doubleFault) ∧
    (¬ (k.handler = true ∧ t.kind = .precise) → k.tvecHandler = 0 → s.takeTrap c x t resume = y.endByFault c x t.cause) ∧
    (¬ (k.handler = true ∧ t.kind = .precise) → k.tvecHandler ≠ 0 →
      (k.winLen < k.tvecRec.toNat * 64 + 64 ∨ (y.core c).lsAnyTag (k.winBase + k.tvecRec.toNat * 64) 64 = true) →
      s.takeTrap c x t resume = y.endByFault c x .doubleFault) ∧
    ∀ cause, ((y.endByFault c x cause).ctx c x).run ≠ .running) ∧
  (∀ (s0 a : State), a.iss.eret = true → a.iss.wrsr = none →
    let r : Word := BitVec.ofNat 64 (a.myCore.lsRead (a.me.winBase + a.me.tvecRec.toNat * 64 + 8) 8)
    let y := s0.finish a
    (r.toNat % 16 ≠ 0 → y = (s0.atSlot 0).trapBundle .pcAlign r) ∧
    (r.toNat % 16 = 0 → y.me.handler = false ∧ y.me.pc = r ∧ y.me.loops = a.me.loops.drop (a.me.loops.length - a.me.handlerDepth) ∧
      y.me.regs = a.me.regs ∧ y.me.bundle = a.me.bundle + 1 ∧ ∀ b, y.byte b = a.byte b))

/-- R136, R137: what a write of a system register leaves to be read. The fields a register does not have read 0; SR_LEASEMAX and SR_FWSHARE
keep their bounds. -/
def Obligations.SystemRegisters : Prop :=
  ∀ (s : State) (c x : Nat) (v : Word),
    let rd (n : Nat) : Word := (s.writeSr c x n v).readSr c x n
    (∀ n, 0x010 ≤ n → n ≤ 0x017 → rd n = (v.setWidth 16).setWidth 64) ∧
    rd 0x005 = (v.setWidth 12).setWidth 64 ∧
    rd 0x008 = (v.setWidth 5).setWidth 64 ∧
    rd 0x009 = (v.setWidth 1).setWidth 64 ∧
    rd 0x020 = v &&& 0xFFFC00FFFFFFFFF0 ∧
    rd 0x029 = (v.setWidth 32).setWidth 64 ∧
    rd 0x030 = BitVec.ofNat 64 (min (v.toNat % 2 ^ 10) 512) ∧
    rd 0x040 = (v.setWidth 48).setWidth 64 ∧
    rd 0x050 = v &&& 0xFF01 ∧
    rd 0x051 = BitVec.ofNat 64 (max 2 (min (v.toNat % 2 ^ 7) 64)) ∧
    rd 0x006 = v &&& 0xFF000 ∧
    rd 0x007 = v &&& 0x1FF000 ∧
    (∀ n, srAny n = false → srFirmware n = false → s.writeSr c x n v = s) ∧
    s.readSr c x 0x001 = BitVec.ofNat 64 (s.peer.toNat * 2 ^ 24 + x % 4 * 256 + c % 256)

/-! ### Encodings and steps -/

/-- R91 to R106: an instruction that stands in a slot its opcode may take, written as its encoding says, decodes to itself there with every
operand: no bit of an encoding is dropped. The other instructions, the events, have no encoding. -/
def Obligations.EncodeDecode : Prop :=
  ∀ (i : Instr) (w : BitVec 32) (l : BitVec 6) (slot : Nat), i.wf = true → encode i = some (w, l) → slot < 4 →
    standsIn i w slot = true → decodeSlot slot l w = .ok i

/-- Words of the spec's examples, in the slots it gives them: R113, R143, R145, R148, R150, R158, R162, R170, R197, R205. -/
def Obligations.DecodeWords : Prop :=
  decodeSlot 0 0 0x013FFFFB = .ok (.br 3 0xFFFFB) ∧
  decodeSlot 0 0 0x05023206 = .ok (.loop 0 1 100 6) ∧
  decodeSlot 0 0 0x0C034001 = .ok (.waitTake 0 3 0 1) ∧
  decodeSlot 0 0 0x13028010 = .ok (.rdsr 0 5 2) ∧
  decodeSlot 1 0 0x40018E07 = .ok (.addiW 0 3 3 7) ∧
  decodeSlot 1 0 0x470223E4 = .ok (.cmpiLt 0 2 7 100) ∧
  decodeSlot 2 0 0x5502A021 = .ok (.xbaH 0 5 40) ∧
  decodeSlot 1 0 0x600190A1 = .ok (.fadd 0 3 4 5 1) ∧
  decodeSlot 1 0x20 0x69021409 = .ok (.fcvtS64F32 0 4 5 1 true) ∧
  decodeSlot 2 0 0x70021602 = .ok (.ldsFc 0 4 5 2) ∧
  decodeSlot 2 0 0x78010C93 = .ok (.atomCasW 0 2 3 4) ∧
  decodeSlot 2 1 0x8000C038 = .ok (.ldh 0 3 7 1) ∧
  decodeSlot 2 0 0x90014200 = .ok (.dup 0 5 2) ∧
  decodeSlot 3 0 0xB1004230 = .ok (.mma 0 1 2 6) ∧
  decodeSlot 3 0 0xE00214C2 = .ok (.vshrArVv 0 4 5 6 false) ∧
  decodeSlot 0 0 0xC0005000 = .ok (.hdr 0 0 5 0 0 0 0)

/-- R85: a step with an event before it is that event's meaning, with the event taken off the agenda; a message that waits at its home, and can be carried
out, comes first. R90, R102, R104: a step whose turn issues a bundle runs its decoded instructions in slot order, each in the state that the one
before it leaves, on the operands latched at the start and under the scope of the bundle's header; then the bundle ends and the turn with it. That turns
and events alternate, and that the agenda holds what other agents cause, is the model's choice (log entries 8, 78, 81). -/
def Obligations.StepRunsTheDecoded : Prop :=
  (∀ (s : State) (e : Instr) (r : List Instr), s.eventNext = true → s.homeNext [] s.homeWait = none → s.agenda = e :: r →
    step s = exec e { s with agenda := r, eventNext := false }) ∧
  (∀ (s a : State) (e : Instr) (r : List Instr), s.eventNext = true → s.homeNext [] s.homeWait = some (e, r) →
    exec e { s with homeWait := r, homeServes := true, eventNext := false } = .next a → step s = .next { a with homeServes := false }) ∧
  (∀ (s : State) (c x pa : Nat) (f : FrameEntry) (is : List Instr) (a : State), NoEvent s →
    let b := s.beginTurn s.turn
    Issues b c x → Fetches b c x pa f → decodeBundle (b.bundleAt pa) = .ok is →
    let z := (begun b c x f).withScope (slotted is)
    hasDup (destsOf (slotted is)) = false → (begun b c x f).score (slotted is) = .pass → SlotsPass (slotted is) z a →
    step s = .next (turned b (z.finish a) c x))

/-- R90, R104, R107: a bundle that cannot be fetched or decoded, or writes one register twice, traps at once and no slot takes effect; a
slot that raises a precise trap undoes the slots before it, whichever slot it is. That a bundle which writes one register twice is reported at slot 0
is the model's choice (log entry 85). -/
def Obligations.BundleTraps : Prop :=
  ∀ (s : State) (c x : Nat), NoEvent s →
    let b := s.beginTurn s.turn
    Issues b c x →
    ((b.ctx c x).pc.toNat % 16 ≠ 0 → step s = .next (turned b ((b.latch c x).trapAt 0 .pcAlign (b.ctx c x).pc) c x)) ∧
    (∀ e, (b.ctx c x).pc.toNat % 16 = 0 → b.translate c x .fetch (b.ctx c x).pc.toNat = .error e →
      step s = .next (turned b ((b.latch c x).trapAt 0 e (b.ctx c x).pc) c x)) ∧
    (∀ pa f, Fetches b c x pa f →
      (∀ k r, decodeBundle (b.bundleAt pa) = .error (k, r) → step s = .next (turned b ((begun b c x f).trapAt k .illegalOp 0) c x)) ∧
      (∀ is, decodeBundle (b.bundleAt pa) = .ok is →
        (hasDup (destsOf (slotted is)) = true → step s = .next (turned b ((begun b c x f).trapAt 0 .bundleConflict 0) c x)) ∧
        (hasDup (destsOf (slotted is)) = false → (begun b c x f).score (slotted is) = .pass →
          let z := (begun b c x f).withScope (slotted is)
          ∀ before k i after a n t, slotted is = before ++ (k, i) :: after → SlotsPass before z a →
            exec i (a.atSlot k) = .next n → n.iss.status = .trapped → n.iss.trap = some t →
            step s = .next (turned b (z.takeAt t) c x))))

/-- R91: a slot whose guard reads 0 takes no effect and raises no trap, whatever form stands in it. -/
def Obligations.GuardedOff : Prop :=
  ∀ (i : Instr) (z : State), isSlotForm i = true → z.opP i.guard = false → exec i z = .next z

/-- R43, R184: no slot form but SPLOAD and SPINV of a firmware context changes a span table. -/
def Obligations.SpanTablesKept : Prop :=
  ∀ (i : Instr) (z t : State), isSlotForm i = true → exec i z = .next t →
    (¬ Firmware z ∨ ((∀ g a b, i ≠ .spload g a b) ∧ ∀ g a b d, i ≠ .spinv g a b d)) → t.spans = z.spans

/-- Every step keeps memory in its canonical form: addresses strictly rising, no entry that reads as an unlisted address does. -/
def Obligations.MemoryFormKept : Prop :=
  ∀ (s t : State), Memory.wf s.mem = true → step s = .next t → Memory.wf t.mem = true

/-- R6, R73, R311, R340: after a power-on reset memory has its canonical form and lists nothing, no span entry is valid, no tile is
allocated; on every core ctx3 is the firmware context and runs, the others hold no task; the registers hold the values that R137 gives. (A device reset
keeps DRAM: it is not this state.) What memory holds after power-on, the boot address 0 and the other values that the spec does not give are the model's
choice (log entries 1 to 5). -/
def Obligations.ResetState : Prop :=
  let s := State.reset
  Memory.wf s.mem = true ∧ s.mem = [] ∧ s.spans = [] ∧ s.tiles = [] ∧ s.launches = [] ∧ s.snaps = [] ∧
  (∀ c, c < 256 → s.isFirmware c 3 = true ∧ (s.ctx c 3).run = .running ∧ (s.ctx c 3).handler = false ∧
    ∀ x, x < 3 → (s.ctx c x).run = .idle ∧ (s.ctx c x).task = none) ∧
  (∀ c x, c < 256 → x < 4 → s.readSr c x 0x008 = 0 ∧ s.readSr c x 0x009 = 0 ∧ s.readSr c x 0x00A = 0 ∧ s.readSr c x 0x020 = 0 ∧
    s.readSr c x 0x029 = 0x01000000 ∧ s.readSr c x 0x030 = 0x200 ∧ s.readSr c x 0x040 = 0 ∧ s.readSr c x 0x050 = 0x1001 ∧
    s.readSr c x 0x051 = 16 ∧ ∀ n, n < 8 → s.readSr c x (0x010 + n) = 0)

/-! ### Events of a core's contexts -/

/-- R55, R81, R82, R87, R96, R97, R121, R130, R159, R289, R317, R324: what the events of a context do. An event whose condition does not hold
leaves the machine as it is. That a held request goes to the end of the agenda (log entry 78), how an end of a task goes on over several events (19, 39),
and that a barrier fires at an arrival which finds its number or more (52) are the model's choices. -/
def Obligations.ContextEvents : Prop :=
  ∀ (z : State) (c x : Nat),
    let k := z.ctx c x
    -- the stall count runs out
    (Goes z c → 0 < k.readyAt → k.readyAt ≤ z.cycle →
      exec (.stallCountElapse c x) z = .next (z.modCtx c x fun k => { k with readyAt := 0 })) ∧
    (z.cycle < k.readyAt → exec (.stallCountElapse c x) z = .next z) ∧
    -- a pending trap is taken at the boundary, the one detected first
    (∀ t, Goes z c → k.run = .running → k.takesPending = true → k.oldest = some t →
      exec (.trapTake c x) z = .next ((z.modCtx c x fun k => ({ k with pending := k.pending.erase t }).settleAccess t).takeTrap c x t k.pc) ∧
      t ∈ k.pending ∧ ∀ u ∈ k.takeable, ¬ (u.cycle < t.cycle ∨ (u.cycle = t.cycle ∧ u.lane < t.lane))) ∧
    (k.pending = [] → exec (.trapTake c x) z = .next z) ∧
    -- a full/empty wait reaches its bound
    (∀ w, k.feWait.find? (fun w => decide (w.since + 65536 ≤ z.cycle)) = some w → Goes z c → k.run = .running → k.stop.issued = false →
      k.takesPending = false → exec (.feTimeoutScalar c x) z = .next (z.takeTrap c x
        { cause := .feTimeout, kind := .precise, engine := none, slot := w.slot, imm := 0, seq := 0, pc := k.pc, addr := w.addr, cancelled := 0
          progress := 0, cycle := z.cycle } k.pc)) ∧
    (k.feWait = [] → exec (.feTimeoutScalar c x) z = .next z) ∧
    -- a stop is asked, a marker returns
    ((z.core c).frozen.isSome = true → exec (.preemptRequest c x) z = .next (z.post [.preemptRequest c x])) ∧
    ((z.core c).frozen = none → k.run = .running → z.isFirmware c x = false → k.stop.asked = false →
      exec (.preemptRequest c x) z = .next (z.modCtx c x fun k => { k with
        stop := { Stop.none with asked := true }
        loops := match k.loops with | [] => [] | l :: r => { l with drain := true } :: r })) ∧
    ((z.core c).frozen = none → k.run ≠ .starting → z.isFirmware c x = true → exec (.preemptRequest c x) z = .next z) ∧
    (Goes z c → k.stop.issued = true → (∀ m ∈ z.cmdsOf c x, m.wasCut = true) →
      exec (.quiesceMarkerReturn c x 0) z = .next (z.modCtx c x fun k => { k with stop := { k.stop with matrix := true } }) ∧
      exec (.quiesceMarkerReturn c x 1) z = .next (z.modCtx c x fun k => { k with stop := { k.stop with vector := true } }) ∧
      exec (.quiesceMarkerReturn c x 2) z = .next (z.modCtx c x fun k => { k with stop := { k.stop with copy := true } })) ∧
    -- the weight of a drop leaves; the home's acknowledgement frees the entry
    (∀ d r, x < 4 → k.drops = d :: r → d.left = false → (∀ m ∈ z.cmdsOf c x, m.names d.tile = true → d.bundle < m.bundle) →
      exec (.dropRelease c x) z = .next ((z.modCtx c x fun k => { k with drops := { d with left := true } :: r }).deliver
        (homePeer d.tile) (.dropArrival d.tile d.e z.peer.toNat c x))) ∧
    (∀ d r, (z.core c).savedDrops = [] → k.drops = d :: r → d.left = true →
      exec (.dropAck c x d.tile) z = .next (z.modCtx c x fun k => { k with drops := r })) ∧
    -- a barrier of the core
    (∀ u, k.accessing = true → exec (.barrierArrival c x u) z = .next (z.post [.barrierArrival c x u])) ∧
    (∀ u, k.accessing = false → (z.core c).barCourse u = false →
      let b := (z.core c).bars.get ⟨0, false⟩ u
      exec (.barrierArrival c x u) z = .next (z.modCore c fun q => { q with
        bars := q.bars.set ⟨0, false⟩ u (if (z.core c).barN u ≤ b.count then ⟨0, !b.gen⟩ else ⟨b.count + 1, b.gen⟩) })) ∧
    -- a barrier of the course, whose number is that of its lowest core which joins it
    (∀ u i, k.accessing = false → (z.core c).barCourse u = true → i < 8 → (z.core (courseOf c * 8 + i)).barCourse u = true →
      (∀ j, j < i → (z.core (courseOf c * 8 + j)).barCourse u = false) →
      let b := z.courseBars.get ⟨0, false⟩ (8 * courseOf c + u)
      let arrived : Barrier := if (z.core (courseOf c * 8 + i)).barN u ≤ b.count then ⟨0, !b.gen⟩ else ⟨b.count + 1, b.gen⟩
      exec (.barrierArrival c x u) z = .next { z with courseBars := z.courseBars.set ⟨0, false⟩ (8 * courseOf c + u) arrived }) ∧
    -- the end of a task: its trap, its handles, its context
    (∀ t, x < 4 → k.run = .ending → k.task = some t → z.ctxQuiet c x = true → k.drops = [] →
      (∀ p, firstTrap k.pending = some p → exec (.taskEnd c x) z = .next (z.endByFault c x p.cause)) ∧
      (k.pending = [] → ∀ e r, z.snapsOf (z.owner c x) (z.ownWindow c x) = e :: r →
        (k.discarded = false → exec (.taskEnd c x) z = .next (z.acceptSnap e.1)) ∧
        (k.discarded = true → z.rangeLeasedByOther c x e.2 = false → (∀ h ∈ z.shadows, h.reg = e.1 → z.lineQuiet h.line = true) →
          exec (.taskEnd c x) z = .next (z.rejectSnap e.1))) ∧
      (k.pending = [] → z.snapsOf (z.owner c x) (z.ownWindow c x) = [] →
        (k.regs.h ≠ [] → exec (.taskEnd c x) z = .next (z.queueEndDrops c x)) ∧
        (k.regs.h = [] → (z.core c).taggedWords k.winBase k.winLen = [] → z.launchQuiet t.launch = true →
          exec (.taskEnd c x) z = .next (z.freeContext c x t))))

/-- R72, R97, R130, R131, R157, R288, R289, R294, R306: results, acknowledgements and refusals that come back to a context, and RPOSTs that reach one.
An answer carries the number of the bundle whose access it ends, so that one of several is the right one. A refused access stays on its way until its
deferred trap is taken, with its address; a check of a held bundle is answered by 0 or by a cause, and a word that passes is kept for it. The refusal
of a piece of a copy waits for the pieces before it. That checks travel so, that a context that is starting is closed to an RPOST, and that the own bit
of the partition map decides an RPOST of this package, is the model's choice (log entries 26, 27, 103). -/
def Obligations.ArrivalEvents : Prop :=
  ∀ (z : State) (c x : Nat) (v : Word),
    let k := z.ctx c x
    (∀ l r, k.loads = l :: r → l.pa = none → (l.size = 1 ∨ l.size = 2 ∨ l.size = 4 ∨ l.size = 8) →
      (∀ n, l.dst = .b n → 0 < n → n < 64 → exec (.variableResultArrival c x false n v) z = .next
        ((z.modCtx c x fun k => { k with loads := r }).modCtx c x fun k => k.setB n (loaded l.signed l.size v.toNat))) ∧
      (l.dst = .b 0 → exec (.variableResultArrival c x false 0 v) z = .next
        ((z.modCtx c x fun k => { k with loads := r }).modCtx c x id))) ∧
    (∀ l r, k.loads = [] → k.remote = l :: r → l.refused = false →
      (∀ n, l.dst = some (.b n) → 0 < n → n < 64 → (l.size = 1 ∨ l.size = 2 ∨ l.size = 4 ∨ l.size = 8) →
        exec (.variableResultArrival c x false n v) z = .next
          ((z.modCtx c x fun k => { k with remote := r }).modCtx c x fun k => k.setB n (loaded l.signed l.size v.toNat))) ∧
      (∀ n, l.dst = some (.h n) → n < 64 → v ≠ 0 → exec (.variableResultArrival c x true n v) z = .next
        ((z.modCtx c x fun k => { k with remote := r }).modCtx c x fun k => k.setH n (some (Handle.ofWord v)))) ∧
      (l.dst = none → exec (.remoteAcknowledgement c ⟨x, false, l.bundle⟩) z = .next (z.modCtx c x fun k => { k with remote := r })) ∧
      (∀ cause, c ≠ 256 → k.faulted = none → k.discarded = false →
        exec (.remoteRefusal c x l.pc ⟨0, false, l.bundle⟩ cause) z = .next
          ((z.modCtx c x fun k => { k with remote := k.remote.map fun m => if m = l then { m with refused := true } else m }).modCtx c x fun k =>
            { k with pending := k.pending ++ [deferredTrap z (refusalCause cause) l.pc l.va] }))) ∧
    (∀ n t w, k.late = [] → k.reply.asked = some (n, t) → n = 4 ∨ n = 11 ∨ n = 12 →
      exec (.remoteAcknowledgement c ⟨x, true, w⟩) z = .next (z.modCtx c x fun k => { k with reply := { k.reply with
        asked := if n = 12 then some (n, t) else none, probe := some 0, kept := if n = 11 then some w else k.reply.kept } }) ∧
      ∀ pc cause, c ≠ 256 → cause ≠ 0 → exec (.remoteRefusal c x pc ⟨0, true, w⟩ cause) z = .next
        (z.modCtx c x fun k => { k with reply := { k.reply with asked := none, probe := some cause } })) ∧
    (∀ pc start cause checked w m, c ≠ 256 → z.findCmd c m.serial = some m → start < 2 ^ 32 →
      let what : RefusalOf := ⟨2 ^ 33 * m.serial + (start + 1) + 1, checked, w⟩
      let refuse := exec (.remoteRefusal c x pc what cause) z
      let fault := (z.engineFault c m (refusalCause cause) m.farVa).unstray c m.serial
      ((∀ q, m.op ≠ .copy q) → refuse = .next fault) ∧
      (∀ q, m.op = .copy q → q.inFlight = [] → refuse = .next fault) ∧
      ∀ q p r, m.op = .copy q → q.inFlight = p :: r →
        ((p.start = start ∨ start = 0) → refuse = .next fault) ∧
        (p.start ≠ start → start ≠ 0 → refuse = .next (z.post [.remoteRefusal c x pc what cause]))) ∧
    (∀ peer src srcCtx q amount pc, k.task.isSome = true → k.run ≠ .starting → z.leaving c x = false → z.partition.get false peer = true →
      exec (.rpostArrival peer src srcCtx c x q amount pc) z = .next
        ((z.modCtx c x fun k => k.setQ q (min ((k.regs.q.get 0 q).toNat + amount) 65535)).deliver peer
          (.rpostAck src ⟨srcCtx, z.peer.toNat * 1024 + x * 256 + c⟩))) ∧
    (∀ peer src srcCtx q amount pc, k.task = none ∨ k.run = .starting ∨ z.partition.get false peer = false →
      exec (.rpostArrival peer src srcCtx c x q amount pc) z = .next
        (z.deliver peer (.rpostRefusal src ⟨srcCtx, z.peer.toNat * 1024 + x * 256 + c⟩ pc))) ∧
    (∀ t, c ≠ 256 → exec (.rpostAck c ⟨x, t⟩) z = .next (z.modCtx c x fun k => { k with rposts := k.rposts.erase t })) ∧
    (∀ t pc, c ≠ 256 → k.faulted = none → k.discarded = false →
      exec (.rpostRefusal c ⟨x, t⟩ pc) z = .next ((z.modCtx c x fun k => { k with rposts := k.rposts.erase t }).modCtx c x fun k =>
        { k with pending := k.pending ++ [deferredTrap z .rpostDenied pc 0] })) ∧
    (∀ t pc, exec (.rpostRefusal 256 ⟨x, t⟩ pc) z = .next { z with refusedFlags := z.refusedFlags + 1 } ∧ exec (.rpostAck 256 ⟨x, t⟩) z = .next z)

/-! ### Events at the homes of tiles -/

/-- R45, R46, R50 to R52, R60, R63, R65, R104, R170, R173, R180: weight returns to a home and the last of it frees the tile; a refill adds 2^32; the home
answers who is unique and what a descriptor holds; old blocks return when nothing reads them. A tile that a home allocates for a shape is new (its index
was free, its storage on blocks of 256 bytes lies in the heap of its tier and place and overlaps no storage in use), reads zero, and has weight 2^31;
and what the answers of homes do in the context that waits for them. A shape that finds no room is answered by index 0. The place of a tile, and its index,
are free values where the spec leaves them open (log entries 6, 9). -/
def Obligations.TileHomesAndAnswers : Prop :=
  (∀ (z : State) (t : BitVec 40) (e : BitVec 5) (peer c x : Nat) (d : Desc), z.desc t = some d →
    let r := d.returned + BitVec.ofNat 64 (2 ^ e.toNat)
    (c ≠ 256 → r.toNat < 2 ^ 62 →
      (r ≠ d.total → exec (.dropArrival t e peer c x) z = .next
        ((z.setDesc t { d with returned := r }).deliver peer (.dropAck c x t))) ∧
      (r = d.total → d.scale = none → exec (.dropArrival t e peer c x) z = .next
        (({ z with tiles := z.tiles.del (t.toNat % 2 ^ 26), scaleUses := z.scaleUses.del (t.toNat % 2 ^ 26) } : State).deliver peer (.dropAck c x t)))) ∧
    (c ≠ 256 → (d.returned + 1).toNat < 2 ^ 62 → exec (.refillRequest t peer c x) z = .next
      ((z.setDesc t { d with total := d.total + 0x100000000, returned := d.returned + 1 }).deliver peer (.refillReply c x t))) ∧
    exec (.uniquenessQuery t e peer c x) z = .next (z.deliver peer (.uniquenessAnswer c x t
      (decide (BitVec.ofNat 64 (2 ^ e.toNat) + d.returned = d.total)))) ∧
    (let ws : List Word := [BitVec.ofNat 64 (d.fword.toNat * 2 ^ 48 + d.layout.toNat * 2 ^ 46 + d.cols.toNat * 2 ^ 32 + d.rows.toNat * 2 ^ 18
        + (if d.moving then 16 else 0) + (if d.isScale then 8 else 0) + (if d.opened then 4 else 0) + (if d.sealed then 2 else 0) + 1),
        d.storage.setWidth 64, d.total, d.returned, (match d.scale with | none => 0 | some h => h.toWord),
        BitVec.ofNat 64 (d.pitch.toNat * 2 ^ 32 + d.blocks.toNat), d.born, 0]
     c ≠ 256 → exec (.descriptorRead t peer c x 0) z = .next (z.deliver peer (.descriptorReply c x t ws)) ∧
     (∀ i j, i ≤ d.rows.toNat → j ≤ d.cols.toNat →
       exec (.descriptorRead t peer c x (1 + i * 65536 + j)) z = .next (z.deliver peer (.descriptorReply c x t
         (ws ++ [BitVec.ofNat 64 (z.tileElem d i j), if z.elemPoisoned d (i * (d.cols.toNat + 1) + j) then 1 else 0,
           BitVec.ofNat 64 (1 + i * 65536 + j)]))))) ∧
    (∀ i run, z.oldBlocks[i]? = some run →
      (z.storageInUse run = true → exec (.oldBlocksReturn i) z = .next z) ∧
      (z.storageInUse run = false → exec (.oldBlocksReturn i) z = .next { z with oldBlocks := z.oldBlocks.eraseIdx i }))) ∧
  (∀ (z : State) (c x : Nat) (t : BitVec 40),
    (∀ w y, ShapeWord w → z.allocate (dieOf c) (Shape.ofWord w) = .ok (y, t) → w.getLsbD 62 = false →
      exec (.tileAllocate c x w) z = .next (y.post [.allocationReply c x t]) ∧
      z.desc t = none ∧ t.toNat % 2 ^ 24 ≠ 0 ∧
      ∃ d, y.desc t = some d ∧ d.total = 0x80000000 ∧ d.returned = 0 ∧ d.scale = none ∧ d.opened = w.getLsbD 63 ∧
        d.sealed = !w.getLsbD 63 ∧ d.rows = w.extractLsb' 16 14 ∧ d.cols = w.extractLsb' 30 14 ∧ d.layout = w.extractLsb' 44 2 ∧
        d.fword = w.extractLsb' 0 16 ∧
        let lo := d.storage.toNat
        let hi := d.storage.toNat + d.blocks.toNat * 256
        lo % 256 = 0 ∧ (heapRange (bits w 46 2) (bits w 48 7)).1 ≤ lo ∧ hi ≤ (heapRange (bits w 46 2) (bits w 48 7)).2 ∧
        (∀ u ∈ z.usedRuns, ¬ (lo < u.2 ∧ u.1 < hi)) ∧ (∀ a, lo ≤ a → a < hi → y.byte a = 0)) ∧
    (∀ w e, w.getLsbD 62 = false → z.allocate (dieOf c) (Shape.ofWord w) = .error e →
      exec (.tileAllocate c x w) z = .next (z.post [.allocationReply c x (if e = .sliceFull then 0x1000000 else 0)])) ∧
    ((z.ctx c x).late = [] →
      ((z.ctx c x).reply.asked = some (2, 0) → exec (.allocationReply c x t) z = .next (z.modCtx c x fun k =>
        { k with reply := { k.reply with asked := none, tile := some t } })) ∧
      (∀ b, (z.ctx c x).reply.asked = some (1, t) → exec (.uniquenessAnswer c x t b) z = .next (z.modCtx c x fun k =>
        { k with reply := { k.reply with asked := none, unique := some b } })) ∧
      (∀ ws, c ≠ 256 → (z.ctx c x).reply.asked = some (0, t) → exec (.descriptorReply c x t ws) z = .next (z.modCtx c x fun k =>
        { k with reply := { k.reply with asked := none, desc := some ws } }))) ∧
    (∀ h j r, c ≠ 256 → (z.ctx c x).refills = (h, j, t) :: r → exec (.refillReply c x t) z = .next (z.modCtx c x fun k =>
      (({ k with refills := r } : Ctx).setH h (some ⟨false, 31, t⟩)).setH j (some ⟨false, 31, t⟩))))

/-! ### Events of the coherence protocol -/

/-- R256, R257, R259 to R261, R263, R265, R267: how a home answers GetS, GetM, Upg and GetU by the state of its directory; for the halves of a line that
do not allow the grant it sends the bridge a forward each, which the requester counts, and the halves then allow it; a line in a live snapshot range is
stated with its shadow apart (`Obligations.ShadowLeaseAndPowerEvents`); what a put does: the sums of one that is a holder no more stay with its line,
for the Recall that takes them; a message under an old incarnation, which comes after the flip at its home, is discarded. How messages wait at their home, and in which order, is the model's choice (log entries 44, 81). -/
def Obligations.CoherenceRequests : Prop :=
  ∀ (z : State) (a line : Nat) (inc : Bool),
    -- an old incarnation
    (∀ sums src acks halves half dest excl,
      (z.incOk a line inc = false → ∀ e ∈ [Instr.gets a line inc, .getm a line inc, .upg a line inc, .getu a line inc, .putm a line inc,
        .pute a line inc, .putu a line inc 0 sums, .shadow ⟨a, inc⟩ dest line], exec e z = .next z) ∧
      (z.incOk src line inc = false → ∀ e ∈ [Instr.data ⟨src, a, inc⟩ line ⟨acks, halves⟩ excl, .invack ⟨src, a, inc⟩ line, .putu src line inc (dest + 1) sums],
        exec e z = .next z) ∧
      (z.incOk 256 line inc = false → exec (.bridgeHalfData line half ⟨excl, a, inc⟩) z = .next z)) ∧
    (z.incOk a line inc = true →
    let w := z.makeEntry line
    let dir := w.dir.look line
    let toBridge (excl : Bool) : State × Nat := w.askBridge a line excl
    let become (y : State) (d : DirState) (es : List Instr) : Host.Outcome State Fault Refusal := .next ((dirTo y line d).post es)
    let invs (cs : List Nat) : List Instr := (cs.filter (· != a)).map fun c => .inv c a line false
    let courseInvs (ks : List Nat) : List Instr := ks.map fun k => .inv k a line true
    -- a message that cannot be carried out waits, and so does one behind an earlier message of its line
    (∀ e ∈ [Instr.gets a line inc, .getm a line inc, .upg a line inc, .getu a line inc, .putm a line inc, .pute a line inc],
      (z.homeReady e = false ∨ (z.homeServes = false ∧ ∃ b ∈ z.homeWait, line ∈ z.homeLines b)) → exec e z = .next (waitsHome z e)) ∧
    -- what the bridge is asked
    (∀ excl, let r := toBridge excl
      r.2 = (w.halvesToAsk line excl).length ∧
      r.1.agenda = w.agenda ++ (w.halvesToAsk line excl).map (fun i => .bridgeHalfData line i ⟨excl, a, w.inc 256⟩) ∧
      (w.halvesToAsk line excl = [] → r = (w, 0)) ∧
      ∀ i, i < 2 → halfOk (paTier (line * 128)) excl (r.1.halves.get .I (2 * line + i)) = true) ∧
    -- GetS
    (Serves z (.gets a line inc) →
      (dir = none → w.halvesToAsk line true = [] → exec (.gets a line inc) z = become w (.EM a) [.data ⟨homeAgent, a, false⟩ line ⟨0, 0⟩ true]) ∧
      (dir = none → w.halvesToAsk line true ≠ [] → exec (.gets a line inc) z =
        become (toBridge false).1 (.S (.cores [a])) [.data ⟨homeAgent, a, false⟩ line ⟨0, (toBridge false).2⟩ false]) ∧
      (∀ cs, dir = some (.S (.cores cs)) →
        exec (.gets a line inc) z = become (toBridge false).1 (.S (if a ∈ cs then .cores cs else if cs.length < 4 then .cores (cs ++ [a])
          else .courses ((cs ++ [a]).map courseOf).eraseDups)) [.data ⟨homeAgent, a, false⟩ line ⟨0, (toBridge false).2⟩ false]) ∧
      (∀ o, dir = some (.EM o) → o ≠ a → exec (.gets a line inc) z = become w (.S (.cores [o, a])) [.fwdGets o a line]) ∧
      (∀ hs, dir = some (.U hs) → exec (.gets a line inc) z =
        become w (.EM a) (hs.map (fun h => .recall h a line) ++ [.data ⟨homeAgent, a, false⟩ line ⟨hs.length, 0⟩ true]))) ∧
    -- GetM, and Upg by a core that the home does not list
    (w.innermost line = none → ∀ e, e = Instr.getm a line inc ∨ e = .upg a line inc → Serves z e →
      (dir = none → exec e z = become (toBridge true).1 (.EM a) [.data ⟨homeAgent, a, false⟩ line ⟨0, (toBridge true).2⟩ true]) ∧
      (∀ cs, dir = some (.S (.cores cs)) → (e = .getm a line inc ∨ a ∉ cs) → exec e z =
        become ((toBridge true).1.post (invs cs)) (.EM a) [.data ⟨homeAgent, a, false⟩ line ⟨(invs cs).length, (toBridge true).2⟩ true]) ∧
      (∀ ks, dir = some (.S (.courses ks)) → exec e z =
        become ((toBridge true).1.post (courseInvs ks)) (.EM a) [.data ⟨homeAgent, a, false⟩ line ⟨ks.length, (toBridge true).2⟩ true]) ∧
      (∀ o, dir = some (.EM o) → exec e z = become w (.EM a) [.fwdGetm o a line]) ∧
      (∀ hs, dir = some (.U hs) → exec e z =
        become w (.EM a) (hs.map (fun h => .recall h a line) ++ [.data ⟨homeAgent, a, false⟩ line ⟨hs.length, 0⟩ true]))) ∧
    -- Upg by a listed sharer: permission without data
    (w.innermost line = none → Serves z (.upg a line inc) → ∀ cs, dir = some (.S (.cores cs)) → a ∈ cs →
      exec (.upg a line inc) z =
        become ((toBridge true).1.post (invs cs)) (.EM a) [.ackcount a line ⟨(invs cs).length, (toBridge true).2⟩]) ∧
    -- GetU
    (Serves z (.getu a line inc) →
      (dir = none → exec (.getu a line inc) z = become (toBridge true).1 (.U [a]) [.ackcount a line ⟨0, (toBridge true).2⟩]) ∧
      (∀ cs, dir = some (.S (.cores cs)) → exec (.getu a line inc) z =
        become ((toBridge true).1.post (invs cs)) (.U [a]) [.ackcount a line ⟨(invs cs).length, (toBridge true).2⟩]) ∧
      (∀ o, dir = some (.EM o) → exec (.getu a line inc) z = become w (.U [a]) [.fwdGetm o a line]) ∧
      (∀ hs, dir = some (.U hs) → exec (.getu a line inc) z = become w (.U (hs.filter (· != a) ++ [a])) [.ackcount a line ⟨0, 0⟩])) ∧
    -- puts
    (∀ e, e = Instr.putm a line inc ∨ e = .pute a line inc → Serves z e →
      (z.dir.look line = some (.EM a) → exec e z = .next
        (({ z with dir := z.dir.del line, entryAge := z.entryAge.filter (· != line) } : State).post [.putack a line])) ∧
      ((∀ o, z.dir.look line = some (.EM o) → o ≠ a) → exec e z = .next (z.post [.putack a line]))) ∧
    (∀ o wide v, Serves z (.putu a line inc 0 [(o, wide, v)]) →
      (∀ hs, z.dir.look line = some (.U hs) → a ∈ hs →
        let n := if wide then 8 else 4
        let pa := line * 128 + 4 * o
        exec (.putu a line inc 0 [(o, wide, v)]) z = .next
          (let y := z.writeBytes pa (toBytes n ((memValue z pa n + v.toNat) % 2 ^ (8 * n)))
           let left := hs.filter (· != a)
           ((if left = [] then { y with dir := z.dir.del line, entryAge := z.entryAge.filter (· != line) }
             else dirTo y line (.U left)).clearSums a line).post [.putack a line])) ∧
      ((∀ hs, z.dir.look line = some (.U hs) → a ∉ hs) →
        exec (.putu a line inc 0 [(o, wide, v)]) z = .next (z.post [.putack a line]))))

/-- R97, R257, R262, R265, R267, R270: a line at an L1 that waits is filled by its data, the acknowledgements and the halves, and performs the loads that
waited; what forwards, an Inv, a Recall and a PutAck do to it, and when they wait; a fill into a full set evicts a line that no one leases, or waits.
When a probe waits (log entry 44), which bits of the address choose the set (41), that a load which meets an uncorrected error raises a deferred trap
there (32), and what the bridge brings (53) are the model's choices. -/
def Obligations.CoherenceLines : Prop :=
  ∀ (z : State) (a line : Nat),
    let at_ (l : L1Line) : State := z.setL1 a line l
    (z.l1 a line = none → ∀ src n m half excl, exec (.data ⟨src, a, z.inc src⟩ line ⟨n, m⟩ excl) z = .next z ∧ exec (.ackcount a line ⟨n, m⟩) z = .next z ∧
      exec (.invack ⟨src, a, z.inc src⟩ line) z = .next z ∧ exec (.bridgeHalfData line half ⟨excl, a, z.inc 256⟩) z = .next z ∧
      exec (.putack a line) z = .next z) ∧
    (∀ l, z.l1 a line = some l →
      -- the answer to a request
      (∀ src acks halves excl e, l.waits = true →
        (e = Instr.data ⟨src, a, z.inc src⟩ line ⟨acks, halves⟩ excl ∨ (excl = true ∧ e = .ackcount a line ⟨acks, halves⟩)) →
        let y := at_ { l with grant := some ⟨acks, halves, excl⟩ }
        let st : LineState := if l.state = .ISD then (if excl then .E else .S) else if l.state = .IUA then .U else .M
        let full := (y.mergeSums line l.sums).setL1 a line (arrived z line l st)
        -- it comes before the acknowledgements and the halves
        (l.got < acks ∨ l.gotHalves < halves → exec e z = .next y) ∧
        -- the line arrives
        (acks ≤ l.got → halves ≤ l.gotHalves → l.put = false →
          ((∀ x, (z.ctx a x).loads = []) →
            (l.lost = false → exec e z = .next full) ∧ (l.lost = true → exec e z = .next (full.dropL1 a line))) ∧
          -- and a load that waited for it is performed
          (∀ x d p n, x < 4 → l.state ≠ .IUA → l.lost = false → l.sums = [] → NoLoadsBut z a x → (z.ctx a x).loads = [d] → d.pa = some p →
            lineOf p = line → d.refused = false → d.dst = .b n →
            (z.poisoned p d.size = false → exec e z = .next ((full.modCtx a x fun k => { k with loads := [{ d with pa := none }] }).post
              [.variableResultArrival a x false n (BitVec.ofNat 64 (memValue z p d.size))])) ∧
            (z.poisoned p d.size = true → (z.ctx a x).faulted = none → (z.ctx a x).discarded = false → exec e z = .next
              ((full.modCtx a x fun k => { k with loads := [{ d with refused := true }] }).modCtx a x fun k =>
                { k with pending := k.pending ++ [deferredTrap z .memUncorr d.pc d.va] }))))) ∧
      -- acknowledgements and halves
      (∀ src, l.waits = true → (∀ g, l.grant = some g → l.got + 1 < g.acks ∨ l.gotHalves < g.halves) →
        exec (.invack ⟨src, a, z.inc src⟩ line) z = .next (at_ { l with got := l.got + 1 })) ∧
      (∀ half excl, l.waits = true → (∀ g, l.grant = some g → l.got < g.acks ∨ l.gotHalves + 1 < g.halves) →
        exec (.bridgeHalfData line half ⟨excl, a, z.inc 256⟩) z = .next (at_ { l with gotHalves := l.gotHalves + 1 })) ∧
      (∀ src g, l.waits = true → l.state ≠ .ISD → l.grant = some g → g.acks ≤ l.got + 1 → g.halves ≤ l.gotHalves → l.put = false → l.lost = false →
        (∀ x, (z.ctx a x).loads = []) → exec (.invack ⟨src, a, z.inc src⟩ line) z = .next
          (((at_ { l with got := l.got + 1 }).mergeSums line l.sums).setL1 a line (arrived z line l (if l.state = .IUA then .U else .M)))) ∧
      (∀ src n m half excl, l.waits = false → exec (.data ⟨src, a, z.inc src⟩ line ⟨n, m⟩ excl) z = .next z ∧ exec (.ackcount a line ⟨n, m⟩) z = .next z ∧
        exec (.invack ⟨src, a, z.inc src⟩ line) z = .next z ∧ exec (.bridgeHalfData line half ⟨excl, a, z.inc 256⟩) z = .next z) ∧
      -- a put is acknowledged
      ((l.put = false ∨ l.sums = []) → (l.state = .MIA ∨ l.state = .SIA ∨ l.state = .IIA) → exec (.putack a line) z = .next (z.dropL1 a line)) ∧
      ((l.put = false ∨ l.sums = []) → ¬ (l.state = .MIA ∨ l.state = .SIA ∨ l.state = .IIA) →
        exec (.putack a line) z = .next (at_ { l with put := false })) ∧
      (l.put = true → l.sums ≠ [] → exec (.putack a line) z = .next (z.post [.putack a line])) ∧
      -- forwards
      (∀ r, (l.state = .ISD ∨ l.state = .IMAD ∨ l.state = .SMA ∨ l.state = .IUA ∨
          (l.stable = true ∧ (z.leasedOn a line = true ∨ z.lineWanted a line = true))) →
        exec (.fwdGets a r line) z = .next (waitsAt z a (.fwdGets a r line)) ∧
        exec (.fwdGetm a r line) z = .next (waitsAt z a (.fwdGetm a r line))) ∧
      (∀ r, z.probeHeld a line = false → (l.state = .M ∨ l.state = .E) → z.leasedOn a line = false → z.lineWanted a line = false →
        exec (.fwdGets a r line) z = .next ((at_ { l with state := .S }).post [.data ⟨a, r, z.inc a⟩ line ⟨0, 0⟩ false]) ∧
        exec (.fwdGetm a r line) z = .next ((z.dropL1 a line).post [.data ⟨a, r, z.inc a⟩ line ⟨0, 0⟩ true])) ∧
      (∀ r, z.probeHeld a line = false → l.state = .MIA →
        exec (.fwdGets a r line) z = .next ((at_ { l with state := .SIA }).post [.data ⟨a, r, z.inc a⟩ line ⟨0, 0⟩ false]) ∧
        exec (.fwdGetm a r line) z = .next ((at_ { l with state := .IIA }).post [.data ⟨a, r, z.inc a⟩ line ⟨0, 0⟩ true])) ∧
      -- an Inv
      (∀ r, z.invWaits a line = false →
        let ack : Instr := .invack ⟨a, r, z.inc a⟩ line
        (l.state = .S → exec (.inv a r line false) z = .next ((z.dropL1 a line).post [ack])) ∧
        (l.state = .ISD → exec (.inv a r line false) z = .next ((at_ { l with lost := true }).post [ack])) ∧
        (l.state = .SMA → exec (.inv a r line false) z = .next ((at_ { l with state := .IMAD }).post [ack])) ∧
        (l.state = .SIA → exec (.inv a r line false) z = .next ((at_ { l with state := .IIA }).post [ack])) ∧
        ((l.state = .M ∨ l.state = .E ∨ l.state = .U ∨ l.state = .IMAD ∨ l.state = .IUA ∨ l.state = .MIA ∨ l.state = .IIA) →
          exec (.inv a r line false) z = .next (z.post [ack]))) ∧
      -- a Recall
      (∀ r, z.probeHeld a line = false → l.state = .U → z.lineWanted a line = false →
        exec (.recall a r line) z = .next ((z.dropL1 a line).post [.putu a line (z.inc a) (r + 1) l.sums])) ∧
      (∀ r, z.probeHeld a line = false → l.state = .IIA → l.put = true →
        exec (.recall a r line) z = .next ((at_ { l with sums := [] }).post [.putu a line (z.inc a) (r + 1) l.sums])) ∧
      (∀ r, (z.probeHeld a line = true ∨ (l.state = .IUA ∧ l.put = false) ∨ (l.state = .U ∧ z.lineWanted a line = true)) →
        exec (.recall a r line) z = .next (waitsAt z a (.recall a r line)))) ∧
    -- a probe behind another of its line waits
    (∀ r, z.probeHeld a line = true → exec (.fwdGets a r line) z = .next (waitsAt z a (.fwdGets a r line)) ∧
      exec (.fwdGetm a r line) z = .next (waitsAt z a (.fwdGetm a r line))) ∧
    (∀ r, z.invWaits a line = true → exec (.inv a r line false) z = .next (waitsAt z a (.inv a r line false))) ∧
    (∀ r, z.l1 a line = none → z.invWaits a line = false → exec (.inv a r line false) z = .next (z.post [.invack ⟨a, r, z.inc a⟩ line])) ∧
    (∀ r, (∀ i, i < 8 → z.l1 (8 * a + i) line = none ∧ z.invWaits (8 * a + i) line = false) →
      exec (.inv a r line true) z = .next (z.post [.invack ⟨homeAgent, r, z.inc homeAgent⟩ line])) ∧
    (∀ r, z.l1 a line = none → z.probeHeld a line = false →
      exec (.fwdGets a r line) z = .next (z.post [.data ⟨a, r, z.inc a⟩ line ⟨0, 0⟩ false]) ∧
      exec (.fwdGetm a r line) z = .next (z.post [.data ⟨a, r, z.inc a⟩ line ⟨0, 0⟩ true]) ∧
      exec (.recall a r line) z = .next (z.post [.putu a line (z.inc a) (r + 1) []])) ∧
    -- a fill into a full set
    ((z.waysOf a line).length < 8 → z.roomFor a line = some z) ∧
    (8 ≤ (z.waysOf a line).length →
      ((∀ e ∈ z.waysOf a line, z.leasedOn a e.1 = true) → z.roomFor a line = none) ∧
      (∀ y, z.roomFor a line = some y → ∃ e ∈ z.waysOf a line, z.leasedOn a e.1 = false ∧
        let u : State := { z with freeUse := z.freeUse + 1 }
        (e.2.state = .M → y = (u.setL1 a e.1 { e.2 with state := .MIA }).post [.putm a e.1 (u.inc a)]) ∧
        (e.2.state = .E → y = (u.setL1 a e.1 { e.2 with state := .MIA }).post [.pute a e.1 (u.inc a)]) ∧
        (e.2.state = .S → y = u.dropL1 a e.1) ∧
        (e.2.state = .U → y = (u.setL1 a e.1 { e.2 with state := .IIA, put := true }).post [.putu a e.1 (u.inc a) 0 e.2.sums])))

/-- R40, R42, R164, R263, R265 to R267, R269, R272, R273, R339: the shadow that a write takes first, and its answers; a lease begins and ends; an agent
that rejoins, and what the home answers for it; a translation that is removed; the host's halves; a core that is gated and wakes. Which place of its
pool a shadow takes, which core may be gated, and what the bridge brings from the host are the model's choice (log entries 6, 51, 53). -/
def Obligations.ShadowLeaseAndPowerEvents : Prop :=
  ∀ (z : State) (c x line : Nat),
    let k := z.ctx c x
    -- shadows
    (∀ inc, z.incOk c line inc = true → Serves z (.shadow ⟨c, inc⟩ x line) →
      (z.innermost line = none → exec (.shadow ⟨c, inc⟩ x line) z = .next (z.post [.shadowTaken c x line 0])) ∧
      (∀ r g, z.innermost line = some (r, g) →
        (z.hasShadow r line = true → exec (.shadow ⟨c, inc⟩ x line) z = .next (z.post [.shadowTaken c x line g.gen.toNat])) ∧
        (z.hasShadow r line = false → 129024 ≤ z.poolUse (lineDie line) →
          exec (.shadow ⟨c, inc⟩ x line) z = .next (z.post [.shadowFull c x line])) ∧
        (z.hasShadow r line = false → z.poolUse (lineDie line) < 129024 → z.openSums line = [] →
          (∀ w, w < 16 → z.tag (line * 128 + 8 * w) = false) →
          exec (.shadow ⟨c, inc⟩ x line) z = .next (({ z with
            shadows := z.shadows ++
              [⟨z.freePlace (lineDie line), r, line, (List.range 128).map fun i => z.byte (line * 128 + i), List.replicate 16 false,
                (List.range 4).map fun u => z.poison.get false (line * 4 + u)⟩]
            freeUse := z.freeUse + 1 } : State).post [.shadowTaken c x line g.gen.toNat])))) ∧
    (∀ h ∈ z.shadows, lineDie h.line = lineDie line → h.slot ≠ z.freePlace (lineDie line)) ∧
    (∀ l g, z.l1 c line = some l → k.shadowWait = some line → exec (.shadowTaken c x line g) z = .next
      ((z.setL1 c line { l with sg := BitVec.ofNat 32 g }).modCtx c x fun k => { k with shadowWait := none })) ∧
    (k.shadowWait = some line → exec (.shadowFull c x line) z = .next (z.modCtx c x fun k =>
      { k with shadowWait := none, reply := { k.reply with full := some line } })) ∧
    -- leases
    (∀ l q, k.leases = [l] → l.state = .acquiring → z.l1 c l.line = some q → (q.state = .M ∨ q.state = .E) →
      z.leasedByOther c x l.line = false → exec (.leaseAcquired c x) z = .next
        ((z.setL1 c l.line { q with state := .M }).modCtx c x fun k =>
          { k with leases := [{ l with state := .held, until_ := z.cycle + l.cycles }], reply := { k.reply with leased := some l.line } })) ∧
    ((∀ l ∈ k.leases, l.state ≠ .acquiring) → exec (.leaseAcquired c x) z = .next z) ∧
    (∀ l, k.leases = [l] → l.state = .held → l.until_ ≤ z.cycle → (∀ y, y ≠ x → (z.ctx c y).leases = []) →
      exec (.leaseExpire c x 0) z = .next
        ((z.modCtx c x fun k => { k with leases := [{ l with state := .expired }] }).releaseProbes c l.line)) ∧
    (∀ l n, k.leases[n]? = some l → z.cycle < l.until_ → exec (.leaseExpire c x n) z = .next z) ∧
    -- an agent rejoins: its bit flips, an owner leaves the line poisoned, the home answers the forwards that it has yet to answer
    (c ≠ 256 →
     let key := 128 * c + homeSlice line
     let y : State := { z with incHome := z.incHome.set false key (!z.incHome.get false key) }
     let marked (s : State) : State := (((s.setPoison (line * 4) true).setPoison (line * 4 + 1) true).setPoison (line * 4 + 2) true).setPoison
         (line * 4 + 3) true
     (z.agenda = [] →
       (z.dir = [] → exec (.rejoinNotice c (homeSlice line)) z = .next y) ∧
       (z.dir = [(line, .EM c)] → exec (.rejoinNotice c (homeSlice line)) z = .next
         (marked { y with dir := [], entryAge := z.entryAge.filter (· != line) })) ∧
       (∀ o, o ≠ c → z.dir = [(line, .EM o)] → exec (.rejoinNotice c (homeSlice line)) z = .next y)) ∧
     (∀ r, z.dir = [] → z.agenda = [.fwdGetm c r line] → exec (.rejoinNotice c (homeSlice line)) z = .next
       (marked { y with agenda := [.data ⟨homeAgent, r, false⟩ line ⟨0, 0⟩ true] })) ∧
     (∀ r, z.dir = [] → z.agenda = [.inv c r line false] → exec (.rejoinNotice c (homeSlice line)) z = .next
       { y with agenda := [.invack ⟨homeAgent, r, false⟩ line] })) ∧
    -- removals
    (∀ asid base len, exec (.spinvNotice c asid base len) z = .next (z.modCore c fun k => { k with
      frames := k.frames.filter fun f => decide (¬ (f.asid.toNat = asid ∧ base ≤ f.span * 2 ^ 28 + f.slot * 2 ^ 21 ∧
        f.span * 2 ^ 28 + f.slot * 2 ^ 21 < base + len)) })) ∧
    (∀ t, k.reply.asked = some (7, t) → exec (.spinvAck c x) z = .next (z.modCtx c x fun k =>
      { k with reply := { k.reply with unique := some true } })) ∧
    -- the host's halves
    (∀ half excl inc, half < 2 → z.incOk 256 line inc = true →
      let e : Instr := .hostHalfRequest line half ⟨excl, inc⟩
      let old := z.halves.get .I (2 * line + half)
      (z.lineQuiet line = false → exec e z = .next (waitsHome z e)) ∧
      (Serves z e → paTier (line * 128) = 0 →
        (excl = true → exec e z = .next
          (let y := (z.merged line).invalidateLine line
           { y with halves := y.halves.set .I (2 * line + half) .X })) ∧
        (∀ h, excl = false → z.dir.look line = some (.S h) → exec e z = .next
          { z with halves := z.halves.set .I (2 * line + half) (if old = .X then .X else .S) }) ∧
        (∀ o l, excl = false → z.dir.look line = some (.EM o) → z.l1 o line = some l → (l.state = .M ∨ l.state = .E) → exec e z = .next
          (let y := dirTo (z.setL1 o line { l with state := .S }) line (.S (.cores [o]))
           { y with halves := y.halves.set .I (2 * line + half) (if old = .X then .X else .S) })))) ∧
    -- a core is gated and wakes
    ((z.core c).holdsTask = false → (∀ e ∈ (z.core c).ctxs, e.2.leases = []) → (z.core c).cmds = [] →
      ((z.core c).l1 = [] → exec (.corePowerGate c) z = .next (z.modCore c fun k => { k with gated := true })) ∧
      (∀ l, (z.core c).l1 = [(line, l)] →
        (l.state = .M → exec (.corePowerGate c) z = .next (((z.setL1 c line { l with state := .MIA }).post
          [.putm c line (z.inc c)]).post [.corePowerGate c])) ∧
        (l.state = .E → exec (.corePowerGate c) z = .next (((z.setL1 c line { l with state := .MIA }).post
          [.pute c line (z.inc c)]).post [.corePowerGate c])) ∧
        (l.state = .U → exec (.corePowerGate c) z = .next (((z.setL1 c line { l with state := .IIA, put := true }).post
          [.putu c line (z.inc c) 0 l.sums]).post [.corePowerGate c])) ∧
        (l.state = .S → exec (.corePowerGate c) z = .next ((z.dropL1 c line).post [.corePowerGate c])) ∧
        ((l.state = .MIA ∨ l.state = .SIA ∨ l.state = .IIA) → exec (.corePowerGate c) z = .next (z.post [.corePowerGate c])))) ∧
    ((z.core c).holdsTask = true →
      ((z.core c).gated = true → exec (.corePowerGate c) z = .next z) ∧
      ((z.core c).gated = false → exec (.corePowerGate c) z = .next (z.modCore c fun k => { k with capGated := false })) ∧
      ((z.overCap = false ∨ (z.core c).capGated = false) →
        exec (.coreWake c) z = .next (z.modCore c fun k => { k with gated := false, capGated := false })) ∧
      (z.overCap = true → (z.core c).capGated = true → exec (.coreWake c) z = .next z)) ∧
    ((z.core c).holdsTask = false → exec (.coreWake c) z = .next z)

/-- R54, R157, R161 to R163, R169, R263, R289, R294: an access that another package sends is checked against the partition and the export table and then
performed at its home, which takes the line back from every core first; a home whose lines are busy serves it later, in order of arrival; a refusal
names its cause. A check of a form that nothing refuses takes the line and its shadow and keeps the line for the sender, until its access comes, which is
not checked at the table again, or its bundle gives it up. The kinds and variants in which an access travels, and that a form's own checks come first as
an access of their own, which keeps the line, are the model's choice (log entries 27, 31), as is where an uncorrected error traps (32). -/
def Obligations.HomeAccesses : Prop :=
  ∀ (z : State) (peer src srcCtx size fn pa n : Nat) (x y pc : Word) (bytes : List Byte), size < 16 →
    let op (kind : Nat) : Nat := kind + 16 * size + 256 * fn
    let comes (kind : Nat) : Instr := .remoteAccess peer src srcCtx (op kind) pa x y pc n bytes
    let serve (kind : Nat) : Instr := .homeAccess peer src srcCtx (op kind) pa x y pc n bytes
    let refuses (c : Cause) (asked : Bool) : Host.Outcome State Fault Refusal :=
      .next (z.deliver peer (.remoteRefusal src srcCtx pc ⟨0, asked, n / 64⟩ c.code.toNat))
    -- what the home keeps for the sender ends with the access
    let word := (keeper peer src srcCtx, lineOf pa)
    let u : State := { z with reserves := z.reserves.erase word }
    let refuse (c : Cause) : Host.Outcome State Fault Refusal :=
      .next (u.deliver peer (.remoteRefusal src srcCtx pc ⟨0, false, n / 64⟩ c.code.toNat))
    let exists_ : Prop := paExists pa = true ∧ isHubSpace pa = false ∧ frameReserved (paTier pa) (paFrame pa) = false
    -- the checks at the peer
    (z.partition.get false peer = true → exists_ →
      (z.exported 1 pa false = true → exec (comes 0) z = .next (z.post [serve 0]) ∧ exec (comes 9) z = .next (z.post [serve 9])) ∧
      (z.exported 1 pa (fn % 16 != 0) = true → exec (comes 10) z = .next (z.post [serve 10])) ∧
      (∀ kind, 1 ≤ kind → kind ≤ 6 →
        (z.exported 1 pa true = true → exec (comes kind) z = .next (z.post [serve kind])) ∧
        (z.exported 1 pa true = false → word ∉ z.reserves → exec (comes kind) z = refuses .remoteDenied false))) ∧
    (z.partition.get false peer = false →
      (∀ kind, kind ≤ 6 → word ∉ z.reserves → exec (comes kind) z = refuses .remoteDenied false) ∧
      exec (comes 10) z = refuses .remoteDenied true) ∧
    -- an access whose check has passed, and the end of what is kept for one
    (∀ kind, kind ≤ 6 → word ∈ z.reserves → exec (comes kind) z = .next (z.post [serve kind])) ∧
    exec (comes 11) z = .next u ∧
    -- a busy line
    (∀ kind, kind ≤ 13 → z.homeReady (serve kind) = false → exec (serve kind) z = .next (waitsHome z (serve kind))) ∧
    -- a check
    (Serves z (serve 10) →
      (∀ c, z.accessFault (fn % 16) (fn / 16) pa size y = some c → exec (serve 10) z = refuses c true) ∧
      (z.accessFault (fn % 16) (fn / 16) pa size y = none → exec (serve 10) z = .next
        (let t := z.takeWord (fn % 16) (fn / 16) pa size y
         ({ t with reserves := t.reserves ++ [word] } : State).deliver peer
          (.remoteAcknowledgement src ⟨srcCtx, true, z.peer.toNat * 2 ^ 45 + pa⟩)))) ∧
    (pa % 128 + size ≤ 128 → 0 < size →
      -- a load
      (Serves z (serve 0) → (z.poisoned pa size = true → exec (serve 0) z = refuse .memUncorr) ∧
        (z.poisoned pa size = false → exec (serve 0) z = .next
          (let t := u.homeTake (lineOf pa)
           t.deliver peer (.variableResultArrival src srcCtx false n (BitVec.ofNat 64 (memValue t pa size)))))) ∧
      -- a store, CADD and STH raise HANDLE_CLOBBER on a handle, and SNAP_FULL where no shadow is free
      (∀ kind, kind = 1 ∨ kind = 3 ∨ kind = 4 → Serves z (serve kind) →
        (z.tag pa = true → exec (serve kind) z = refuse .handleClobber) ∧
        (z.tag pa = false → u.takeToWrite pa size = none → exec (serve kind) z = refuse .snapFull)) ∧
      (∀ t, z.tag pa = false → u.takeToWrite pa size = some t →
        (Serves z (serve 1) → exec (serve 1) z = .next ((t.writeBytes pa (toBytes size x.toNat)).deliver peer
          (.remoteAcknowledgement src ⟨srcCtx, false, n / 64⟩))) ∧
        (Serves z (serve 3) → exec (serve 3) z = .next ((t.writeBytes pa (toBytes size ((memValue t pa size + x.toNat) % 2 ^ (8 * size)))).deliver peer
          (.remoteAcknowledgement src ⟨srcCtx, false, n / 64⟩))) ∧
        (Serves z (serve 4) → exec (serve 4) z = .next ((t.writeHandle pa (Handle.ofWord x)).deliver peer
          (.variableResultArrival src srcCtx true n 0))) ∧
        -- an atomic add, as one of the ten
        (fn = 0 → z.poisoned pa size = false → Serves z (serve 2) → exec (serve 2) z = .next
          (let old := memValue t pa size
           (t.writeBytes pa (toBytes size ((old + x.toNat) % 2 ^ (8 * size)))).deliver peer
            (.variableResultArrival src srcCtx false n (BitVec.ofNat 64 old))))) ∧
      (Serves z (serve 2) →
        (z.poisoned pa size = true → exec (serve 2) z = refuse .memUncorr) ∧
        (fn ≠ 9 → z.poisoned pa size = false → z.tag pa = true → exec (serve 2) z = refuse .handleClobber) ∧
        -- a .cas that fails writes nothing and meets no handle
        (fn = 9 → z.poisoned pa size = false →
          let t := u.homeTake (lineOf pa)
          memValue t pa size ≠ y.toNat → exec (serve 2) z = .next
            (t.deliver peer (.variableResultArrival src srcCtx false n (BitVec.ofNat 64 (memValue t pa size)))))) ∧
      -- LDH and LDHD
      (z.tag pa = false →
        (Serves z (serve 5) → exec (serve 5) z = refuse .handleUntagged) ∧
        (fn = 0 → Serves z (serve 6) → exec (serve 6) z = refuse .handleUntagged) ∧
        (fn = 1 → Serves z (serve 6) → exec (serve 6) z = refuse .kvMiss)) ∧
      (∀ t, z.tag pa = true → z.poisoned pa 8 = false → u.takeToWrite pa size = some t →
        (Serves z (serve 5) →
          exec (serve 5) z = .next ((t.clearWord pa).deliver peer (.variableResultArrival src srcCtx true n (t.readHandle pa).toWord))) ∧
        (Serves z (serve 6) →
          exec (serve 6) z = .next (((t.splitAway (t.readHandle pa)).writeHandle pa (t.readHandle pa).split).deliver peer
            (.variableResultArrival src srcCtx true n (t.readHandle pa).split.toWord))))) ∧
    -- bytes for a copy, bytes of a copy, and a block of words
    (fn = 0 → Serves z (serve 7) → exec (serve 7) z = .next
      (let len := bits y 0 32
       let t := z.takeRange pa len
       t.deliver peer (.copyChunkComplete src n (((List.range len).map fun i => t.byte (pa + i)) ++
         (List.range len).map fun i => if t.poison.get false ((pa + i) / 32) = true then 1 else 0)))) ∧
    (∀ bs, bytes = bs ++ List.replicate bs.length 0 → Serves z (serve 8) → z.anyTag pa bs.length = false →
      ∀ t, z.takeToWrite pa bs.length = some t →
      exec (serve 8) z = .next ((t.writeRange pa bs).deliver peer (.copyChunkComplete src n []))) ∧
    (Serves z (serve 9) → z.poisoned pa n = false → exec (serve 9) z = .next
      (let t := z.takeRange pa n
       t.deliver peer (.descriptorReply src srcCtx (BitVec.ofNat 40 pa)
         ((List.range (n / 8)).map fun i => BitVec.ofNat 64 (memValue t (pa + 8 * i) 8)))))

/-! ### Events of the engines -/

/-- R22, R32, R66, R67, R77, R87, R88, R199, R200, R201, R231, R232: the matrix engine takes a command under its pair or ends it with the fault of
R199; the operands of a step of the K loop arrive, what the engine used is unpinned, what it needs next is requested as far as 512 pins allow, and a
frozen core goes on; a panel that fits goes to the stash once, the next one while the column before it runs; the elements of a block are computed in
exact integers, in chunks of eight or in scaled groups of 128 with one rounding each, and written; the watchdogs end a command. That a fetch and its pins
are one step of the K loop is the model's choice (log entry 88), as is that a poisoned unit faults the command where a block that holds it is read (89);
the order of the faults of R199 is the model's (91). -/
def Obligations.MatrixEvents : Prop :=
  ∀ (z : State) (core : Nat) (c : Cmd),
    -- the take
    (∀ acc fa fb ta tb d r0 c0 rows cols, Goes z core → (z.core core).cmds = [c] → c.engine = some .matrix → c.running = false →
      (z.core core).arrivals = [] → ((z.core core).ctx c.ctx).forkReady c.bundle = true → c.op = .mma acc fa fb ta tb d r0 c0 rows cols →
      (∀ o, z.operands fa fb ta tb = .ok o →
        (r0 + rows ≤ o.a.rows.toNat + 1 → c0 + cols ≤ o.b.cols.toNat + 1 →
          exec (.matrixCommandTake core) z = .next ((z.modCore core fun k =>
            { k with enginePair := some (fa, fb), pins := (Product.request ⟨o, r0, c0, rows, cols⟩ 0 0 0).take 512 }).modCmd core c.serial fun m =>
              { m with running := true })) ∧
        ((o.a.rows.toNat + 1 < r0 + rows ∨ o.b.cols.toNat + 1 < c0 + cols) →
          exec (.matrixCommandTake core) z = .next (z.engineFault core c .tileShape 0))) ∧
      (∀ e, z.operands fa fb ta tb = .error e → exec (.matrixCommandTake core) z = .next (z.engineFault core c e 0))) ∧
    ((z.core core).cmds = [] → exec (.matrixCommandTake core) z = .next z) ∧
    (∀ acc d o r0 c0 rows cols, RunsMatrix z core c acc d o r0 c0 rows cols →
      let p : Product := ⟨o, r0, c0, rows, cols⟩
      -- operands arrive for up to 32 positions of K, with a part of a panel that goes to the stash
      (c.fetched = false → c.progress < blockCount rows cols →
        let need := p.request c.progress c.steps c.panel
        (z.blocksPoisoned need = true → exec (.tileFetchBlockArrival core) z = .next (z.engineFault core c .memUncorr 0)) ∧
        -- without pins for all that it needs the engine requests this alone and starves; for its first panel it waits unfrozen
        (z.blocksPoisoned need = false → (∃ b ∈ need, b ∉ (z.core core).pins) →
          let y := z.modCore core fun k => { k with pins := need.take 512 }
          (p.early c.progress c.panel = true → exec (.tileFetchBlockArrival core) z = .next y) ∧
          (p.early c.progress c.panel = false → exec (.tileFetchBlockArrival core) z = .next
            (y.modCore core fun k => { k with frozen := k.frozen.or (some z.cycle) }))) ∧
        (z.blocksPoisoned need = false → (∀ b ∈ need, b ∈ (z.core core).pins) →
          let depth := o.a.cols.toNat + 1
          let panel := p.panelAfter c.progress c.panel
          let went (upto : Nat) (all : Bool) (used next : List Nat) : State :=
            ((z.unfreeze core).modCmd core c.serial fun m => { m with steps := upto, fetched := all, panel := panel }).modCore core fun k =>
              { k with pins := (used ++ next).eraseDups.take 512 }
          (p.awaitsPanel c.progress c.panel = true → exec (.tileFetchBlockArrival core) z = .next
            (let y := went c.steps false [] (p.request c.progress c.steps panel)
             if p.early c.progress panel then y else y.mayFreeze core)) ∧
          (p.awaitsPanel c.progress c.panel = false →
            (depth ≤ c.steps + 32 → exec (.tileFetchBlockArrival core) z = .next
              (went depth true (p.inUse c.progress c.steps) (p.request (c.progress + 1) 0 panel))) ∧
            (c.steps + 32 < depth → exec (.tileFetchBlockArrival core) z = .next
              ((went (c.steps + 32) false (p.inUse c.progress c.steps) (p.request c.progress (c.steps + 32) panel)).mayFreeze core))))) ∧
      (c.fetched = true → exec (.tileFetchBlockArrival core) z = .next z) ∧
      -- a block is computed and written; the command ends with its last one
      (Goes z core → c.fetched = true → (z.core core).lsTags = [] →
        (acc = true → d.fe = true → ∀ e ∈ blockElems rows cols c.progress, let n := d.pos (e.1 * cols + e.2)
          (z.core core).isFull (n / 2) = true ∧ (z.core core).isFull ((n + d.elem.nibbles - 1) / 2) = true) →
        (∀ m ∈ (z.core core).cmds, m.serial = c.serial → m = c) →
        let wrote : State := (blockElems rows cols c.progress).foldl (fun y e =>
          (y.modCore core fun k => d.put k (e.1 * cols + e.2)
            (z.output o (r0 + e.1) (c0 + e.2) (if acc then d.get (z.core core) (e.1 * cols + e.2) else 0))).modCtx core c.ctx fun x => x) z
        let done : State := (wrote.modCmd core c.serial fun m =>
          { m with progress := c.progress + 1, fetched := false, steps := 0, feWait := none }).modCore core fun k =>
            { k with pins := (p.request (c.progress + 1) 0 c.panel).take 512 }
        (blockCount rows cols ≤ c.progress + 1 → exec (.matrixBlockComplete core) z = .next (done.removeCmd core c.serial)) ∧
        (c.progress + 1 < blockCount rows cols → exec (.matrixBlockComplete core) z = .next (done.mayFreeze core))) ∧
      (c.fetched = false → exec (.matrixBlockComplete core) z = .next z) ∧
      -- the freeze watchdog
      (∀ since, (z.core core).frozen = some since →
        (since + 65536 ≤ z.cycle → exec (.freezeTimeout core) z = .next (z.engineFault core c .freezeTimeout 0)) ∧
        (z.cycle < since + 65536 → exec (.freezeTimeout core) z = .next z))) ∧
    -- the elements of a block: 32 rows by 64 columns, block rows inside block columns
    (∀ rows cols n i j, n < blockCount rows cols →
      ((i, j) ∈ blockElems rows cols n ↔ i < rows ∧ j < cols ∧ n = j / 64 * ((rows + 31) / 32) + i / 32)) ∧
    -- the value of one output
    (∀ o i j acc,
      let k := o.a.cols.toNat + 1
      let products (first n : Nat) : List Machine.Num := (List.range n).map fun q => (z.tileValue o.a i (first + q)).mul (z.tileValue o.b (first + q) j)
      let fp32Sum (xs : List Machine.Num) : Nat := (fp32.convert rne false (sumNum xs)).1
      let scale (t : Option Desc) (i j : Nat) : Machine.Num := match t with | none => .fin false 1 0 | some d => z.tileValue d i j
      (o.acc = .integers → z.output o i j acc =
        (((acc : Int) + ((List.range k).map fun q => z.tileInt o.a i q * z.tileInt o.b q j).sum) % 4294967296).toNat) ∧
      (o.acc = .chunks → z.output o i j acc =
        (List.range ((k + 7) / 8)).foldl (fun t q => fp32Sum (fp32.decode t :: products (8 * q) (Nat.min 8 (k - 8 * q)))) acc) ∧
      (o.acc = .groups → z.output o i j acc =
        (List.range ((k + 127) / 128)).foldl (fun t q => fp32Sum
          [fp32.decode t, ((scale o.sa i q).mul (scale o.sb q j)).mul (sumNum (products (128 * q) (Nat.min 128 (k - 128 * q))))]) acc)) ∧
    -- the full/empty watchdog of a command
    (∀ since g, z.findCmd core c.serial = some c → c.feWait = some (since, g) →
      (since + 65536 ≤ z.cycle → (z.core core).isFull (16 * g) = false → Goes z core →
        exec (.feTimeoutEngine core c.serial) z = .next (z.engineFault core c .feTimeout (BitVec.ofNat 64 (16 * g - c.win)))) ∧
      (z.cycle < since + 65536 → exec (.feTimeoutEngine core c.serial) z = .next z))

/-- R29, R54, R77, R192, R194, R196, R205 to R214, R222, R341: the vector engine and the special-function unit start their oldest command; a
command reads its sources, computes each element as its form says and writes the elements in ascending order (which shows where D has stride 0 and is the
model's choice, log entry 92); a handle in the way ends it with HANDLE_CLOBBER. That a Q16.16 element and an integer are compared by their exact values, and
that D keeps the low bits of the one chosen, is the model's choice (36), as is that a Q16.16 element is truncated to an integer (114). -/
def Obligations.VectorEvents : Prop :=
  ∀ (z : State) (core : Nat) (c : Cmd) (v : VCmd),
    (∀ e start, (e = Engine.vector ∧ start = Instr.vectorCommandStart core) ∨ (e = .sfu ∧ start = .sfuCommandStart core) →
      Goes z core → (z.core core).cmds = [c] → c.engine = some e →
      (c.running = false → (z.core core).arrivals = [] → ((z.core core).ctx c.ctx).forkReady c.bundle = true →
        exec start z = .next (z.modCmd core c.serial fun m => { m with running := true })) ∧
      (c.running = true → exec start z = .next z)) ∧
    (∀ e done s, (e = Engine.vector ∧ done = Instr.vectorCommandComplete core) ∨ (e = .sfu ∧ done = .sfuCommandComplete core) →
      RunsVector z core e c v → v.s = some s → s.count = v.d.count → (∀ t, v.t = some t → t.count = v.d.count ∨ t.count = 1 ∨ v.op = .cvtS) →
      let k := z.core core
      let out (f : Nat → Nat × Flags) : Prop := exec done z = .next
        ((written z core c.ctx v.quiet v.d ((List.range v.d.count).map f)).removeCmd core c.serial)
      let dw := v.d.elem.width
      -- the raw elements of S, of T (or a scalar in the format of S) and of D
      let x (i : Nat) : Nat := s.get k i
      let ye : Elem := match v.t with | none => s.elem | some t => t.elem
      let y (i : Nat) : Nat := match v.t with | none => v.y.toNat % 2 ^ s.elem.width | some t => t.get k (if t.count = 1 then 0 else i)
      let d (i : Nat) : Nat := v.d.get k i
      let test (o : Int) : Cond → Bool := fun
        | .eq => o == 0 | .ne => o != 0 | .lt => decide (o < 0) | .le => decide (o ≤ 0) | .gt => decide (0 < o) | _ => decide (0 ≤ o)
      let signed (o : Cond) : Prop := o ∈ [Cond.eq, .ne, .lt, .le, .gt, .ge]
      -- the F class
      (∀ fs ft fd, s.elem = .float fs → ye = .float ft → v.d.elem = .float fd →
        let X (i : Nat) : Machine.Num := fs.decode (x i)
        let Y (i : Nat) : Machine.Num := ft.decode (y i)
        let signals (i : Nat) : Flags := flagIf ((X i).signalling || (Y i).signalling) flagNV
        (v.op = .add → out fun i => fd.finish v.rm (addExact v.rm (X i) (Y i))) ∧
        (v.op = .sub → out fun i => fd.finish v.rm (addExact v.rm (X i) (Y i).neg)) ∧
        (v.op = .mul → out fun i => fd.finish v.rm (mulExact (X i) (Y i))) ∧
        (v.op = .fma false → out fun i => fd.finish v.rm (fmaExact v.rm (X i) (Y i) (fd.decode (d i)))) ∧
        (v.op = .fma true → out fun i => fd.finish v.rm (fmaExact v.rm (X i).neg (Y i) (fd.decode (d i)))) ∧
        (v.op = .max → out fun i => fd.finish rne ((X i).max (Y i), signals i)) ∧
        (v.op = .min → out fun i => fd.finish rne ((X i).min (Y i), signals i)) ∧
        (v.op = .abs → out fun i => fd.finish rne ((X i).abs, 0)) ∧
        (v.op = .neg → out fun i => fd.finish rne ((X i).neg, 0)) ∧
        (v.op = .clampS → out fun i => fd.finish rne (if (X i).isNan then X i
          else ((X i).max (fp32.decode (v.y.toNat % 2 ^ 32))).min (fp32.decode (v.y.toNat / 2 ^ 32)), 0)) ∧
        (v.op = .clampV → out fun i => fd.finish rne (if (X i).isNan then X i else ((X i).max (Y i).abs.neg).min (Y i).abs, 0)) ∧
        (∀ two, v.op = .exp two → out fun i => fd.finish rne (vexpExact two (X i))) ∧
        (v.op = .rcp → out fun i => fd.finish rne (vrcpExact (X i))) ∧
        (v.op = .rsq → out fun i => fd.finish rne (vrsqExact (X i)))) ∧
      (∀ fs ft o, s.elem = .float fs → ye = .float ft → signed o → v.op = .cmp o → out fun i =>
        let X : Machine.Num := fs.decode (x i)
        let Y : Machine.Num := ft.decode (y i)
        (if (if X.isNan || Y.isNan then o == .ne else test (X.cmp Y) o) then 1 else 0,
          flagIf (if o == .eq || o == .ne then X.signalling || Y.signalling else X.isNan || Y.isNan) flagNV)) ∧
      -- the C class
      (s.elem = .cf32 → ye = .cf32 → v.d.elem = .cf32 →
        let parts (f : Machine.Num → Machine.Num → Machine.Num × Flags) (i : Nat) : Nat × Flags :=
          let re := fp32.finish v.rm (f (fp32.decode (x i % 2 ^ 32)) (fp32.decode (y i % 2 ^ 32)))
          let im := fp32.finish v.rm (f (fp32.decode (x i / 2 ^ 32 % 2 ^ 32)) (fp32.decode (y i / 2 ^ 32 % 2 ^ 32)))
          (re.1 + im.1 * 2 ^ 32, re.2 ||| im.2)
        (v.op = .add → out (parts fun a b => addExact v.rm a b)) ∧ (v.op = .sub → out (parts fun a b => addExact v.rm a b.neg))) ∧
      -- the I class
      (s.elem.cls = .I → ye.cls = .I → v.d.elem.cls = .I →
        let unit (a : Elem) : Int := if a = .q16 then 1 else 65536
        let X (i : Nat) : Int := s.elem.rawInt (x i)
        let Y (i : Nat) : Int := ye.rawInt (y i)
        let less (a b : Int) : Bool := decide (a * unit s.elem < b * unit ye)
        let more (a b : Int) : Bool := decide (b * unit ye < a * unit s.elem)
        let low (a : Int) : Nat × Flags := ((a % ((2 ^ dw : Nat) : Int)).toNat, 0)
        let words (f : Word → Word → Word) (i : Nat) : Nat × Flags := ((f (BitVec.ofInt 64 (X i)) (BitVec.ofInt 64 (Y i))).toNat % 2 ^ dw, 0)
        let count (i : Nat) : Nat := (Y i % 64).toNat
        (v.op = .iadd false → out fun i => low (X i + Y i)) ∧
        (∀ w g, v.d.elem = .int w g → v.op = .iadd true → out fun i => low (max (intMin w g) (min (intMax w g) (X i + Y i)))) ∧
        (v.d.elem = .q16 → v.op = .iadd true → out fun i => low (max (-2147483648) (min 2147483647 (X i + Y i)))) ∧
        (v.op = .imul → out fun i => low (X i * Y i)) ∧
        (v.op = .band → out (words fun a b => a &&& b)) ∧
        (v.op = .bor → out (words fun a b => a ||| b)) ∧
        (v.op = .bxor → out (words fun a b => a ^^^ b)) ∧
        (v.op = .shl → out fun i => low (X i * 2 ^ count i)) ∧
        (v.op = .shr → out fun i => (x i % 2 ^ s.elem.width / 2 ^ count i % 2 ^ dw, 0)) ∧
        (v.op = .sar → out fun i => low (X i / 2 ^ count i)) ∧
        (v.op = .max → out fun i => low (if less (X i) (Y i) then Y i else X i)) ∧
        (v.op = .min → out fun i => low (if more (X i) (Y i) then Y i else X i)) ∧
        (v.op = .abs → out fun i => low (X i).natAbs) ∧
        (v.op = .neg → out fun i => low (-X i)) ∧
        (v.op = .clampS →
          let bound (n : Nat) : Int := match s.elem with | .int _ false => n | _ => signedOf 32 n
          out fun i => low (min (max (X i) (bound (v.y.toNat % 2 ^ 32))) (bound (v.y.toNat / 2 ^ 32)))) ∧
        (v.op = .clampV → out fun i =>
          let a : Int := (Y i).natAbs
          low (if less (X i) (-a) then -a else if more (X i) a then a else X i))) ∧
      (s.elem.cls = .I → ye.cls = .I → ∀ o, signed o → v.op = .cmp o → out fun i =>
        (if test (s.elem.rawInt (x i) * (if s.elem = .q16 then 1 else 65536) - ye.rawInt (y i) * (if ye = .q16 then 1 else 65536)) o then 1 else 0, 0)) ∧
      -- any class: conversion, selection by a mask, quantising by group scales
      (v.op = .cvt → out fun i => convertElem s.elem v.d.elem v.rm v.sat (x i)) ∧
      (v.op = .sel → out fun i => if y i = 0 then (d i, 0) else convertElem s.elem v.d.elem rne false (x i)) ∧
      (∀ t fs, v.t = some t → t.elem = .float bf16 → s.elem = .float fs → v.op = .cvtS → out fun i =>
        let T : Machine.Num := bf16.decode (t.get k (i / 128))
        if T.isZero || T.isInf || T.isNan then
          let r := v.d.elem.round v.rm v.sat (.nan false)
          (r.1, r.2 ||| flagNV)
        else
          let q := divExact (fs.decode (x i)) T
          let r := v.d.elem.round v.rm v.sat q.1
          (r.1, r.2 ||| q.2))) ∧
    -- a handle in the way of the first element
    (Goes z core → (z.core core).cmds.find? (fun c => c.engine == some .vector && c.running) = some c → c.op = .vec v → v.op = .fill →
      v.s = none → v.t = none → 0 < v.d.count → v.d.tagged (z.core core) 0 = true →
      exec (.vectorCommandComplete core) z = .next (z.engineFault core { c with progress := 0 } .handleClobber
        (BitVec.ofNat 64 (v.d.pos 0 / 2 - v.d.win)))) ∧
    (Goes z core → (z.core core).cmds = [] →
      exec (.vectorCommandComplete core) z = .next z ∧ exec (.sfuCommandComplete core) z = .next z)

/-- R29, R196, R212, R215 to R222: the vector forms that reduce, rank, move, generate, transform or read flags: what each writes. That the elements
are written in ascending order (log entry 92), that VCMUL reads T before the first of them (93), the NV of a complex sum (37), and that VFLG.clr clears its
lanes whatever its quiet bit (108), are the model's choices. -/
def Obligations.VectorSelections : Prop :=
  ∀ (z : State) (core : Nat) (c : Cmd) (v : VCmd), RunsVector z core .vector c v →
    let k := z.core core
    let n := v.d.count
    let dw := v.d.elem.width
    let done : Host.Outcome State Fault Refusal := exec (.vectorCommandComplete core) z
    let out (vs : List (Nat × Flags)) : Prop := done = .next ((written z core c.ctx v.quiet v.d vs).removeCmd core c.serial)
    let each (f : Nat → Nat × Flags) : Prop := out ((List.range n).map f)
    let low (a : Int) : Nat × Flags := ((a % ((2 ^ dw : Nat) : Int)).toNat, 0)
    let re (a : Nat) : Machine.Num := fp32.decode (a % 2 ^ 32)
    let im (a : Nat) : Machine.Num := fp32.decode (a / 2 ^ 32 % 2 ^ 32)
    let join (a b : Nat × Flags) : Nat × Flags := (a.1 + b.1 * 2 ^ 32, a.2 ||| b.2)
    let minus (a : Machine.Num × Flags) : Machine.Num × Flags := (a.1.neg, a.2)
    -- reductions
    (∀ s, v.s = some s →
      let x (i : Nat) : Nat := s.get k i
      let val (i : Nat) : Machine.Num := s.elem.value (x i)
      let is := List.range s.count
      let signals : Flags := flagIf (is.any fun i => (val i).signalling) flagNV
      (∀ fd, v.d.elem = .float fd → v.op = .sumF →
        let r := fd.convert rne false (sumNum (is.map val))
        out [(r.1, r.2 ||| (flagIf ((is.map val).any (· == .inf true) && (is.map val).any (· == .inf false)) flagNV ||| signals))]) ∧
      (v.op = .sumI → out [low (is.map fun i => s.elem.rawInt (x i)).sum]) ∧
      (v.op = .rmax →
        (∀ fd, v.d.elem = .float fd → (∀ i < s.count, (val i).isNan = true) →
          let r := fd.convert rne false (.nan false)
          out [(r.1, r.2 ||| signals)]) ∧
        ((∃ i < s.count, (val i).isNan = false) → ∃ m < s.count, (val m).isNan = false ∧
          (∀ i < s.count, (val i).isNan = false → (val m).below (val i) = false) ∧
          let r := convertElem s.elem v.d.elem rne false (x m)
          out [(r.1, r.2 ||| signals)])) ∧
      -- ranks
      (∀ lowest, v.op = .topk lowest → n ≤ s.count →
        let above (a b : Nat) : Prop :=
          if (val a).isNan = true then (val b).isNan = true ∧ a < b
          else (val b).isNan = true ∨ (if lowest then (val a).below (val b) else (val b).below (val a)) = true ∨
            ((val a).below (val b) = false ∧ (val b).below (val a) = false ∧ a < b)
        ∃ ranked : List Nat, ranked.length = n ∧ ranked.Pairwise above ∧ (∀ a ∈ ranked, a < s.count ∧ ∀ b < s.count, b ∉ ranked → above a b) ∧
          (v.t = none → out (ranked.map fun a => (a, 0))) ∧
          (∀ t, v.t = some t → done = .next ((written (written z core c.ctx v.quiet v.d (ranked.map fun a => (a, 0))) core c.ctx v.quiet t
            (ranked.map fun a => (x a, 0))).removeCmd core c.serial))) ∧
      -- moves through an index region: converted only where the formats differ
      (∀ t, v.t = some t →
        let index (i : Nat) : Int := t.elem.rawInt (t.get k i)
        let moved (a : Nat) : Nat × Flags := if s.elem = v.d.elem then (a, 0) else convertElem s.elem v.d.elem rne false a
        (v.op = .gath → t.count = n →
          ((∀ i < n, 0 ≤ index i ∧ index i < s.count) → each fun i => moved (x (index i).toNat)) ∧
          ((∃ i < n, index i < 0 ∨ (s.count : Int) ≤ index i) → done = .next (z.engineFault core c .indexRange 0))) ∧
        (v.op = .scat → t.count = s.count →
          ((∀ i < s.count, 0 ≤ index i ∧ index i < n) → done = .next
            (((List.range s.count).foldl (fun y i => (y.modCore core fun k => v.d.put k (index i).toNat (moved (x i)).1).modCtx core c.ctx fun q =>
              q.raiseLanes v.quiet [(i, (moved (x i)).2)]) z).removeCmd core c.serial)) ∧
          ((∃ i < s.count, index i < 0 ∨ (n : Int) ≤ index i) → done = .next (z.engineFault core c .indexRange 0))) ∧
        -- butterflies and complex products
        (∀ cj, s.elem = .cf32 → t.elem = .cf32 → v.d.elem = .cf32 → s.count = n → 
          let w (i : Nat) : Nat := t.get k (if t.count = 1 then 0 else i)
          let wi (i : Nat) : Machine.Num := if cj then (im (w i)).neg else im (w i)
          let sum (rm : BitVec 2) (ts : List (Machine.Num × Flags)) : Nat × Flags := fp32.finish rm (sumFlagged ts)
          (v.op = .cmul cj → (t.count = n ∨ t.count = 1) → each fun i => join
            (sum v.rm [mulExact (re (x i)) (re (w i)), minus (mulExact (im (x i)) (wi i))])
            (sum v.rm [mulExact (re (x i)) (wi i), mulExact (im (x i)) (re (w i))])) ∧
          (∀ m, v.op = .bfly cj → n = 2 * m → (t.count = m ∨ t.count = 1) →
            let half (i : Nat) (s : Machine.Num × Flags → Machine.Num × Flags) : Nat × Flags := join
              (sum rne [(re (x i), 0), s (mulExact (re (w i)) (re (x (i + m)))), s (minus (mulExact (wi i) (im (x (i + m)))))])
              (sum rne [(im (x i), 0), s (mulExact (re (w i)) (im (x (i + m)))), s (mulExact (wi i) (re (x (i + m))))])
            each fun i => if i < m then half i (fun a => a) else half (i - m) minus)))) ∧
    -- generated values and masks
    (v.s = none → v.t = none →
      (v.op = .fill → each fun _ => (v.x.toNat % 2 ^ dw, 0)) ∧
      (v.op = .iota →
        (v.d.elem.cls = .I → each fun i => low (v.x.toInt + (i : Int) * v.y.toInt)) ∧
        (∀ fd, v.d.elem = .float fd → each fun i => fd.convert rne false (Num.ofInt (v.x.toInt + (i : Int) * v.y.toInt)))) ∧
      (v.op = .twid → each fun i =>
        let t := turn (v.y.toNat % 32) (v.x.toNat % 2 ^ 32 + i * (v.x.toNat / 2 ^ 32))
        ((fp32.convert rne false t.1).1 + (fp32.convert rne false (if t.2.isZero then t.2 else t.2.neg)).1 * 2 ^ 32, 0)) ∧
      (v.op = .maskw → ∀ fill, (∀ f, v.d.elem = .float f → fill = if f.finite then f.signed true f.maxCode else f.infCode true) →
        (∀ w, v.d.elem = .int w true → fill = 2 ^ (w - 1) % 2 ^ w) → (∀ w, v.d.elem = .int w false → fill = 0) →
        (v.d.elem = .q16 → fill = 2 ^ 31) → v.d.elem ≠ .cf32 →
        each fun i =>
          let p := v.y.toNat % 2 ^ 32 + i
          if v.x.toNat % 2 ^ 32 ≤ p ∧ p ≤ v.x.toNat / 2 ^ 32 then (v.d.get k i, 0) else (fill, 0)) ∧
      -- the lane flags
      (v.op = .flg false → each fun i => (((k.ctx c.ctx).vflags.get 0 i).toNat, 0)) ∧
      (v.op = .flg true → done = .next ((written (z.modCtx core c.ctx fun q => { q with vflags := q.vflags.filter fun e => !decide (e.1 < n) })
        core c.ctx v.quiet v.d ((List.range n).map fun i => (((k.ctx c.ctx).vflags.get 0 i).toNat, 0))).removeCmd core c.serial)))

/-- R40, R41, R65, R68, R70 to R72, R84, R223 to R227, R294, R343: the copy engine starts the copies and moves of its queue; a piece ends where
its chunk of 65,536 bytes or a translation that it keeps ends; a piece that lands writes whole granules and fills them, and the last one ends the
copy; a CPYR whose whole range lies in an open window writes it, is entered there until its last byte, and that byte counts at the flag; a moved
tile changes its storage in one step, a late MIGR counts as a slip. That a piece is read and written in one step (log entry 55), that a move
without room ends by TILE_NOSPACE or SLICE_FULL (56), that a chunk that faults writes nothing of its piece (57), that a move of an open tile is refused
wherever the tile lies (110), that a context which is starting is closed to a CPYR (103), and that the own bit of the partition map decides a CPYR of this
package (26), are the model's choices. -/
def Obligations.CopyEvents : Prop :=
  ∀ (z : State) (core : Nat) (c : Cmd),
    let y : State := z.modCore core fun k => { k with copyTurn := c.ctx }
    -- the start of a command
    (Goes z core → (z.core core).cmds = [c] → c.engine = some .copy → c.running = false → c.wasCut = false → c.ctx < 4 →
        (z.core core).arrivals = [] → ((z.core core).ctx c.ctx).forkReady c.bundle = true →
      (∀ k, c.op = .copy k → (∀ t o, k.src ≠ .tile t o) → (∀ w h u, k.dst ≠ .newTile w h u) →
        exec (.copyCommandStart core) z = .next (y.modCmd core c.serial fun m => { m with running := true })) ∧
      (∀ k w h, c.op = .copy k → (∀ t o, k.src ≠ .tile t o) → k.dst = .newTile w h none →
        (∀ e, y.allocate ((Shape.ofWord w).place / 32) (Shape.ofWord w) = .error e →
          exec (.copyCommandStart core) z = .next (y.engineFault core c e 0)) ∧
        (∀ s t, y.allocate ((Shape.ofWord w).place / 32) (Shape.ofWord w) = .ok (s, t) →
          exec (.copyCommandStart core) z = .next (s.modCmd core c.serial fun m =>
            { m with running := true, op := .copy { k with dst := .newTile w h (some t) } }))) ∧
      (∀ k t o d, c.op = .copy k → k.src = .tile t o → z.isHome t = true → z.desc t = some d → (d.opened = true ∨ d.sealed = false) →
        exec (.copyCommandStart core) z = .next (y.engineFault core c .tileOpen 0)) ∧
      (∀ t w l i m u d, c.op = .move t w l i m u → z.desc t = some d → d.moving = false →
        (d.opened = true → exec (.copyCommandStart core) z = .next (y.engineFault core c .tileOpen 0)) ∧
        (d.opened = false → placeOf d.storage.toNat = (bits w 2 7, bits w 0 2) →
          exec (.copyCommandStart core) z = .next (y.removeCmd core c.serial)) ∧
        (d.opened = false → placeOf d.storage.toNat ≠ (bits w 2 7, bits w 0 2) →
          (y.findRun (heapRange (bits w 0 2) (bits w 2 7)) d.bytes = none → exec (.copyCommandStart core) z = .next
            (y.engineFault core c (if bits w 0 2 = 2 then .sliceFull else .tileNospace) 0)) ∧
          (∀ base, y.findRun (heapRange (bits w 0 2) (bits w 2 7)) d.bytes = some base → exec (.copyCommandStart core) z = .next
            (let s := y.modCmd core c.serial fun q => { q with running := true, op := .move t w l i m (some (base, base + d.bytes)) }
             { s.modDesc t fun q => { q with moving := true } with freeUse := s.freeUse + 1 }))))) ∧
    ((z.core core).cmds = [] → exec (.copyCommandStart core) z = .next z) ∧
    (∀ k, core ≠ noCore → z.findCmd core c.serial = some c → c.op = .copy k →
      -- the number of an answer to the piece that starts at `n`; that of the core's own event
      let answerTo (n : Nat) : Nat := 2 ^ 33 * c.serial + (n + 1)
      let own : Nat := 2 ^ 33 * c.serial
      let ended (s : State) (q : Chunk) (carry : List Byte) : State :=
        if k.len ≤ k.landed + q.len then s.removeCmd core c.serial
        else s.modCmd core c.serial fun m => { m with
          op := match m.op with
            | .copy k => .copy { k with landed := k.landed + q.len, inFlight := k.inFlight.drop 1, carry := carry }
            | o => o
          progress := (k.landed + q.len) / 65536 * 65536 }
      let goesOn : Prop := Goes z core ∧ c.running = true ∧ k.started < k.len ∧ (k.cut = false ∨ k.started % 65536 ≠ 0)
      -- a piece of local store to local store starts: a whole chunk
      (∀ o p, goesOn → k.src = .ls o → k.dst = .ls p → k.inFlight = [] → (∀ t, k.srcKept = some t → t.upto ≤ k.started) →
        (∀ t, k.dstKept = some t → t.upto ≤ k.started) →
        let n := min (k.len - k.started) (65536 - k.started % 65536)
        let a : Kept := ⟨k.started, k.started + n, .ls (c.win + o + k.started), false⟩
        let b : Kept := ⟨k.started, k.started + n, .ls (c.win + p + k.started), false⟩
        exec (.copyChunkStart core c.serial) z = .next (z.modCmd core c.serial fun m => { m with
          op := .copy { k with
            started := k.started + n, inFlight := [⟨k.started, n, a.place, b.place, none, false⟩], srcKept := some a, dstKept := some b } })) ∧
      -- under translations that are kept it makes none, and ends where the first of them ends
      (∀ a b, goesOn → k.inFlight.length < 2 →
        k.srcKept = some a → k.dstKept = some b → a.first ≤ k.started → k.started < a.upto → b.first ≤ k.started → k.started < b.upto →
        a.place.isFar = false →
        let n := min a.upto b.upto - k.started
        exec (.copyChunkStart core c.serial) z = .next (z.modCmd core c.serial fun m => { m with
          op := .copy { k with
            started := k.started + n
            inFlight := k.inFlight ++ [⟨k.started, n, a.place.plus (k.started - a.first), b.place.plus (k.started - b.first), none, false⟩] } })) ∧
      (∀ a e, goesOn → k.src = .va a → k.inFlight = [] → (∀ t, k.srcKept = some t → t.upto ≤ k.started) →
        z.translate core c.ctx .copyRead (a + k.started) = .error e →
        exec (.copyChunkStart core c.serial) z = .next (z.engineFault core c e (BitVec.ofNat 64 (a + k.started)))) ∧
      ((k.len ≤ k.started ∨ 2 ≤ k.inFlight.length) → exec (.copyChunkStart core c.serial) z = .next z) ∧
      -- the first piece lands: whole granules are written, the rest waits for the next piece
      (∀ q r o p got, Goes z core → k.inFlight = q :: r → q.sent = false → q.got = none → q.src = .ls o → q.dst = .ls p →
        (∀ w h t, k.dst ≠ .newTile w h t) →
        let all := k.carry ++ (List.range q.len).map fun i => (z.core core).lsByte (o + i)
        let n := all.length / 16 * 16
        let first := p - k.carry.length
        ((z.core core).lsAnyTag first n = false → exec (.copyChunkComplete core own got) z = .next
          (ended (z.modCore core fun m => (m.lsWriteBytes first (all.take n)).fillRange first n) q (all.drop n))) ∧
        (∀ b, k.dst = .ls b → k.carry = [] → (z.core core).lsAnyTag p n = true → (z.core core).lsTag p = true →
          exec (.copyChunkComplete core own got) z = .next (z.engineFault core c .handleClobber (BitVec.ofNat 64 (b + q.start))))) ∧
      -- one that has been sent on its way ends with the answer, which brings the bytes of a piece that another package reads
      (∀ q r, Goes z core → k.inFlight = q :: r → q.sent = true →
        (∀ got, exec (.copyChunkComplete core own got) z = .next z) ∧
        (∀ n, n < 2 ^ 32 → (∀ w h t, k.dst ≠ .newTile w h t) → exec (.copyChunkComplete core (answerTo n) []) z = .next (ended z q []))) ∧
      (∀ n bs, n < 2 ^ 32 → 2 ≤ bs.length → exec (.copyChunkComplete core (answerTo n) bs) z = .next (z.modCmd core c.serial fun m => { m with
        op := match m.op with
          | .copy k => .copy { k with inFlight := k.inFlight.map fun q => if q.start = n then
              { q with got := some ((bs.take (bs.length / 2)).zip ((bs.drop (bs.length / 2)).map (· != 0))) } else q }
          | o => o })) ∧
      (k.inFlight = [] → ∀ got, exec (.copyChunkComplete core own got) z = .next z) ∧
      -- a destination refuses: the address is that of the chunk in the window
      (∀ w q r, k.dst = .remote w → k.inFlight = q :: r → q.dst = .window →
        exec (.copyDestRefusal core c.serial) z = .next
          ((z.engineFault core c .copyDestDenied (BitVec.ofNat 64 (destOffset w + (q.start - k.carry.length)))).unstray core c.serial))) ∧
    -- an answer for a command that is gone is counted
    (∀ n, core ≠ noCore → n < 2 ^ 32 → z.findCmd core c.serial = none →
      (∀ bs, exec (.copyChunkComplete core (2 ^ 33 * c.serial + (n + 1)) bs) z = .next (z.unstray core c.serial)) ∧
      exec (.copyDestRefusal core c.serial) z = .next (z.unstray core c.serial)) ∧
    -- bytes of a CPYR reach a window
    (∀ peer src serial x base total off f bytes,
      let first := (z.ctx core x).winBase + off
      let rest : State := z.modCore core fun k => k.endArrival peer src serial
      let t : State := z.modCore core fun k => ((k.lsWriteBytes first bytes).fillRange first bytes.length).arrive peer src serial
        (first + bytes.length) ((z.ctx core x).winBase + base + total)
      (bytes = [] → exec (.cpyrArrival peer src serial core x ⟨base, total⟩ off f bytes) z = .next rest) ∧
      (bytes ≠ [] → ((z.ctx core x).task = none ∨ (z.ctx core x).run = .starting ∨ z.partition.get false peer = false ∨
          (z.ctx core x).winLen < base + total) →
        exec (.cpyrArrival peer src serial core x ⟨base, total⟩ off f bytes) z = .next (rest.deliver peer (.copyDestRefusal src serial))) ∧
      (bytes ≠ [] → z.openTo core x peer = true → base + total ≤ (z.ctx core x).winLen →
        ((z.core core).lsAnyTag first bytes.length = true →
          exec (.cpyrArrival peer src serial core x ⟨base, total⟩ off f bytes) z = .next
            (rest.deliver peer (.remoteRefusal src 0 0 ⟨2 ^ 33 * serial + 1 + 1, false, 0⟩ Cause.handleClobber.code.toNat))) ∧
        ((z.core core).lsAnyTag first bytes.length = false →
          (off + bytes.length ≠ base + total → exec (.cpyrArrival peer src serial core x ⟨base, total⟩ off f bytes) z = .next
            (t.deliver peer (.copyChunkComplete src (2 ^ 33 * serial + 1) []))) ∧
          (off + bytes.length = base + total → exec (.cpyrArrival peer src serial core x ⟨base, total⟩ off f bytes) z = .next
            ((t.modCtx core x fun k => k.setQ f (min ((k.regs.q.get 0 f).toNat + 1) 65535)).deliver peer
              (.copyChunkComplete src (2 ^ 33 * serial + 1) [])))))) ∧
    -- a move ends
    (∀ t w l i b e d, Goes z core → z.findCmd core c.serial = some c →
      (c.op = .move t w l i false (some (b, e)) → z.desc t = some d →
        let old := d.storage.toNat
        exec (.tmoveStorageSwitch core c.serial) z = .next
          (let s := z.writeMarked b ((List.range d.bytes).map fun n => z.byte (old + n)) (z.marks old d.bytes)
           let s := s.setDesc t { d with storage := BitVec.ofNat 45 b, moving := false }
           ({ s with oldBlocks := s.oldBlocks ++ [(old, old + d.bytes)] } : State).removeCmd core c.serial)) ∧
      (c.op = .move t w l i true (some (b, e)) → c.fetched = false →
        exec (.tmoveStorageSwitch core c.serial) z = .next z ∧
        ((l = 0 ∨ z.cycle - i ≤ l) →
          exec (.migrArrival core c.serial) z = .next (z.modCmd core c.serial fun m => { m with fetched := true })) ∧
        (l ≠ 0 → l < z.cycle - i → exec (.migrArrival core c.serial) z = .next
          (let s := z.modCmd core c.serial fun m => { m with fetched := true }
           let e := (BitVec.ofNat 8 core, min ((s.slips.get (0, 0) (dieOf core)).2 + 1) (2 ^ 48 - 1))
           { s with slips := s.slips.set (0, 0) (dieOf core) e }))))

/-- R53, R77, R175 to R178: a TSEAL from a region writes the elements in row-major order and seals the tile; the copy of an update reads the old
value, whose token is dropped; an update writes its element or region, and its register holds the new value. A write of less than a poisoned unit leaves its
mark (the model's reading, log entry 62). -/
def Obligations.TileWriteEvents : Prop :=
  ∀ (z : State) (core : Nat) (c : Cmd), Goes z core → z.findCmd core c.serial = some c →
    let elems (s : State) (r : Region) (d : Desc) (n : Nat) : State :=
      (List.range r.count).foldl (fun s i => s.setTileElem d (n + i) (r.get (z.core core) i)) s
    let done (s : State) (h : Nat) (v : Handle) : State := (s.removeCmd core c.serial).modCtx core c.ctx fun k => k.setH h (some v)
    (∀ h v r d, c.op = .seal h v r → c.running = true → r.ready (z.core core) = true → z.desc v.tile = some d →
      exec (.tsealRegionComplete core c.serial) z = .next (done (((elems z r d 0).modDesc v.tile fun q =>
        { q with opened := false, sealed := true }).modCtx core c.ctx fun k => { k with openSet := k.openSet.filter (· != v.tile) }) h v)) ∧
    (∀ h v r, c.op = .seal h v r → c.running = false → exec (.tsealRegionComplete core c.serial) z = .next z) ∧
    -- the copy reads
    (∀ h tok cp w d q, c.op = .update h tok (some cp) false w → (c.engine = none ∨ c.running = true) → (z.ctx core c.ctx).drops.length < 16 →
      z.desc cp.tile = some d → z.desc tok.tile = some q →
      let n := min d.bytes q.bytes
      exec (.updateCopyComplete core c.serial []) z = .next
        (((z.writeMarked d.storage.toNat ((List.range n).map fun i => z.byte (q.storage.toNat + i)) (z.marks q.storage.toNat n)).modCmd core
          c.serial fun m => { m with op := match m.op with | .update h t cp _ w => .update h t cp true w | o => o }).modCtx core c.ctx fun k =>
            { k with drops := k.drops ++ [⟨tok.tile, tok.e, c.bundle, false⟩] })) ∧
    (∀ h tok cp w, c.op = .update h tok (some cp) false w → 16 ≤ (z.ctx core c.ctx).drops.length →
      exec (.updateCopyComplete core c.serial []) z = .next z ∧ exec (.updateWriteComplete core c.serial) z = .next z) ∧
    -- the write
    (∀ h tok cp read, (c.engine = none ∨ c.running = true) → (cp = none ∨ read = true) →
      let res := cp.getD tok
      (c.op = .update h tok cp read .opened → exec (.updateWriteComplete core c.serial) z = .next (done z h res)) ∧
      (∀ n v d, c.op = .update h tok cp read (.elem n v) → z.desc res.tile = some d →
        exec (.updateWriteComplete core c.serial) z = .next (done (z.setTileElem d n v.toNat) h res)) ∧
      (∀ n r d, c.op = .update h tok cp read (.region n r) → z.desc res.tile = some d → r.ready (z.core core) = true →
        exec (.updateWriteComplete core c.serial) z = .next (done (elems z r d n) h res)))

/-! ### Events of the group multiply and of the fabric -/

/-- R203, R235 to R243: an announcement enters its key's entry and the last one that was missing lets the members agree, or disagree and abort; a
member computes a block when the block of the rank before stands in its buffer of 16 and the next rank has room, adds the two, and passes the sum
on, or writes it at the last rank, which seals the result tile after its last block; the first ABORT of a key decides, of two in one cycle the one
that names the lower rank, then that of the lower sender; DONE gives each member its handle and frees the entry; the agreement timer and the loss of
a member abort. That a full table discards an announcement (log entry 54), that a CHAIN block which finds a full buffer waits at the receiver (59), that the
result tile is born at its completion (61), and that the word that a block has left a buffer is a CHAIN without a block (94), are the model's choices. -/
def Obligations.GroupEvents : Prop :=
  ∀ (z : State) (gid seq rank mask m n k fmts fn : Nat) (a : Agree),
    let ann : Ann := ⟨rank, mask, m, n, k, fmts, fn⟩
    let held : Agree := { a with anns := a.anns.filter (fun b => !(b.rank == rank && b.mask == mask)) ++ [ann] }
    let status (s cause r : Nat) : Word := BitVec.ofNat 64 (s * 2 ^ 62 + cause * 2 ^ 59 + r * 2 ^ 56 + gid * 2 ^ 32 + seq)
    let completes (s : State) (core : Nat) (c : Cmd) (g : Gmma) (t : BitVec 40) : State :=
      let y := (s.removeCmd core c.serial).modCtx core c.ctx fun x => { x with gstat := status 1 0 0 }
      if g.mc = true then y.modCtx core c.ctx fun x => x.setH g.hx (some ⟨false, BitVec.ofNat 5 (31 - bits g.desc 51 2), t⟩)
      else if g.rank + 1 = g.size then y.modCtx core c.ctx fun x => x.setH g.hx (some ⟨true, 31, t⟩)
      else y
    -- no entry
    ((∀ e ∈ z.agree, ¬ (e.gid = gid ∧ e.seq = seq)) →
      (z.agree.length < 512 →
        exec (.announce rank gid seq mask m n k fmts fn) z = .next
          { z with agree := z.agree ++ [⟨gid, seq, [ann], none, .gathering, [], 0, none, none⟩] } ∧
        (z.gmmasOf gid seq = [] → ∀ cause s, exec (.abort gid seq cause rank s) z = .next
          { z with agree := z.agree ++ [⟨gid, seq, [], none, .aborted cause rank, [], 0, some (z.cycle, s), none⟩] })) ∧
      (512 ≤ z.agree.length → exec (.announce rank gid seq mask m n k fmts fn) z = .next z) ∧
      (∀ b, exec (.chain gid seq ⟨rank, b⟩) z = .next z) ∧ (∀ t, exec (.done gid seq ⟨rank, t⟩) z = .next z)) ∧
    -- an entry
    (z.agree = [a] → a.gid = gid → a.seq = seq →
      (a.localRank = some rank → exec (.announce rank gid seq mask m n k fmts fn) z = .next z) ∧
      (a.localRank = none → exec (.announce rank gid seq mask m n k fmts fn) z = .next { z with agree := [held] }) ∧
      (∀ r core c g o l, a.localRank = some r → r ≠ rank → a.state = .gathering → z.gmmasOf gid seq = (core, c, g) :: l → held.own = some o →
        let y : State := { z with agree := [held] }
        (held.complete o = false → exec (.announce rank gid seq mask m n k fmts fn) z = .next y) ∧
        (held.complete o = true → held.consistent o = true →
          (g.rank + 1 ≠ g.size →
            exec (.announce rank gid seq mask m n k fmts fn) z = .next { z with agree := [{ held with state := .agreed }] }) ∧
          -- the last rank reserves the result tile, neither open nor sealed
          (g.rank + 1 = g.size →
            let shape : Shape := { opened := true, place := dieOf core, tier := 1, layout := 2, cols := BitVec.ofNat 14 (o.n - 1)
                                   rows := BitVec.ofNat 14 (o.m - 1), fword := if accumOf g.fmtA g.fmtB = some .integers then 0x0010 else 0x0001 }
            (∀ s t, y.allocate (dieOf core) shape = .ok (s, t) → exec (.announce rank gid seq mask m n k fmts fn) z = .next
              ((s.modDesc t fun d => { d with opened := false }).setEntry { held with state := .agreed, result := some t })) ∧
            (∀ e, y.allocate (dieOf core) shape = .error e → exec (.announce rank gid seq mask m n k fmts fn) z = .next
              (y.engineFault core c .tileNospace 0)))) ∧
        (held.complete o = true → held.consistent o = false →
          exec (.announce rank gid seq mask m n k fmts fn) z = .next (y.abortGmma g 2 g.rank))) ∧
      ((∀ x r, a.state ≠ .aborted x r) →
        (∀ b, b ≠ [] → a.blocks.length < 16 →
          ((∀ r, a.localRank = some r → r = rank + 1) →
            exec (.chain gid seq ⟨rank, b⟩) z = .next { z with agree := [{ a with blocks := a.blocks ++ [b] }] }) ∧
          (∀ r, a.localRank = some r → r ≠ rank + 1 → exec (.chain gid seq ⟨rank, b⟩) z = .next z)) ∧
        (∀ b, b ≠ [] → 16 ≤ a.blocks.length → exec (.chain gid seq ⟨rank, b⟩) z = .next (z.post [.chain gid seq ⟨rank, b⟩])) ∧
        (∀ r, a.localRank = some r → r + 1 = rank → exec (.chain gid seq ⟨rank, []⟩) z = .next { z with agree := [{ a with ahead := a.ahead - 1 }] }) ∧
        (∀ cause s, a.result = none → z.gmmasOf gid seq = [] → exec (.abort gid seq cause rank s) z = .next
          { z with agree := [{ a with
            state := .aborted cause rank, blocks := [], ahead := 0, heard := some (z.cycle, s), result := none }] })) ∧
      (∀ x r, a.state = .aborted x r →
        (∀ b, exec (.chain gid seq ⟨rank, b⟩) z = .next z) ∧
        (∀ cause s, (∀ q, a.heard = some (z.cycle, q) → r < rank ∨ (r = rank ∧ q ≤ s)) → exec (.abort gid seq cause rank s) z = .next z) ∧
        (∀ cause s q, a.heard = some (z.cycle, q) → (rank < r ∨ (rank = r ∧ s < q)) → exec (.abort gid seq cause rank s) z = .next
          { z with
            agree := [{ a with state := .aborted cause rank, heard := some (z.cycle, s) }]
            cores := z.cores.map fun e => (e.1, { e.2 with ctxs := e.2.ctxs.map fun q =>
              (q.1, if q.2.gstat = status 2 x r then { q.2 with gstat := status 2 cause rank } else q.2) }) })) ∧
      (∀ t core c g l, z.gmmasOf gid seq = (core, c, g) :: l → g.gid = gid → g.seq = seq →
        (g.entered = true → rank + 1 = g.size →
          exec (.done gid seq ⟨rank, t⟩) z = .next { completes z core c g t with agree := [] }) ∧
        ((g.entered = false ∨ rank + 1 ≠ g.size) → exec (.done gid seq ⟨rank, t⟩) z = .next z)) ∧
      -- the blocks of the chain
      (∀ core c g p, Goes z core → (z.core core).cmds.find? (fun q => q.engine == some .matrix && q.running) = some c → c.op = .gmma g →
        g.gid = gid → g.seq = seq → c.fetched = true → z.product c = some p → a.state = .agreed → c.progress < g.blocks →
        let es := blockElems p.rows p.cols c.progress
        let own := es.map fun e => z.output p.ops e.1 e.2 0
        let sums (b : List Word) : List Nat := (own.zip b).map fun e =>
          if p.ops.acc = .integers then (e.2.toNat + e.1) % 2 ^ 32
          else (fp32.convert rne false (sumNum [fp32.decode e.2.toNat, fp32.decode e.1])).1
        let took : State := z.send (z.memberPeer (memberOf g.mask (g.rank - 1))) (.chain gid seq ⟨g.rank, []⟩)
        let next := z.memberPeer (memberOf g.mask (g.rank + 1))
        (g.rank + 1 < g.size → 16 ≤ a.ahead → exec (.matrixBlockComplete core) z = .next z) ∧
        (0 < g.rank → a.blocks = [] → exec (.matrixBlockComplete core) z = .next z) ∧
        (g.rank + 1 < g.size → a.ahead < 16 → a.result = none →
          (g.rank = 0 → exec (.matrixBlockComplete core) z = .next
            ((({ z with agree := [{ a with ahead := a.ahead + 1 }] } : State).send next (.chain gid seq ⟨0, own.map (BitVec.ofNat 64)⟩)).blockDone
              core c.serial p)) ∧
          (∀ b l, 0 < g.rank → a.blocks = b :: l → exec (.matrixBlockComplete core) z = .next
            ((({ took with agree := [{ a with blocks := l, ahead := a.ahead + 1 }] } : State).send next
              (.chain gid seq ⟨g.rank, (sums b).map (BitVec.ofNat 64)⟩)).blockDone core c.serial p))) ∧
        (∀ b l t d, g.rank + 1 = g.size → 0 < g.rank → a.blocks = b :: l → a.result = some t → z.desc t = some d →
          let wrote : State := ((es.zip (sums b)).foldl (fun (s : State) (e : (Nat × Nat) × Nat) =>
            s.setTileElem d (e.1.1 * (d.cols.toNat + 1) + e.1.2) e.2) { took with agree := [{ a with blocks := l }] }).blockDone core c.serial p
          (c.progress + 1 < g.blocks → exec (.matrixBlockComplete core) z = .next wrote) ∧
          (c.progress + 1 = g.blocks → exec (.matrixBlockComplete core) z = .next
            { completes ((wrote.modDesc t fun q => { q with sealed := true, born := wrote.timeDom }).sendMembers g.mask
                (.done gid seq ⟨g.rank, t⟩)) core c g t with agree := [] })))) ∧
    -- timers and losses
    (∀ core c g, z.gathering core = some (c, g) →
      (z.cycle < g.takenAt + g.timeout → exec (.gmmaAgreementTimeout core) z = .next z) ∧
      (g.takenAt + g.timeout ≤ z.cycle →
        (g.entered = true → exec (.gmmaAgreementTimeout core) z = .next (z.abortGmma g 1 g.rank)) ∧
        (g.entered = false → exec (.gmmaAgreementTimeout core) z = .next
          ((z.sendMembers g.mask (.abort g.gid g.seq 1 g.rank g.rank)).gmmaAborted core c g 1 g.rank)))) ∧
    (∀ core, (z.core core).cmds = [] → exec (.gmmaAgreementTimeout core) z = .next z) ∧
    (z.cores = [] → exec (.gmmaMemberLost m) z = .next z) ∧
    (∀ core q c g, z.cores = [(core, q)] → q.cmds = [c] → c.op = .gmma g → c.running = true → z.peer.toNat / 8 * 8 + m ≠ z.peer.toNat →
      let lost := popcount8 (g.mask % 2 ^ m)
      let sent : Prop := g.entered = true ∧ g.rank + 1 < g.size ∧ c.progress = g.blocks
      (g.mask.testBit m = false → exec (.gmmaMemberLost m) z = .next z) ∧
      (g.mask.testBit m = true →
        (¬ sent → g.entered = true → exec (.gmmaMemberLost m) z = .next (z.abortGmma g 5 lost)) ∧
        (g.entered = false → exec (.gmmaMemberLost m) z = .next
          ((z.sendMembers g.mask (.abort g.gid g.seq 5 lost g.rank)).gmmaAborted core c g 5 lost)) ∧
        (sent → lost + 1 = g.size → exec (.gmmaMemberLost m) z = .next (z.abortHere g.gid g.seq 5 lost)) ∧
        (sent → lost + 1 ≠ g.size → exec (.gmmaMemberLost m) z = .next z)))

/-- R285, R286, R290 to R293, R336, R342: a link trains only to the far end that it is wired to and that its cabling word names, with keys that
both ends share; a slot carries the next flit while the replay buffer holds fewer than 128, else an idle one; a flit that is corrupt asks for a NAK
and the sixteenth in a run for retraining; an intact one acknowledges and is delivered, with the messages that it brings, in its turn; a NAK makes the
flits from the one it names go out again; retraining takes new keys and counts from 0; the time offset follows the source within 4 ns; the loss of a
package is reported and passed on; adds to one word become one. Which flits an acknowledgement covers, and the field that a NAK names its flit in (log
entry 75), the step at joining and the estimate, a free value (76), what a router combines, that its requests are answered in their order and what becomes of
adds that the home would refuse (77), that the messages of the far end are an input (78), and what a control flit carries and where messages of a disabled
link go (98), are the model's choices. -/
def Obligations.FabricEvents : Prop :=
  ∀ (z : State) (port : Nat) (l : Link), z.link port = l →
    -- training
    (∀ far fport keys, 12 ≤ port → exec (.linkTrain port far fport keys) z = .next z) ∧
    (∀ far fport keys, port < 12 →
      let w := z.cabling.get 0 port
      let said : State := z.send far (.linkTrain fport z.peer.toNat port keys)
      let m : Link := { l with farPeer := far, farPort := fport }
      let wired : Prop :=
        if port < 7 then far = z.peer.toNat / 8 * 8 + (z.peer.toNat % 8 + port + 1) % 8 ∧ fport + port = 6
        else 7 ≤ fport ∧ fport < 12 ∧ bondsJoined (z.peer.toNat / 8) (far / 8) = true
      let expected : Prop := w.getLsbD 63 = true ∧ bits w 4 14 = far ∧ bits w 0 4 = fport
      (wired → expected → keys = true →
        let up : State := { said.setLink port { z.rekey port m with
            trained := true, disabled := false, txSeq := 0, rxSeq := 0, txCtr := 0, rxCtr := 0, replay := [], resend := 0
            queue := l.replay.map (·.2) ++ l.queue, badRun := 0, nakOut := none, last := none } with
          disabledPeers := z.disabledPeers.set false far false }
        exec (.linkTrain port far fport keys) z = .next (up.sendControl far true)) ∧
      (¬ (wired ∧ expected ∧ keys = true) → exec (.linkTrain port far fport keys) z = .next
        (let s := said.dropLink port
         s.setLink port { s.link port with farPeer := far, farPort := fport }))) ∧
    -- a link that is disabled leaves what it has not delivered to the other links, and the neighbours are told
    (let y := z.setLink port { l with trained := false, disabled := true }
     z.outbox = [] →
      (y.ports = [] → l.trained = false → z.dropLink port = y) ∧
      (y.ports ≠ [] → l.trained = false → z.dropLink port = z.setLink port { l with trained := false, disabled := true, replay := [], queue := [] })) ∧
    -- the keys that an exchange gives are those of the far end, each way round
    (∀ (z' : State) (l' : Link), l.farPeer = z'.peer.toNat → l'.farPeer = z.peer.toNat → l'.farPort = port → l'.keyEpoch = l.keyEpoch →
      z.peer ≠ z'.peer →
      let a := z.rekey port l
      let b := z'.rekey l.farPort l'
      a.txKey = b.rxKey ∧ a.rxKey = b.txKey ∧ a.salt = b.salt ∧ a.keyEpoch = l.keyEpoch + 1) ∧
    (l.trained = false → ∀ a b c d (f g : Bool) x y peer stamp, exec (.flitReceive port a ⟨b, x, y⟩ c d f g) z = .next z ∧
      exec (.nakReceive port a) z = .next z ∧ exec (.linkRetrain port) z = .next z ∧ exec (.timeSyncSend port) z = .next z ∧
      exec (.timeSyncReceive port peer stamp) z = .next z) ∧
    (l.trained = true →
      -- a slot of the link
      (let sent (load : Load) (seq : BitVec 12) : Link :=
        { l with last := some ⟨l.txCtr, load, seq, l.nakOut.getD (l.rxSeq - 1), l.nakOut.isSome⟩, txCtr := l.txCtr + 1, nakOut := none }
       (l.resend = 0 →
        ((l.queue = [] ∨ 128 ≤ l.replay.length) → l.slot = sent ⟨0, 0⟩ l.txSeq) ∧
        (∀ load r, l.queue = load :: r → l.replay.length < 128 → l.slot =
          { sent load l.txSeq with queue := r, replay := l.replay ++ [(l.txSeq, load)], txSeq := l.txSeq + 1 })) ∧
       (∀ k seq load, l.resend = k + 1 → l.replay[l.replay.length - l.resend]? = some (seq, load) → l.slot = { sent load seq with resend := k })) ∧
      -- a corrupt flit
      (∀ ctr kind seq ack nak ok x y, (ok = false ∨ ctr % 2 ^ 32 ≠ l.rxCtr.toNat % 2 ^ 32) →
        let bad := z.setLink port { l with rxCtr := l.rxCtr + 1, badRun := l.badRun + 1, nakOut := some l.rxSeq }
        (l.badRun < 15 → exec (.flitReceive port ctr ⟨kind, x, y⟩ seq ack nak ok) z = .next bad) ∧
        (15 ≤ l.badRun → exec (.flitReceive port ctr ⟨kind, x, y⟩ seq ack nak ok) z = .next (bad.post [.linkRetrain port]))) ∧
      -- an intact one
      (∀ ctr kind seq ack (nak : Bool) x y, ctr % 2 ^ 32 = l.rxCtr.toNat % 2 ^ 32 →
        let left := if nak = false ∧ ∃ e ∈ l.replay, e.1 = BitVec.ofNat 12 ack then (l.replay.dropWhile (·.1 != BitVec.ofNat 12 ack)).drop 1
          else l.replay
        let m : Link := { l with rxCtr := l.rxCtr + 1, badRun := 0, replay := left, resend := min l.resend left.length }
        let asked : List Instr := if nak then [.nakReceive port ack] else []
        let brings : List Instr := match kind with
          | 1 => l.arriving.take x
          | 2 => [.timeSyncReceive port l.farPeer (BitVec.ofNat 64 x)]
          | 3 => [.controlFlitReceive x (y != 0)]
          | _ => []
        (kind ≠ 0 → BitVec.ofNat 12 seq = l.rxSeq → exec (.flitReceive port ctr ⟨kind, x, y⟩ seq ack nak true) z = .next
          ((z.setLink port { m with
            rxSeq := l.rxSeq + 1, nakOut := none, arriving := if kind = 1 then l.arriving.drop x else l.arriving }).post (asked ++ brings))) ∧
        ((kind = 0 ∨ BitVec.ofNat 12 seq ≠ l.rxSeq) → exec (.flitReceive port ctr ⟨kind, x, y⟩ seq ack nak true) z = .next
          ((z.setLink port m).post asked))) ∧
      -- retry
      (∀ seq, (∃ e ∈ l.replay, e.1 = BitVec.ofNat 12 seq) →
        let left := l.replay.dropWhile (·.1 != BitVec.ofNat 12 seq)
        exec (.nakReceive port seq) z = .next (z.setLink port { l with replay := left, resend := left.length })) ∧
      (let m : Link := { l with retrains := l.retrains + 1, rxCtr := 0, txCtr := 0, resend := l.replay.length, badRun := 0, nakOut := none }
       exec (.linkRetrain port) z = .next { z.setLink port (z.rekey port m) with freeUse := z.freeUse + 1 } ∨
       exec (.linkRetrain port) z = .next (({ z.setLink port m with freeUse := z.freeUse + 1 } : State).dropLink port)) ∧
      -- time
      exec (.timeSyncSend port) z = .next
        ((z.setLink port { l with queue := l.queue ++ [⟨2, 0⟩] }).send l.farPeer (.timeSyncReceive l.farPort z.peer.toNat z.timeDom)) ∧
      (∀ peer stamp,
        let ahead : Int := Config.offsetEstimate peer stamp z.timeDom z.freeUse
        let y : State := { z with timeJoined := true, freeUse := z.freeUse + 1 }
        (z.timeSource = true → exec (.timeSyncReceive port peer stamp) z = .next { y with timeLocked := true, timeOffset := 0 }) ∧
        (z.timeSource = false → z.timeJoined = false → 0 < ahead → exec (.timeSyncReceive port peer stamp) z = .next
          { y with ticks := z.ticks + 360360 * ahead.natAbs, timeOffset := 0, timeLocked := true }) ∧
        (z.timeSource = false → (z.timeJoined = true ∨ ahead ≤ 0) → exec (.timeSyncReceive port peer stamp) z = .next
          { y with timeOffset := 360360 * ahead, timeLocked := decide (ahead.natAbs ≤ 4) }))) ∧
    -- packages lost and found
    (∀ peer up, (z.population.get false peer = false ∨ peer = z.peer.toNat) → exec (.controlFlitReceive peer up) z = .next z) ∧
    (∀ peer, z.population.get false peer = true → peer ≠ z.peer.toNat →
      (let y : State := { z with disabledPeers := z.disabledPeers.set false peer false }
       exec (.controlFlitReceive peer true) z = .next (if z.disabledPeers.get false peer = true then y.sendControl peer true else y)) ∧
      (let y : State := { z with disabledPeers := z.disabledPeers.set false peer true }
       let told : State := if z.disabledPeers.get false peer = false then y.sendControl peer false else y
       let lost : State := { told with reserves := told.reserves.filter fun e => e.1 / 1024 != peer }
       (peer / 8 ≠ z.peer.toNat / 8 → exec (.controlFlitReceive peer false) z = .next lost) ∧
       (peer / 8 = z.peer.toNat / 8 → exec (.controlFlitReceive peer false) z = .next (lost.post [.gmmaMemberLost (peer % 8)])))) ∧
    -- combining: one request to the home, one write there, one reply, which gives each request its old value
    (∀ router home kind key wide (reqs : List Request),
      let kept (s : State) : State :=
        if router = z.peer.toNat then { s with combined := s.combined ++ [⟨kind, key, wide, reqs⟩] } else s
      let sum := (reqs.map fun r => r.2.2.2.2.toNat).sum
      let size := if wide then 8 else 4
      let event := Instr.routerCombine ⟨router, home, kind, key⟩ wide reqs
      (home ≠ z.peer.toNat → exec event z = .next ((kept z).send home event)) ∧
      (home = z.peer.toNat → kind = 2 → (∀ r ∈ reqs, r.2.1 ≠ noCore) → exec event z = .next
        (((kept z).returnWeight (BitVec.ofNat 40 key) sum).deliver router (.combinedReplySplit ⟨2, key % 2 ^ 40, wide⟩ 0 reqs))) ∧
      (∀ t, home = z.peer.toNat → kind ≠ 2 → 2 ≤ reqs.length → key % size = 0 → paExists key = true → isHubSpace key = false →
        frameReserved (paTier key) (paFrame key) = false → (∀ r ∈ reqs, z.partition.get false r.1 = true ∧ z.exported 1 key true = true) →
        z.tag key = false → (kind = 0 → z.poisoned key size = false) → Serves z event → z.takeToWrite key size = some t →
        let old := t.readNat key size
        let free : State := { t with reserves := t.reserves.filter fun e =>
          !(e.2 == lineOf key && reqs.any fun r => keeper r.1 r.2.1 r.2.2.1 == e.1) }
        let y : State := (free.writeNat key size ((old + sum) % 2 ^ (8 * size))).deliver router
          (.combinedReplySplit ⟨kind, key, wide⟩ (BitVec.ofNat 64 old) reqs)
        exec event z = .next (if router = z.peer.toNat then { y with combined := y.combined ++ [⟨kind, key, wide, reqs⟩] } else y)) ∧
      -- adds that the home would refuse come one by one, and a router of another package forgets them
      (home = z.peer.toNat → kind ≠ 2 → (z.combines key size reqs = false ∨ (Serves z event ∧ z.tag key = true)) →
        let apart := z.post (reqs.map fun r =>
          .remoteAccess r.1 r.2.1 r.2.2.1 ((if kind = 0 then 2 else 3) + 16 * size) key r.2.2.2.2 0 0 r.2.2.2.1 [])
        exec event z = .next (if router = z.peer.toNat then apart else apart.deliver router (.combinedReplySplit ⟨kind + 4, key, wide⟩ 0 reqs)))) ∧
    (∀ kind key wide (old : Word) (a b : Request),
      let y : State := { z with combined := [] }
      let n := if wide then 64 else 32
      (z.combined = [] → exec (.combinedReplySplit ⟨kind, key, wide⟩ old [a, b]) z = .next z) ∧
      (z.combined = [⟨kind, key, wide, [a, b]⟩] →
        (kind = 0 → exec (.combinedReplySplit ⟨kind, key, wide⟩ old [a, b]) z = .next
          ((y.deliver a.1 (.variableResultArrival a.2.1 a.2.2.1 false a.2.2.2.1 (BitVec.ofNat 64 (old.toNat % 2 ^ n)))).deliver b.1
            (.variableResultArrival b.2.1 b.2.2.1 false b.2.2.2.1 (BitVec.ofNat 64 ((old.toNat + a.2.2.2.2.toNat) % 2 ^ n))))) ∧
        (kind = 1 → exec (.combinedReplySplit ⟨kind, key, wide⟩ old [a, b]) z = .next
          ((y.deliver a.1 (.remoteAcknowledgement a.2.1 ⟨a.2.2.1, false, a.2.2.2.1 / 64⟩)).deliver b.1
            (.remoteAcknowledgement b.2.1 ⟨b.2.2.1, false, b.2.2.2.1 / 64⟩))) ∧
        (kind < 4 → exec (.combinedReplySplit ⟨kind + 4, key, wide⟩ old [a, b]) z = .next y) ∧
        (kind = 2 → a.2.1 ≠ noCore → b.2.1 ≠ noCore → exec (.combinedReplySplit ⟨kind, key, wide⟩ old [a, b]) z = .next
          ((y.deliver a.1 (.dropAck a.2.1 a.2.2.1 (BitVec.ofNat 40 key))).deliver b.1 (.dropAck b.2.1 b.2.2.1 (BitVec.ofNat 40 key))))))

/-! ### Events of launches and of the host -/

/-- R89, R293, R298, R299, R302 to R309, R330, R332: the packet at the head of the slot that is next in the round becomes a launch, rejected or
waiting; a launch that misses no frame is pending; a dispatch charges the budget with the demand as it is then and starts the tasks, each in a
context whose registers are as R304 says, once its core is not frozen; a completed launch writes its record, raises its flag and leaves; a doorbell
moves the tail of its ring as far as that is not overfull; words of the hub control space are written. That the addresses of a launch are translated on
the die of its lowest core (log entry 47), that a marked packet is read (63), that launch identifiers wrap to 1 (64), that a record is skipped without a
region (66), that a ring at an address without a frame stops the machine (67), that the admin ring discards as a slot's does (73), that a launch is judged
again when its frames are resident (96), what rejects a lease list (97), and what a start that waits for an unfreeze takes at once (103), are the model's
choices. -/
def Obligations.LaunchEvents : Prop :=
  ∀ (z : State) (slot : Nat) (l : Launch),
    let q := z.qslot slot
    let pa := q.base.toNat * 128 + 128 * (q.head.toNat % 2 ^ (q.lgsize.toNat + 4))
    -- a packet
    ((q.mapped = false ∨ q.head = q.tail ∨ z.nextSlot ≠ some slot ∨ (z.timeJoined = false ∧ z.timeSource = false)) →
      exec (.launchPacketRead slot) z = .next z) ∧
    (z.nextSlot = some slot → (z.timeJoined = true ∨ z.timeSource = true) →
      (paExists pa = false → exec (.launchPacketRead slot) z = .fault (.noFrame pa)) ∧
      (paExists pa = true → z.rangeQuiet pa 128 = false → exec (.launchPacketRead slot) z = .next z) ∧
      (paExists pa = true →
        let bs := (z.takeRange pa 128).readBytes pa 128
        let parent := ofBytes ((bs.drop 104).take 8) % 2 ^ 32
        let reads := z.frontReads pa bs parent
        (∀ r ∈ reads, z.rangeQuiet r.1 r.2 = true) →
        -- a lease list, or a part of it, of another package is asked for first
        (∀ w, z.validate bs parent = .error (some w) → z.frontAsked = none → exec (.launchPacketRead slot) z = .next
          (({ z with frontAsked := some w.key } : State).deliver w.1 (.remoteAccess z.peer.toNat noCore 0 9 w.2.1 0 0 0 w.2.2 []))) ∧
        ((∀ w, z.validate bs parent ≠ .error (some w)) →
          let s : State := reads.foldl (fun s r => s.takeRange r.1 r.2) z
          let y : State := { s with
            slots := s.slots.put slot { q with head := q.head + 1 }, slotTurn := (slot + 1) % 64, frontGot := []
            nextLaunch := if s.nextLaunch + 1 < 2 ^ 32 then s.nextLaunch + 1 else 1, launches := s.launches ++ [l] }
          s.launchOf q.proc.toNat (s.packetAt pa).1 (s.packetAt pa).2 = l →
          (∀ n, l.state = .ended n → exec (.launchPacketRead slot) z = .next (y.post [.launchComplete l.id])) ∧
          (l.state = .pending → s.launches = [] → y.missing l = [] → y.withinLimits (y.current l) = true →
            exec (.launchPacketRead slot) z = .next { y with launches := [{ y.current l with state := .pending }] })))) ∧
    -- residency
    (z.launches = [] → ∀ id, exec (.residencyAnswer id) z = .next z ∧ exec (.residencyDiscard id) z = .next z ∧
      exec .dispatch z = .next z ∧ exec (.launchComplete id) z = .next z) ∧
    (z.launches = [l] → l.state = .waitingResidency →
      exec (.residencyDiscard l.id) z = .next
        (({ z with launches := [{ l with state := .ended 4 }] } : State).post [.launchComplete l.id]) ∧
      (z.missing l = [] →
        (z.withinLimits (z.current l) = true →
          exec (.residencyAnswer l.id) z = .next { z with launches := [{ z.current l with state := .pending }] }) ∧
        (z.withinLimits (z.current l) = false → exec (.residencyAnswer l.id) z = .next
          (({ z with launches := [{ z.current l with state := .ended 2 }] } : State).post [.launchComplete l.id])))) ∧
    -- dispatch
    (∀ ts, z.launches = [l] → z.canDispatch l = true → z.placement l = some ts →
      (z.chainReady l.chain = false → exec .dispatch z = .next (z.askRefills (z.usageRefills l.chain))) ∧
      (z.chainReady l.chain = true → (∀ c ∈ l.pkt.cores, (z.core c).gated = false) →
        let m := z.current l
        let y : State := (z.charge m).startTasks m ts 0
        exec .dispatch z = .next { y with
          launches := y.launches.map fun k => if k.id = l.id then { k with state := .running, live := ts.length, near := m.near } else k })) ∧
    (z.launches = [l] → z.canDispatch l = false → z.missing l = [] → exec .dispatch z = .next z) ∧
    (∀ c x base rank, let y := z.startTask l c x base rank
      ((z.core c).frozen = none →
        y.ctx c x = { Ctx.reset with
          pc := l.pkt.code, run := .running, task := some ⟨l.id, l.lease⟩
          rank := BitVec.ofNat 10 rank, nranks := BitVec.ofNat 11 (l.pkt.cores.length * l.pkt.ctxs), argp := l.pkt.args, asid := l.asid
          lsbase := BitVec.ofNat 8 base, lslen := BitVec.ofNat 9 (l.pkt.lsbytes / 4096)
          tvecRec := l.pkt.tvec.extractLsb' 50 14, tvecHandler := l.pkt.tvec.extractLsb' 4 36, barGen := (y.ctx c x).barGen } ∧
        (∀ o, base * 4096 ≤ o → o < base * 4096 + l.pkt.lsbytes / 4096 * 4096 →
          (y.core c).ls.get 0 o = 0 ∧ (y.core c).lsTag o = false ∧ (y.core c).isFull o = false)) ∧
      ((z.core c).frozen ≠ none → y.ctx c x = { Ctx.reset with
        run := .starting, task := some ⟨l.id, l.lease⟩, rank := BitVec.ofNat 10 rank, lsbase := BitVec.ofNat 8 base
        lslen := BitVec.ofNat 9 (l.pkt.lsbytes / 4096) })) ∧
    -- a start that waited for the unfreeze is made as it would have been
    (∀ c x t, (z.core c).frozen = none → (z.ctx c x).run = .starting → (z.ctx c x).task = some t → z.launches = [l] → t.launch = l.id →
      z.lateStart c x = z.startTask l c x (z.ctx c x).lsbase.toNat (z.ctx c x).rank.toNat) ∧
    -- completion
    (z.launches = [l] → l.live ≠ 0 → l.state = .running → exec (.launchComplete l.id) z = .next z) ∧
    (z.launches = [l] → l.record = .sent → exec (.launchComplete l.id) z = .next z) ∧
    (∀ n, z.launches = [l] → l.state = .ended n → l.parent = 0 → l.id ≠ 0 → z.slots = [] →
      let place := if l.chain = [] then none else z.mortarPlace l.pkt.die l.asid l.pkt.record
      let bytes := toBytes 8 l.pkt.tag.toNat ++ toBytes 4 n ++ toBytes 4 l.faults ++ toBytes 8 z.timeDom.toNat ++ toBytes 4 l.id ++ toBytes 4 0
      (l.pkt.flag.getLsbD 63 = false →
        ((l.pkt.record = 0 ∧ l.record ≠ .sent ∨ l.record = .done) → exec (.launchComplete l.id) z = .next { z with launches := [] }) ∧
        (l.pkt.record ≠ 0 → l.record = .unwritten →
          (place = none → exec (.launchComplete l.id) z = .next { z with skippedRecords := z.skippedRecords + 1, launches := [] }) ∧
          (∀ at_, place = some (z.peer.toNat, at_) → z.writeQuiet at_ 32 = true →
            exec (.launchComplete l.id) z = .next { z.deviceWrite at_ bytes with launches := [] }) ∧
          (∀ p at_, place = some (p, at_) → p ≠ z.peer.toNat → exec (.launchComplete l.id) z = .next
            (({ z with launches := [{ l with record := .sent }] } : State).deliver p
              (.remoteAccess z.peer.toNat noCore 0 8 at_ 0 0 0 l.id (bytes ++ List.replicate 32 0)))))) ∧
      (l.pkt.flag.getLsbD 63 = true → l.pkt.record = 0 → l.record ≠ .sent →
        let p := bits l.pkt.flag 24 14
        ((z.peerAbsent p = true ∨ z.peerAllowed p = false) →
          exec (.launchComplete l.id) z = .next { z with refusedFlags := z.refusedFlags + 1, launches := [] }) ∧
        (z.peerAbsent p = false → z.peerAllowed p = true → exec (.launchComplete l.id) z = .next
          { z.deliver p (.rpostArrival z.peer.toNat noCore 0 (bits l.pkt.flag 0 8) (bits l.pkt.flag 8 2) (bits l.pkt.flag 40 4) 1 0) with
            launches := [] }))) ∧
    -- doorbells: writes of the memory BAR
    (∀ word : Word, let t := word.setWidth 24
      (slot < 64 →
        ((t - q.tail).toNat + (q.tail - q.head).toNat ≤ 2 ^ (q.lgsize.toNat + 4) → exec (.doorbell (0x1000 + 8 * slot) word) z = .next
          { z with slots := z.slots.put slot { q with tail := t } }) ∧
        (2 ^ (q.lgsize.toNat + 4) < (t - q.tail).toNat + (q.tail - q.head).toNat → t ≠ q.tail →
          exec (.doorbell (0x1000 + 8 * slot) word) z = .next { z with badDoorbells := z.badDoorbells + 1 })) ∧
      (∀ e, (e = Instr.doorbell 0x800 word ∨ e = .adminDoorbell word) →
        ((t - z.adminTail).toNat + (z.adminTail - z.adminHead).toNat ≤ 64 → exec e z = .next { z with adminTail := t }) ∧
        (64 < (t - z.adminTail).toNat + (z.adminTail - z.adminHead).toNat → t ≠ z.adminTail →
          exec e z = .next { z with badDoorbells := z.badDoorbells + 1 })) ∧
      (∀ off, off ≠ 0x800 → (off < 0x1000 ∨ 0x1200 ≤ off ∨ off % 8 ≠ 0) → exec (.doorbell off word) z = .next z)) ∧
    -- words of the hub control space
    (∀ v : Word, slot < 64 →
      exec (.registerWrite (16 * slot) v) z = .next { z with slots := z.slots.put slot { q with base := v.extractLsb' 7 57 } } ∧
      exec (.registerWrite (16 * slot + 8) v) z = .next { z with slots := z.slots.put slot { q with
        mapped := v.getLsbD 63 && z.accepted.isSome, lgsize := if 8 < bits v 59 4 then 8 else v.extractLsb' 59 4
        proc := v.extractLsb' 51 8 } } ∧
      exec (.registerWrite 0x3010 v) z = .next (z.post
        [if v.getLsbD 63 then .residencyDiscard (bits v 0 32) else .residencyAnswer (bits v 0 32)]) ∧
      exec (.registerWrite 0x5000 v) z = .next z)

/-- R331 to R335, R337, R339: the admin command that is next in the ring takes its entry, does what its opcode says, leaves a completion with its
identifier and its status, and raises vector 0; a command that is not next does nothing. An image verifies by its magic, its length, the hash of its
key and its signature. An SPDM answer gives the three measurements, or the algorithms that are negotiated. The hash, the signature check and the rest of an
SPDM answer are opaque functions (the model's choice, log entry 70); that a CLEAR without bit 0 is the event CLEAR_ERRORS (68), that FW_ACTIVATE without
a verified image answers 1 (69), that a trace goes to the host oldest first (71), where the parameters of a command lie in its entry (99), where the fields
of an image's header lie and how long its key is (100), and the codes of the SPDM messages (101) are the model's choices. -/
def Obligations.AdminCommands : Prop :=
  ∀ (z : State) (e : AdminEntry),
    let measured := [Config.bootHash, Config.sha3 ((z.banks.get ⟨false, 0, 0, some []⟩ z.bank).image.getD []),
      Config.sha3 ((List.range 12).flatMap fun k => toBytes 8 (z.cabling.get 0 k).toNat)]
    let flows := [(0x84, 0x04), (0xE1, 0x61), (0xE3, 0x63), (0x81, 0x01), (0x82, 0x02), (0x83, 0x03), (0xE0, 0x60), (0xE4, 0x64), (0xE5, 0x65),
      (0xE9, 0x69)]
    let codeOf (msg : List Byte) : Nat := (msg.getD 1 0).toNat
    -- the three algorithms are negotiated together, and a new start forgets them
    let selected (code : Nat) : List SpdmAlgorithm :=
      if code = 0xE3 then [.mlDsa44, .sha3, .mlKem768] else if code = 0x84 then [] else z.algorithms
    let answer (msg : List Byte) (r : Nat) : List Byte := [0x13, BitVec.ofNat 8 r] ++
      (if codeOf msg = 0xE3 then (List.range 3).flatMap Config.algorithmId
        else if codeOf msg = 0xE0 then measured.flatMap fun h => toBytes 32 h else []) ++ Config.spdmBody msg z.spdm measured z.freeUse
    -- a message of the mailbox, in every state
    (∀ msg, (∀ r, (codeOf msg, r) ∈ flows → exec (.doeMailboxMessage msg) z = .next { z with
        spdm := if codeOf msg = 0x84 then [codeOf msg] else z.spdm ++ [codeOf msg], algorithms := selected (codeOf msg), freeUse := z.freeUse + 1
        mailbox := answer msg r }) ∧
      ((∀ r, (codeOf msg, r) ∉ flows) → exec (.doeMailboxMessage msg) z = .next { z with mailbox := [0x13, 0x7F, 0x07, msg.getD 1 0] })) ∧
    (z.adminHead = z.adminTail → ∀ n c x classes trig arg post b msg, ∀ i ∈ [Instr.features n, .resync n, .clearSlip, .clearErrors, .fwLoad n c, .spdm msg,
      .trace c x classes trig arg post, .traceReadout c n, .power n, .fwActivate b, .adminUnsupported n], exec i z = .next z) ∧
    (NextEntry z e →
      let y := taken z
      let p (off n : Nat) : Nat := ofBytes (hostRange z (e.at_ + 20 + off) n)
      let said := hostRange z e.buf e.len
      -- features: one answer before the next reset
      (e.opcode = 1 →
        let a := BitVec.ofNat 128 (p 0 16)
        (z.featuresTried = true → exec (.features (p 0 16)) z = .next (completed y e.id 2 0)) ∧
        (z.featuresTried = false → a &&& ~~~z.offered = 0 →
          exec (.features (p 0 16)) z = .next (completed { y with featuresTried := true, accepted := some a } e.id 0 0)) ∧
        (z.featuresTried = false → a &&& ~~~z.offered ≠ 0 →
          exec (.features (p 0 16)) z = .next (completed { y with featuresTried := true } e.id 1 0)) ∧
        (∀ n, n ≠ p 0 16 → exec (.features n) z = .next z)) ∧
      -- summary and counts
      (e.opcode = 2 → exec (.resync e.buf) z = .next (completed (toBuffer y e.buf y.summary) e.id 0 0)) ∧
      (∀ buf, (e.opcode ≠ 2 ∨ buf ≠ e.buf) → exec (.resync buf) z = .next z) ∧
      (e.opcode = 3 → ∀ b, (p 0 4).testBit 1 = b →
        ((p 0 4).testBit 0 = true →
          exec .clearSlip z = .next (completed { y with slips := [], ecc := if b then [] else z.ecc } e.id 0 0)) ∧
        ((p 0 4).testBit 0 = false → exec .clearErrors z = .next (completed { y with ecc := if b then [] else z.ecc } e.id 0 0))) ∧
      -- firmware
      (e.opcode = 4 →
        let n := 64 + ofBytes ((said.drop 24).take 8)
        let key := (said.drop (n + 2420)).take 1312
        let rollback := ofBytes ((said.drop 16).take 8)
        let ok := decide (ofBytes (said.take 4) = 0x51465751 ∧ n + 2420 + 1312 ≤ said.length ∧ Config.sha3 key = Config.fusedKey ∧
          Config.signed key (Config.sha3 (said.take n)) ((said.drop n).take 2420) = true ∧ z.fusedRollback ≤ rollback)
        exec (.fwLoad e.buf e.len) z = .next (completed { y with
          banks := z.banks.put (1 - z.bank) ⟨ok, ofBytes ((said.drop 8).take 8), rollback, some said⟩ } e.id (if ok then 0 else 3) 0)) ∧
      (e.opcode = 8 →
        let unused : Prop := e.buf = 0 ∧ e.len = 0 ∧ ∀ b ∈ hostRange z (e.at_ + 20) 44, b = 0
        (¬ unused → exec (.fwActivate false) z = .next (completed y e.id 1 0)) ∧
        (unused → z.anyTask = true → exec (.fwActivate true) z = .next (completed y e.id 2 0)) ∧
        (unused → z.anyTask = false →
          let ok := (z.banks.get ⟨false, 0, 0, some []⟩ (1 - z.bank)).valid
          (ok = true → exec (.fwActivate true) z = .next (completed (({ y with nextBank := 1 - z.bank } : State).post [.deviceReset]) e.id 0 0)) ∧
          (ok = false → exec (.fwActivate true) z = .next (completed y e.id 1 0)))) ∧
      -- attestation
      (e.opcode = 5 →
        let code := (said.getD 1 0).toNat
        (∀ r, (code, r) ∈ flows →
          let a := answer said r
          exec (.spdm said) z = .next (completed (toBuffer { y with
            spdm := if code = 0x84 then [code] else z.spdm ++ [code], algorithms := selected code, freeUse := z.freeUse + 1 } e.buf a) e.id 0
              (BitVec.ofNat 64 a.length))) ∧
        ((∀ r, (code, r) ∉ flows) → exec (.spdm said) z = .next
          (completed (toBuffer y e.buf [0x13, 0x7F, 0x07, said.getD 1 0]) e.id 0 4))) ∧
      -- trace
      (e.opcode = 6 →
        let c := p 4 2
        let arg := BitVec.ofNat 64 (p 12 8)
        let valid : Prop := c < 256 ∧ p 6 1 < 4 ∧ p 7 1 < 8 ∧ p 8 1 < 4 ∧ p 10 2 < 4096
        ((p 0 4).testBit 0 = false →
          (valid → exec (.trace c (p 6 1) (p 7 1) (p 8 1) arg (p 10 2)) z = .next (completed (y.modCore c fun k =>
            { k with trace := k.trace.put (p 6 1) ⟨BitVec.ofNat 3 (p 7 1), p 8 1, arg, p 10 2⟩, traceState := .armed }) e.id 0 0)) ∧
          (¬ valid → exec (.trace c (p 6 1) (p 7 1) (p 8 1) arg (p 10 2)) z = .next (completed y e.id 1 0))) ∧
        ((p 0 4).testBit 0 = true →
          (c < 256 → exec (.traceReadout c e.buf) z = .next (completed ((toBuffer y e.buf ((z.core c).traceBuf.reverse.flatMap TraceRec.bytes)).modCore c
            fun k => { k with traceBuf := [], traceState := .armed }) e.id 0 0)) ∧
          (256 ≤ c → exec (.traceReadout c e.buf) z = .next (completed y e.id 1 0)))) ∧
      -- power
      (e.opcode = 7 →
        (900 ≤ p 0 4 → p 0 4 ≤ 1900 → exec (.power (p 0 4)) z = .next (completed { y with powerCap := p 0 4 } e.id 0 0)) ∧
        ((p 0 4 < 900 ∨ 1900 < p 0 4) → exec (.power (p 0 4)) z = .next (completed y e.id 1 0))) ∧
      ((e.opcode = 0 ∨ 8 < e.opcode) → exec (.adminUnsupported e.opcode) z = .next (completed y e.id 4 0)) ∧
      (1 ≤ e.opcode → e.opcode ≤ 8 → ∀ op, exec (.adminUnsupported op) z = .next z))

/-- R334, R338 to R340: a trace trigger on time, and the freeze of a trace buffer; the clock and the cap; what each reset leaves: memory but the
slices outlives a device reset, nothing but the part, the firmware banks and the host's memory outlives a power-on reset, after which memory lists
nothing (the model's choice, log entry 1); a CXL reset issues the bridge's REJOIN; a function-level reset closes the host port. The record of a
trigger on time (log entry 71), and that messages already sent stay sent (72), are the model's choices; whether the image that a part came with
verifies is a free value (70). -/
def Obligations.PowerAndResets : Prop :=
  ∀ (z : State) (c : Nat),
    let booted := match (z.banks.get ⟨false, 0, 0, some []⟩ z.nextBank).image with | some bs => imageOk bs | none => Config.freeBool z.freeUse
    -- trace
    (∀ x cfg, (z.core c).traceState = .armed → (z.core c).trace = [(x, cfg)] → cfg.trigger = 3 →
      (cfg.arg.toNat ≤ z.timeDom.toNat → exec (.traceTrigger c) z = .next (z.modCore c fun k => { k with
        traceState := .counting cfg.post, traceBuf := (⟨z.timeDom, 3, x, cfg.arg.setWidth 40⟩ :: k.traceBuf).take 4096 })) ∧
      (z.timeDom.toNat < cfg.arg.toNat → exec (.traceTrigger c) z = .next z)) ∧
    ((z.core c).traceState = .counting 0 → exec (.traceBufferFreeze c) z = .next (z.modCore c fun k => { k with traceState := .frozen })) ∧
    ((z.core c).traceState = .armed → exec (.traceBufferFreeze c) z = .next z) ∧
    -- the clock
    (∀ mhz exceeds, 875 ≤ mhz → mhz ≤ 1750 → mhz % 125 = 0 → (exceeds = false ∨ 875 < mhz) → (∀ e ∈ z.cores, e.2.gated = false) →
      exec (.powerThrottle mhz exceeds) z = .next { z with mhz := mhz, overCap := false }) ∧
    (c < 256 → (z.core c).gated = false → z.mayGate c = true → (∀ d, c < d → d < 256 → z.mayGate d = false) →
      exec (.powerThrottle 875 true) z = .next
        ((({ z with mhz := 875, overCap := true } : State).modCore c fun k => { k with capGated := true }).post [.corePowerGate c])) ∧
    -- resets
    (∃ t, exec .deviceReset z = .next t ∧
      (∀ a, paTier a ≠ 2 → Tab.get t.mem 0 a = Tab.get z.mem 0 a) ∧ (∀ a, paTier a = 2 → Tab.get t.mem 0 a = 0) ∧
      (∀ u, paTier (u * 32) ≠ 2 → t.poison.get false u = z.poison.get false u) ∧
      t.tags = [] ∧ t.tiles = [] ∧ t.cores = [] ∧ t.launches = [] ∧ t.spans = [] ∧ t.snaps = [] ∧ t.accepted = none ∧
      t.resets = z.resets + 1 ∧ t.peer = z.peer ∧ t.banks = z.banks ∧ t.hostMem = z.hostMem ∧ t.completions = z.completions ∧
      t.featuresTried = false ∧ t.nextBank = z.nextBank ∧ t.bank = (if booted then z.nextBank else 1 - z.nextBank)) ∧
    (∃ t, exec .powerOnReset z = .next t ∧
      t.mem = [] ∧ t.tags = [] ∧ t.poison = [] ∧ t.tiles = [] ∧ t.cores = [] ∧ t.launches = [] ∧ t.spans = [] ∧ t.snaps = [] ∧
      t.accepted = none ∧ t.resets = 0 ∧ t.peer = z.peer ∧ t.banks = z.banks ∧ t.hostMem = z.hostMem ∧
      t.featuresTried = false ∧ t.nextBank = z.nextBank ∧ t.bank = (if booted then z.nextBank else 1 - z.nextBank)) ∧
    (let y : State := { z with
       incOwn := z.incOwn.set false 256 (!z.incOwn.get false 256)
       agenda := z.agenda ++ (List.range 128).map fun k => .rejoinNotice 256 k }
     exec (.cxlReset false) z = .next y ∧
     exec (.cxlReset true) z = .next { y with
       mem := z.mem.filter fun e => paTier e.1 != 0, tags := z.tags.filter fun e => paTier (e.1 * 8) != 0
       poison := z.poison.filter fun e => paTier (e.1 * 32) != 0 }) ∧
    (∃ t, exec .functionLevelReset z = .next t ∧
      t = { z with adminHead := z.adminTail, mailbox := [], spdm := [], algorithms := [], featuresTried := false, msix := t.msix, agenda := t.agenda, accepted := none
                   slots := z.slots.map fun e => (e.1, { e.2 with mapped := false }) } ∧
      (∀ v, v < 64 → t.msix.get false v = false ∧ t.msix.get false (64 + v) = true) ∧
      (∀ e, e ∈ t.agenda ↔ e ∈ z.agenda ∧ (∀ a b, e ≠ .doorbell a b) ∧ ∀ n, e ≠ .adminDoorbell n))
end

