-- ==== Sys2Proof/Laws/State.lean ====
section
/-! SUPPORT. Field lemmas: what each update of the state, of a core and of a context leaves as it was, one lemma for each field.
All are true by unfolding, so that no later proof unfolds an update. -/

namespace Sys2Proof.Machine

/-! ### State.modCore -/

@[simp] theorem State.modCore_peer (s : State) (c : Nat) (f : Core → Core) : (s.modCore c f).peer = s.peer := rfl
@[simp] theorem State.modCore_cycle (s : State) (c : Nat) (f : Core → Core) : (s.modCore c f).cycle = s.cycle := rfl
@[simp] theorem State.modCore_ticks (s : State) (c : Nat) (f : Core → Core) : (s.modCore c f).ticks = s.ticks := rfl
@[simp] theorem State.modCore_mhz (s : State) (c : Nat) (f : Core → Core) : (s.modCore c f).mhz = s.mhz := rfl
@[simp] theorem State.modCore_courseBars (s : State) (c : Nat) (f : Core → Core) : (s.modCore c f).courseBars = s.courseBars := rfl
@[simp] theorem State.modCore_mem (s : State) (c : Nat) (f : Core → Core) : (s.modCore c f).mem = s.mem := rfl
@[simp] theorem State.modCore_tags (s : State) (c : Nat) (f : Core → Core) : (s.modCore c f).tags = s.tags := rfl
@[simp] theorem State.modCore_poison (s : State) (c : Nat) (f : Core → Core) : (s.modCore c f).poison = s.poison := rfl
@[simp] theorem State.modCore_spans (s : State) (c : Nat) (f : Core → Core) : (s.modCore c f).spans = s.spans := rfl
@[simp] theorem State.modCore_tiles (s : State) (c : Nat) (f : Core → Core) : (s.modCore c f).tiles = s.tiles := rfl
@[simp] theorem State.modCore_oldBlocks (s : State) (c : Nat) (f : Core → Core) : (s.modCore c f).oldBlocks = s.oldBlocks := rfl
@[simp] theorem State.modCore_slips (s : State) (c : Nat) (f : Core → Core) : (s.modCore c f).slips = s.slips := rfl
@[simp] theorem State.modCore_ecc (s : State) (c : Nat) (f : Core → Core) : (s.modCore c f).ecc = s.ecc := rfl
@[simp] theorem State.modCore_dir (s : State) (c : Nat) (f : Core → Core) : (s.modCore c f).dir = s.dir := rfl
@[simp] theorem State.modCore_halves (s : State) (c : Nat) (f : Core → Core) : (s.modCore c f).halves = s.halves := rfl
@[simp] theorem State.modCore_incOwn (s : State) (c : Nat) (f : Core → Core) : (s.modCore c f).incOwn = s.incOwn := rfl
@[simp] theorem State.modCore_incHome (s : State) (c : Nat) (f : Core → Core) : (s.modCore c f).incHome = s.incHome := rfl
@[simp] theorem State.modCore_snaps (s : State) (c : Nat) (f : Core → Core) : (s.modCore c f).snaps = s.snaps := rfl
@[simp] theorem State.modCore_snapGen (s : State) (c : Nat) (f : Core → Core) : (s.modCore c f).snapGen = s.snapGen := rfl
@[simp] theorem State.modCore_shadows (s : State) (c : Nat) (f : Core → Core) : (s.modCore c f).shadows = s.shadows := rfl
@[simp] theorem State.modCore_homeWait (s : State) (c : Nat) (f : Core → Core) : (s.modCore c f).homeWait = s.homeWait := rfl
@[simp] theorem State.modCore_homeServes (s : State) (c : Nat) (f : Core → Core) : (s.modCore c f).homeServes = s.homeServes := rfl
@[simp] theorem State.modCore_reserves (s : State) (c : Nat) (f : Core → Core) : (s.modCore c f).reserves = s.reserves := rfl
@[simp] theorem State.modCore_refillAsked (s : State) (c : Nat) (f : Core → Core) : (s.modCore c f).refillAsked = s.refillAsked := rfl
@[simp] theorem State.modCore_refillHeld (s : State) (c : Nat) (f : Core → Core) : (s.modCore c f).refillHeld = s.refillHeld := rfl
@[simp] theorem State.modCore_scaleUses (s : State) (c : Nat) (f : Core → Core) : (s.modCore c f).scaleUses = s.scaleUses := rfl
@[simp] theorem State.modCore_entryAge (s : State) (c : Nat) (f : Core → Core) : (s.modCore c f).entryAge = s.entryAge := rfl
@[simp] theorem State.modCore_leasemax (s : State) (c : Nat) (f : Core → Core) : (s.modCore c f).leasemax = s.leasemax := rfl
@[simp] theorem State.modCore_fwLen (s : State) (c : Nat) (f : Core → Core) : (s.modCore c f).fwLen = s.fwLen := rfl
@[simp] theorem State.modCore_fwEn (s : State) (c : Nat) (f : Core → Core) : (s.modCore c f).fwEn = s.fwEn := rfl
@[simp] theorem State.modCore_fwShare (s : State) (c : Nat) (f : Core → Core) : (s.modCore c f).fwShare = s.fwShare := rfl
@[simp] theorem State.modCore_slots (s : State) (c : Nat) (f : Core → Core) : (s.modCore c f).slots = s.slots := rfl
@[simp] theorem State.modCore_partition (s : State) (c : Nat) (f : Core → Core) : (s.modCore c f).partition = s.partition := rfl
@[simp] theorem State.modCore_exports (s : State) (c : Nat) (f : Core → Core) : (s.modCore c f).exports = s.exports := rfl
@[simp] theorem State.modCore_cabling (s : State) (c : Nat) (f : Core → Core) : (s.modCore c f).cabling = s.cabling := rfl
@[simp] theorem State.modCore_population (s : State) (c : Nat) (f : Core → Core) : (s.modCore c f).population = s.population := rfl
@[simp] theorem State.modCore_disabledPeers (s : State) (c : Nat) (f : Core → Core) : (s.modCore c f).disabledPeers = s.disabledPeers := rfl
@[simp] theorem State.modCore_disabledCores (s : State) (c : Nat) (f : Core → Core) : (s.modCore c f).disabledCores = s.disabledCores := rfl
@[simp] theorem State.modCore_resTail (s : State) (c : Nat) (f : Core → Core) : (s.modCore c f).resTail = s.resTail := rfl
@[simp] theorem State.modCore_resHead (s : State) (c : Nat) (f : Core → Core) : (s.modCore c f).resHead = s.resHead := rfl
@[simp] theorem State.modCore_resRing (s : State) (c : Nat) (f : Core → Core) : (s.modCore c f).resRing = s.resRing := rfl
@[simp] theorem State.modCore_resHeld (s : State) (c : Nat) (f : Core → Core) : (s.modCore c f).resHeld = s.resHeld := rfl
@[simp] theorem State.modCore_launches (s : State) (c : Nat) (f : Core → Core) : (s.modCore c f).launches = s.launches := rfl
@[simp] theorem State.modCore_nextLaunch (s : State) (c : Nat) (f : Core → Core) : (s.modCore c f).nextLaunch = s.nextLaunch := rfl
@[simp] theorem State.modCore_slotTurn (s : State) (c : Nat) (f : Core → Core) : (s.modCore c f).slotTurn = s.slotTurn := rfl
@[simp] theorem State.modCore_frontAsked (s : State) (c : Nat) (f : Core → Core) : (s.modCore c f).frontAsked = s.frontAsked := rfl
@[simp] theorem State.modCore_frontGot (s : State) (c : Nat) (f : Core → Core) : (s.modCore c f).frontGot = s.frontGot := rfl
@[simp] theorem State.modCore_agree (s : State) (c : Nat) (f : Core → Core) : (s.modCore c f).agree = s.agree := rfl
@[simp] theorem State.modCore_heard (s : State) (c : Nat) (f : Core → Core) : (s.modCore c f).heard = s.heard := rfl
@[simp] theorem State.modCore_links (s : State) (c : Nat) (f : Core → Core) : (s.modCore c f).links = s.links := rfl
@[simp] theorem State.modCore_timeLocked (s : State) (c : Nat) (f : Core → Core) : (s.modCore c f).timeLocked = s.timeLocked := rfl
@[simp] theorem State.modCore_timeJoined (s : State) (c : Nat) (f : Core → Core) : (s.modCore c f).timeJoined = s.timeJoined := rfl
@[simp] theorem State.modCore_timeOffset (s : State) (c : Nat) (f : Core → Core) : (s.modCore c f).timeOffset = s.timeOffset := rfl
@[simp] theorem State.modCore_offered (s : State) (c : Nat) (f : Core → Core) : (s.modCore c f).offered = s.offered := rfl
@[simp] theorem State.modCore_accepted (s : State) (c : Nat) (f : Core → Core) : (s.modCore c f).accepted = s.accepted := rfl
@[simp] theorem State.modCore_featuresTried (s : State) (c : Nat) (f : Core → Core) : (s.modCore c f).featuresTried = s.featuresTried := rfl
@[simp] theorem State.modCore_adminBase (s : State) (c : Nat) (f : Core → Core) : (s.modCore c f).adminBase = s.adminBase := rfl
@[simp] theorem State.modCore_adminTail (s : State) (c : Nat) (f : Core → Core) : (s.modCore c f).adminTail = s.adminTail := rfl
@[simp] theorem State.modCore_adminHead (s : State) (c : Nat) (f : Core → Core) : (s.modCore c f).adminHead = s.adminHead := rfl
@[simp] theorem State.modCore_completions (s : State) (c : Nat) (f : Core → Core) : (s.modCore c f).completions = s.completions := rfl
@[simp] theorem State.modCore_msix (s : State) (c : Nat) (f : Core → Core) : (s.modCore c f).msix = s.msix := rfl
@[simp] theorem State.modCore_powerCap (s : State) (c : Nat) (f : Core → Core) : (s.modCore c f).powerCap = s.powerCap := rfl
@[simp] theorem State.modCore_overCap (s : State) (c : Nat) (f : Core → Core) : (s.modCore c f).overCap = s.overCap := rfl
@[simp] theorem State.modCore_banks (s : State) (c : Nat) (f : Core → Core) : (s.modCore c f).banks = s.banks := rfl
@[simp] theorem State.modCore_bank (s : State) (c : Nat) (f : Core → Core) : (s.modCore c f).bank = s.bank := rfl
@[simp] theorem State.modCore_nextBank (s : State) (c : Nat) (f : Core → Core) : (s.modCore c f).nextBank = s.nextBank := rfl
@[simp] theorem State.modCore_fusedRollback (s : State) (c : Nat) (f : Core → Core) : (s.modCore c f).fusedRollback = s.fusedRollback := rfl
@[simp] theorem State.modCore_resets (s : State) (c : Nat) (f : Core → Core) : (s.modCore c f).resets = s.resets := rfl
@[simp] theorem State.modCore_refusedFlags (s : State) (c : Nat) (f : Core → Core) : (s.modCore c f).refusedFlags = s.refusedFlags := rfl
@[simp] theorem State.modCore_skippedRecords (s : State) (c : Nat) (f : Core → Core) : (s.modCore c f).skippedRecords = s.skippedRecords := rfl
@[simp] theorem State.modCore_doubleFaults (s : State) (c : Nat) (f : Core → Core) : (s.modCore c f).doubleFaults = s.doubleFaults := rfl
@[simp] theorem State.modCore_badDoorbells (s : State) (c : Nat) (f : Core → Core) : (s.modCore c f).badDoorbells = s.badDoorbells := rfl
@[simp] theorem State.modCore_hostMem (s : State) (c : Nat) (f : Core → Core) : (s.modCore c f).hostMem = s.hostMem := rfl
@[simp] theorem State.modCore_mailbox (s : State) (c : Nat) (f : Core → Core) : (s.modCore c f).mailbox = s.mailbox := rfl
@[simp] theorem State.modCore_spdm (s : State) (c : Nat) (f : Core → Core) : (s.modCore c f).spdm = s.spdm := rfl
@[simp] theorem State.modCore_algorithms (s : State) (c : Nat) (f : Core → Core) : (s.modCore c f).algorithms = s.algorithms := rfl
@[simp] theorem State.modCore_combined (s : State) (c : Nat) (f : Core → Core) : (s.modCore c f).combined = s.combined := rfl
@[simp] theorem State.modCore_outbox (s : State) (c : Nat) (f : Core → Core) : (s.modCore c f).outbox = s.outbox := rfl
@[simp] theorem State.modCore_routed (s : State) (c : Nat) (f : Core → Core) : (s.modCore c f).routed = s.routed := rfl
@[simp] theorem State.modCore_turn (s : State) (c : Nat) (f : Core → Core) : (s.modCore c f).turn = s.turn := rfl
@[simp] theorem State.modCore_eventNext (s : State) (c : Nat) (f : Core → Core) : (s.modCore c f).eventNext = s.eventNext := rfl
@[simp] theorem State.modCore_iss (s : State) (c : Nat) (f : Core → Core) : (s.modCore c f).iss = s.iss := rfl
@[simp] theorem State.modCore_agenda (s : State) (c : Nat) (f : Core → Core) : (s.modCore c f).agenda = s.agenda := rfl
@[simp] theorem State.modCore_freeUse (s : State) (c : Nat) (f : Core → Core) : (s.modCore c f).freeUse = s.freeUse := rfl

/-! ### State.modCtx -/

@[simp] theorem State.modCtx_peer (s : State) (c x : Nat) (f : Ctx → Ctx) : (s.modCtx c x f).peer = s.peer := rfl
@[simp] theorem State.modCtx_cycle (s : State) (c x : Nat) (f : Ctx → Ctx) : (s.modCtx c x f).cycle = s.cycle := rfl
@[simp] theorem State.modCtx_ticks (s : State) (c x : Nat) (f : Ctx → Ctx) : (s.modCtx c x f).ticks = s.ticks := rfl
@[simp] theorem State.modCtx_mhz (s : State) (c x : Nat) (f : Ctx → Ctx) : (s.modCtx c x f).mhz = s.mhz := rfl
@[simp] theorem State.modCtx_courseBars (s : State) (c x : Nat) (f : Ctx → Ctx) : (s.modCtx c x f).courseBars = s.courseBars := rfl
@[simp] theorem State.modCtx_mem (s : State) (c x : Nat) (f : Ctx → Ctx) : (s.modCtx c x f).mem = s.mem := rfl
@[simp] theorem State.modCtx_tags (s : State) (c x : Nat) (f : Ctx → Ctx) : (s.modCtx c x f).tags = s.tags := rfl
@[simp] theorem State.modCtx_poison (s : State) (c x : Nat) (f : Ctx → Ctx) : (s.modCtx c x f).poison = s.poison := rfl
@[simp] theorem State.modCtx_spans (s : State) (c x : Nat) (f : Ctx → Ctx) : (s.modCtx c x f).spans = s.spans := rfl
@[simp] theorem State.modCtx_tiles (s : State) (c x : Nat) (f : Ctx → Ctx) : (s.modCtx c x f).tiles = s.tiles := rfl
@[simp] theorem State.modCtx_oldBlocks (s : State) (c x : Nat) (f : Ctx → Ctx) : (s.modCtx c x f).oldBlocks = s.oldBlocks := rfl
@[simp] theorem State.modCtx_slips (s : State) (c x : Nat) (f : Ctx → Ctx) : (s.modCtx c x f).slips = s.slips := rfl
@[simp] theorem State.modCtx_ecc (s : State) (c x : Nat) (f : Ctx → Ctx) : (s.modCtx c x f).ecc = s.ecc := rfl
@[simp] theorem State.modCtx_dir (s : State) (c x : Nat) (f : Ctx → Ctx) : (s.modCtx c x f).dir = s.dir := rfl
@[simp] theorem State.modCtx_halves (s : State) (c x : Nat) (f : Ctx → Ctx) : (s.modCtx c x f).halves = s.halves := rfl
@[simp] theorem State.modCtx_incOwn (s : State) (c x : Nat) (f : Ctx → Ctx) : (s.modCtx c x f).incOwn = s.incOwn := rfl
@[simp] theorem State.modCtx_incHome (s : State) (c x : Nat) (f : Ctx → Ctx) : (s.modCtx c x f).incHome = s.incHome := rfl
@[simp] theorem State.modCtx_snaps (s : State) (c x : Nat) (f : Ctx → Ctx) : (s.modCtx c x f).snaps = s.snaps := rfl
@[simp] theorem State.modCtx_snapGen (s : State) (c x : Nat) (f : Ctx → Ctx) : (s.modCtx c x f).snapGen = s.snapGen := rfl
@[simp] theorem State.modCtx_shadows (s : State) (c x : Nat) (f : Ctx → Ctx) : (s.modCtx c x f).shadows = s.shadows := rfl
@[simp] theorem State.modCtx_homeWait (s : State) (c x : Nat) (f : Ctx → Ctx) : (s.modCtx c x f).homeWait = s.homeWait := rfl
@[simp] theorem State.modCtx_homeServes (s : State) (c x : Nat) (f : Ctx → Ctx) : (s.modCtx c x f).homeServes = s.homeServes := rfl
@[simp] theorem State.modCtx_reserves (s : State) (c x : Nat) (f : Ctx → Ctx) : (s.modCtx c x f).reserves = s.reserves := rfl
@[simp] theorem State.modCtx_refillAsked (s : State) (c x : Nat) (f : Ctx → Ctx) : (s.modCtx c x f).refillAsked = s.refillAsked := rfl
@[simp] theorem State.modCtx_refillHeld (s : State) (c x : Nat) (f : Ctx → Ctx) : (s.modCtx c x f).refillHeld = s.refillHeld := rfl
@[simp] theorem State.modCtx_scaleUses (s : State) (c x : Nat) (f : Ctx → Ctx) : (s.modCtx c x f).scaleUses = s.scaleUses := rfl
@[simp] theorem State.modCtx_entryAge (s : State) (c x : Nat) (f : Ctx → Ctx) : (s.modCtx c x f).entryAge = s.entryAge := rfl
@[simp] theorem State.modCtx_leasemax (s : State) (c x : Nat) (f : Ctx → Ctx) : (s.modCtx c x f).leasemax = s.leasemax := rfl
@[simp] theorem State.modCtx_fwLen (s : State) (c x : Nat) (f : Ctx → Ctx) : (s.modCtx c x f).fwLen = s.fwLen := rfl
@[simp] theorem State.modCtx_fwEn (s : State) (c x : Nat) (f : Ctx → Ctx) : (s.modCtx c x f).fwEn = s.fwEn := rfl
@[simp] theorem State.modCtx_fwShare (s : State) (c x : Nat) (f : Ctx → Ctx) : (s.modCtx c x f).fwShare = s.fwShare := rfl
@[simp] theorem State.modCtx_slots (s : State) (c x : Nat) (f : Ctx → Ctx) : (s.modCtx c x f).slots = s.slots := rfl
@[simp] theorem State.modCtx_partition (s : State) (c x : Nat) (f : Ctx → Ctx) : (s.modCtx c x f).partition = s.partition := rfl
@[simp] theorem State.modCtx_exports (s : State) (c x : Nat) (f : Ctx → Ctx) : (s.modCtx c x f).exports = s.exports := rfl
@[simp] theorem State.modCtx_cabling (s : State) (c x : Nat) (f : Ctx → Ctx) : (s.modCtx c x f).cabling = s.cabling := rfl
@[simp] theorem State.modCtx_population (s : State) (c x : Nat) (f : Ctx → Ctx) : (s.modCtx c x f).population = s.population := rfl
@[simp] theorem State.modCtx_disabledPeers (s : State) (c x : Nat) (f : Ctx → Ctx) : (s.modCtx c x f).disabledPeers = s.disabledPeers := rfl
@[simp] theorem State.modCtx_disabledCores (s : State) (c x : Nat) (f : Ctx → Ctx) : (s.modCtx c x f).disabledCores = s.disabledCores := rfl
@[simp] theorem State.modCtx_resTail (s : State) (c x : Nat) (f : Ctx → Ctx) : (s.modCtx c x f).resTail = s.resTail := rfl
@[simp] theorem State.modCtx_resHead (s : State) (c x : Nat) (f : Ctx → Ctx) : (s.modCtx c x f).resHead = s.resHead := rfl
@[simp] theorem State.modCtx_resRing (s : State) (c x : Nat) (f : Ctx → Ctx) : (s.modCtx c x f).resRing = s.resRing := rfl
@[simp] theorem State.modCtx_resHeld (s : State) (c x : Nat) (f : Ctx → Ctx) : (s.modCtx c x f).resHeld = s.resHeld := rfl
@[simp] theorem State.modCtx_launches (s : State) (c x : Nat) (f : Ctx → Ctx) : (s.modCtx c x f).launches = s.launches := rfl
@[simp] theorem State.modCtx_nextLaunch (s : State) (c x : Nat) (f : Ctx → Ctx) : (s.modCtx c x f).nextLaunch = s.nextLaunch := rfl
@[simp] theorem State.modCtx_slotTurn (s : State) (c x : Nat) (f : Ctx → Ctx) : (s.modCtx c x f).slotTurn = s.slotTurn := rfl
@[simp] theorem State.modCtx_frontAsked (s : State) (c x : Nat) (f : Ctx → Ctx) : (s.modCtx c x f).frontAsked = s.frontAsked := rfl
@[simp] theorem State.modCtx_frontGot (s : State) (c x : Nat) (f : Ctx → Ctx) : (s.modCtx c x f).frontGot = s.frontGot := rfl
@[simp] theorem State.modCtx_agree (s : State) (c x : Nat) (f : Ctx → Ctx) : (s.modCtx c x f).agree = s.agree := rfl
@[simp] theorem State.modCtx_heard (s : State) (c x : Nat) (f : Ctx → Ctx) : (s.modCtx c x f).heard = s.heard := rfl
@[simp] theorem State.modCtx_links (s : State) (c x : Nat) (f : Ctx → Ctx) : (s.modCtx c x f).links = s.links := rfl
@[simp] theorem State.modCtx_timeLocked (s : State) (c x : Nat) (f : Ctx → Ctx) : (s.modCtx c x f).timeLocked = s.timeLocked := rfl
@[simp] theorem State.modCtx_timeJoined (s : State) (c x : Nat) (f : Ctx → Ctx) : (s.modCtx c x f).timeJoined = s.timeJoined := rfl
@[simp] theorem State.modCtx_timeOffset (s : State) (c x : Nat) (f : Ctx → Ctx) : (s.modCtx c x f).timeOffset = s.timeOffset := rfl
@[simp] theorem State.modCtx_offered (s : State) (c x : Nat) (f : Ctx → Ctx) : (s.modCtx c x f).offered = s.offered := rfl
@[simp] theorem State.modCtx_accepted (s : State) (c x : Nat) (f : Ctx → Ctx) : (s.modCtx c x f).accepted = s.accepted := rfl
@[simp] theorem State.modCtx_featuresTried (s : State) (c x : Nat) (f : Ctx → Ctx) : (s.modCtx c x f).featuresTried = s.featuresTried := rfl
@[simp] theorem State.modCtx_adminBase (s : State) (c x : Nat) (f : Ctx → Ctx) : (s.modCtx c x f).adminBase = s.adminBase := rfl
@[simp] theorem State.modCtx_adminTail (s : State) (c x : Nat) (f : Ctx → Ctx) : (s.modCtx c x f).adminTail = s.adminTail := rfl
@[simp] theorem State.modCtx_adminHead (s : State) (c x : Nat) (f : Ctx → Ctx) : (s.modCtx c x f).adminHead = s.adminHead := rfl
@[simp] theorem State.modCtx_completions (s : State) (c x : Nat) (f : Ctx → Ctx) : (s.modCtx c x f).completions = s.completions := rfl
@[simp] theorem State.modCtx_msix (s : State) (c x : Nat) (f : Ctx → Ctx) : (s.modCtx c x f).msix = s.msix := rfl
@[simp] theorem State.modCtx_powerCap (s : State) (c x : Nat) (f : Ctx → Ctx) : (s.modCtx c x f).powerCap = s.powerCap := rfl
@[simp] theorem State.modCtx_overCap (s : State) (c x : Nat) (f : Ctx → Ctx) : (s.modCtx c x f).overCap = s.overCap := rfl
@[simp] theorem State.modCtx_banks (s : State) (c x : Nat) (f : Ctx → Ctx) : (s.modCtx c x f).banks = s.banks := rfl
@[simp] theorem State.modCtx_bank (s : State) (c x : Nat) (f : Ctx → Ctx) : (s.modCtx c x f).bank = s.bank := rfl
@[simp] theorem State.modCtx_nextBank (s : State) (c x : Nat) (f : Ctx → Ctx) : (s.modCtx c x f).nextBank = s.nextBank := rfl
@[simp] theorem State.modCtx_fusedRollback (s : State) (c x : Nat) (f : Ctx → Ctx) : (s.modCtx c x f).fusedRollback = s.fusedRollback := rfl
@[simp] theorem State.modCtx_resets (s : State) (c x : Nat) (f : Ctx → Ctx) : (s.modCtx c x f).resets = s.resets := rfl
@[simp] theorem State.modCtx_refusedFlags (s : State) (c x : Nat) (f : Ctx → Ctx) : (s.modCtx c x f).refusedFlags = s.refusedFlags := rfl
@[simp] theorem State.modCtx_skippedRecords (s : State) (c x : Nat) (f : Ctx → Ctx) : (s.modCtx c x f).skippedRecords = s.skippedRecords := rfl
@[simp] theorem State.modCtx_doubleFaults (s : State) (c x : Nat) (f : Ctx → Ctx) : (s.modCtx c x f).doubleFaults = s.doubleFaults := rfl
@[simp] theorem State.modCtx_badDoorbells (s : State) (c x : Nat) (f : Ctx → Ctx) : (s.modCtx c x f).badDoorbells = s.badDoorbells := rfl
@[simp] theorem State.modCtx_hostMem (s : State) (c x : Nat) (f : Ctx → Ctx) : (s.modCtx c x f).hostMem = s.hostMem := rfl
@[simp] theorem State.modCtx_mailbox (s : State) (c x : Nat) (f : Ctx → Ctx) : (s.modCtx c x f).mailbox = s.mailbox := rfl
@[simp] theorem State.modCtx_spdm (s : State) (c x : Nat) (f : Ctx → Ctx) : (s.modCtx c x f).spdm = s.spdm := rfl
@[simp] theorem State.modCtx_algorithms (s : State) (c x : Nat) (f : Ctx → Ctx) : (s.modCtx c x f).algorithms = s.algorithms := rfl
@[simp] theorem State.modCtx_combined (s : State) (c x : Nat) (f : Ctx → Ctx) : (s.modCtx c x f).combined = s.combined := rfl
@[simp] theorem State.modCtx_outbox (s : State) (c x : Nat) (f : Ctx → Ctx) : (s.modCtx c x f).outbox = s.outbox := rfl
@[simp] theorem State.modCtx_routed (s : State) (c x : Nat) (f : Ctx → Ctx) : (s.modCtx c x f).routed = s.routed := rfl
@[simp] theorem State.modCtx_turn (s : State) (c x : Nat) (f : Ctx → Ctx) : (s.modCtx c x f).turn = s.turn := rfl
@[simp] theorem State.modCtx_eventNext (s : State) (c x : Nat) (f : Ctx → Ctx) : (s.modCtx c x f).eventNext = s.eventNext := rfl
@[simp] theorem State.modCtx_iss (s : State) (c x : Nat) (f : Ctx → Ctx) : (s.modCtx c x f).iss = s.iss := rfl
@[simp] theorem State.modCtx_agenda (s : State) (c x : Nat) (f : Ctx → Ctx) : (s.modCtx c x f).agenda = s.agenda := rfl
@[simp] theorem State.modCtx_freeUse (s : State) (c x : Nat) (f : Ctx → Ctx) : (s.modCtx c x f).freeUse = s.freeUse := rfl

/-! ### State.modMyCore -/

@[simp] theorem State.modMyCore_peer (s : State) (f : Core → Core) : (s.modMyCore f).peer = s.peer := rfl
@[simp] theorem State.modMyCore_cycle (s : State) (f : Core → Core) : (s.modMyCore f).cycle = s.cycle := rfl
@[simp] theorem State.modMyCore_ticks (s : State) (f : Core → Core) : (s.modMyCore f).ticks = s.ticks := rfl
@[simp] theorem State.modMyCore_mhz (s : State) (f : Core → Core) : (s.modMyCore f).mhz = s.mhz := rfl
@[simp] theorem State.modMyCore_courseBars (s : State) (f : Core → Core) : (s.modMyCore f).courseBars = s.courseBars := rfl
@[simp] theorem State.modMyCore_mem (s : State) (f : Core → Core) : (s.modMyCore f).mem = s.mem := rfl
@[simp] theorem State.modMyCore_tags (s : State) (f : Core → Core) : (s.modMyCore f).tags = s.tags := rfl
@[simp] theorem State.modMyCore_poison (s : State) (f : Core → Core) : (s.modMyCore f).poison = s.poison := rfl
@[simp] theorem State.modMyCore_spans (s : State) (f : Core → Core) : (s.modMyCore f).spans = s.spans := rfl
@[simp] theorem State.modMyCore_tiles (s : State) (f : Core → Core) : (s.modMyCore f).tiles = s.tiles := rfl
@[simp] theorem State.modMyCore_oldBlocks (s : State) (f : Core → Core) : (s.modMyCore f).oldBlocks = s.oldBlocks := rfl
@[simp] theorem State.modMyCore_slips (s : State) (f : Core → Core) : (s.modMyCore f).slips = s.slips := rfl
@[simp] theorem State.modMyCore_ecc (s : State) (f : Core → Core) : (s.modMyCore f).ecc = s.ecc := rfl
@[simp] theorem State.modMyCore_dir (s : State) (f : Core → Core) : (s.modMyCore f).dir = s.dir := rfl
@[simp] theorem State.modMyCore_halves (s : State) (f : Core → Core) : (s.modMyCore f).halves = s.halves := rfl
@[simp] theorem State.modMyCore_incOwn (s : State) (f : Core → Core) : (s.modMyCore f).incOwn = s.incOwn := rfl
@[simp] theorem State.modMyCore_incHome (s : State) (f : Core → Core) : (s.modMyCore f).incHome = s.incHome := rfl
@[simp] theorem State.modMyCore_snaps (s : State) (f : Core → Core) : (s.modMyCore f).snaps = s.snaps := rfl
@[simp] theorem State.modMyCore_snapGen (s : State) (f : Core → Core) : (s.modMyCore f).snapGen = s.snapGen := rfl
@[simp] theorem State.modMyCore_shadows (s : State) (f : Core → Core) : (s.modMyCore f).shadows = s.shadows := rfl
@[simp] theorem State.modMyCore_homeWait (s : State) (f : Core → Core) : (s.modMyCore f).homeWait = s.homeWait := rfl
@[simp] theorem State.modMyCore_homeServes (s : State) (f : Core → Core) : (s.modMyCore f).homeServes = s.homeServes := rfl
@[simp] theorem State.modMyCore_reserves (s : State) (f : Core → Core) : (s.modMyCore f).reserves = s.reserves := rfl
@[simp] theorem State.modMyCore_refillAsked (s : State) (f : Core → Core) : (s.modMyCore f).refillAsked = s.refillAsked := rfl
@[simp] theorem State.modMyCore_refillHeld (s : State) (f : Core → Core) : (s.modMyCore f).refillHeld = s.refillHeld := rfl
@[simp] theorem State.modMyCore_scaleUses (s : State) (f : Core → Core) : (s.modMyCore f).scaleUses = s.scaleUses := rfl
@[simp] theorem State.modMyCore_entryAge (s : State) (f : Core → Core) : (s.modMyCore f).entryAge = s.entryAge := rfl
@[simp] theorem State.modMyCore_leasemax (s : State) (f : Core → Core) : (s.modMyCore f).leasemax = s.leasemax := rfl
@[simp] theorem State.modMyCore_fwLen (s : State) (f : Core → Core) : (s.modMyCore f).fwLen = s.fwLen := rfl
@[simp] theorem State.modMyCore_fwEn (s : State) (f : Core → Core) : (s.modMyCore f).fwEn = s.fwEn := rfl
@[simp] theorem State.modMyCore_fwShare (s : State) (f : Core → Core) : (s.modMyCore f).fwShare = s.fwShare := rfl
@[simp] theorem State.modMyCore_slots (s : State) (f : Core → Core) : (s.modMyCore f).slots = s.slots := rfl
@[simp] theorem State.modMyCore_partition (s : State) (f : Core → Core) : (s.modMyCore f).partition = s.partition := rfl
@[simp] theorem State.modMyCore_exports (s : State) (f : Core → Core) : (s.modMyCore f).exports = s.exports := rfl
@[simp] theorem State.modMyCore_cabling (s : State) (f : Core → Core) : (s.modMyCore f).cabling = s.cabling := rfl
@[simp] theorem State.modMyCore_population (s : State) (f : Core → Core) : (s.modMyCore f).population = s.population := rfl
@[simp] theorem State.modMyCore_disabledPeers (s : State) (f : Core → Core) : (s.modMyCore f).disabledPeers = s.disabledPeers := rfl
@[simp] theorem State.modMyCore_disabledCores (s : State) (f : Core → Core) : (s.modMyCore f).disabledCores = s.disabledCores := rfl
@[simp] theorem State.modMyCore_resTail (s : State) (f : Core → Core) : (s.modMyCore f).resTail = s.resTail := rfl
@[simp] theorem State.modMyCore_resHead (s : State) (f : Core → Core) : (s.modMyCore f).resHead = s.resHead := rfl
@[simp] theorem State.modMyCore_resRing (s : State) (f : Core → Core) : (s.modMyCore f).resRing = s.resRing := rfl
@[simp] theorem State.modMyCore_resHeld (s : State) (f : Core → Core) : (s.modMyCore f).resHeld = s.resHeld := rfl
@[simp] theorem State.modMyCore_launches (s : State) (f : Core → Core) : (s.modMyCore f).launches = s.launches := rfl
@[simp] theorem State.modMyCore_nextLaunch (s : State) (f : Core → Core) : (s.modMyCore f).nextLaunch = s.nextLaunch := rfl
@[simp] theorem State.modMyCore_slotTurn (s : State) (f : Core → Core) : (s.modMyCore f).slotTurn = s.slotTurn := rfl
@[simp] theorem State.modMyCore_frontAsked (s : State) (f : Core → Core) : (s.modMyCore f).frontAsked = s.frontAsked := rfl
@[simp] theorem State.modMyCore_frontGot (s : State) (f : Core → Core) : (s.modMyCore f).frontGot = s.frontGot := rfl
@[simp] theorem State.modMyCore_agree (s : State) (f : Core → Core) : (s.modMyCore f).agree = s.agree := rfl
@[simp] theorem State.modMyCore_heard (s : State) (f : Core → Core) : (s.modMyCore f).heard = s.heard := rfl
@[simp] theorem State.modMyCore_links (s : State) (f : Core → Core) : (s.modMyCore f).links = s.links := rfl
@[simp] theorem State.modMyCore_timeLocked (s : State) (f : Core → Core) : (s.modMyCore f).timeLocked = s.timeLocked := rfl
@[simp] theorem State.modMyCore_timeJoined (s : State) (f : Core → Core) : (s.modMyCore f).timeJoined = s.timeJoined := rfl
@[simp] theorem State.modMyCore_timeOffset (s : State) (f : Core → Core) : (s.modMyCore f).timeOffset = s.timeOffset := rfl
@[simp] theorem State.modMyCore_offered (s : State) (f : Core → Core) : (s.modMyCore f).offered = s.offered := rfl
@[simp] theorem State.modMyCore_accepted (s : State) (f : Core → Core) : (s.modMyCore f).accepted = s.accepted := rfl
@[simp] theorem State.modMyCore_featuresTried (s : State) (f : Core → Core) : (s.modMyCore f).featuresTried = s.featuresTried := rfl
@[simp] theorem State.modMyCore_adminBase (s : State) (f : Core → Core) : (s.modMyCore f).adminBase = s.adminBase := rfl
@[simp] theorem State.modMyCore_adminTail (s : State) (f : Core → Core) : (s.modMyCore f).adminTail = s.adminTail := rfl
@[simp] theorem State.modMyCore_adminHead (s : State) (f : Core → Core) : (s.modMyCore f).adminHead = s.adminHead := rfl
@[simp] theorem State.modMyCore_completions (s : State) (f : Core → Core) : (s.modMyCore f).completions = s.completions := rfl
@[simp] theorem State.modMyCore_msix (s : State) (f : Core → Core) : (s.modMyCore f).msix = s.msix := rfl
@[simp] theorem State.modMyCore_powerCap (s : State) (f : Core → Core) : (s.modMyCore f).powerCap = s.powerCap := rfl
@[simp] theorem State.modMyCore_overCap (s : State) (f : Core → Core) : (s.modMyCore f).overCap = s.overCap := rfl
@[simp] theorem State.modMyCore_banks (s : State) (f : Core → Core) : (s.modMyCore f).banks = s.banks := rfl
@[simp] theorem State.modMyCore_bank (s : State) (f : Core → Core) : (s.modMyCore f).bank = s.bank := rfl
@[simp] theorem State.modMyCore_nextBank (s : State) (f : Core → Core) : (s.modMyCore f).nextBank = s.nextBank := rfl
@[simp] theorem State.modMyCore_fusedRollback (s : State) (f : Core → Core) : (s.modMyCore f).fusedRollback = s.fusedRollback := rfl
@[simp] theorem State.modMyCore_resets (s : State) (f : Core → Core) : (s.modMyCore f).resets = s.resets := rfl
@[simp] theorem State.modMyCore_refusedFlags (s : State) (f : Core → Core) : (s.modMyCore f).refusedFlags = s.refusedFlags := rfl
@[simp] theorem State.modMyCore_skippedRecords (s : State) (f : Core → Core) : (s.modMyCore f).skippedRecords = s.skippedRecords := rfl
@[simp] theorem State.modMyCore_doubleFaults (s : State) (f : Core → Core) : (s.modMyCore f).doubleFaults = s.doubleFaults := rfl
@[simp] theorem State.modMyCore_badDoorbells (s : State) (f : Core → Core) : (s.modMyCore f).badDoorbells = s.badDoorbells := rfl
@[simp] theorem State.modMyCore_hostMem (s : State) (f : Core → Core) : (s.modMyCore f).hostMem = s.hostMem := rfl
@[simp] theorem State.modMyCore_mailbox (s : State) (f : Core → Core) : (s.modMyCore f).mailbox = s.mailbox := rfl
@[simp] theorem State.modMyCore_spdm (s : State) (f : Core → Core) : (s.modMyCore f).spdm = s.spdm := rfl
@[simp] theorem State.modMyCore_algorithms (s : State) (f : Core → Core) : (s.modMyCore f).algorithms = s.algorithms := rfl
@[simp] theorem State.modMyCore_combined (s : State) (f : Core → Core) : (s.modMyCore f).combined = s.combined := rfl
@[simp] theorem State.modMyCore_outbox (s : State) (f : Core → Core) : (s.modMyCore f).outbox = s.outbox := rfl
@[simp] theorem State.modMyCore_routed (s : State) (f : Core → Core) : (s.modMyCore f).routed = s.routed := rfl
@[simp] theorem State.modMyCore_turn (s : State) (f : Core → Core) : (s.modMyCore f).turn = s.turn := rfl
@[simp] theorem State.modMyCore_eventNext (s : State) (f : Core → Core) : (s.modMyCore f).eventNext = s.eventNext := rfl
@[simp] theorem State.modMyCore_iss (s : State) (f : Core → Core) : (s.modMyCore f).iss = s.iss := rfl
@[simp] theorem State.modMyCore_agenda (s : State) (f : Core → Core) : (s.modMyCore f).agenda = s.agenda := rfl
@[simp] theorem State.modMyCore_freeUse (s : State) (f : Core → Core) : (s.modMyCore f).freeUse = s.freeUse := rfl

/-! ### State.modMe -/

@[simp] theorem State.modMe_peer (s : State) (f : Ctx → Ctx) : (s.modMe f).peer = s.peer := rfl
@[simp] theorem State.modMe_cycle (s : State) (f : Ctx → Ctx) : (s.modMe f).cycle = s.cycle := rfl
@[simp] theorem State.modMe_ticks (s : State) (f : Ctx → Ctx) : (s.modMe f).ticks = s.ticks := rfl
@[simp] theorem State.modMe_mhz (s : State) (f : Ctx → Ctx) : (s.modMe f).mhz = s.mhz := rfl
@[simp] theorem State.modMe_courseBars (s : State) (f : Ctx → Ctx) : (s.modMe f).courseBars = s.courseBars := rfl
@[simp] theorem State.modMe_mem (s : State) (f : Ctx → Ctx) : (s.modMe f).mem = s.mem := rfl
@[simp] theorem State.modMe_tags (s : State) (f : Ctx → Ctx) : (s.modMe f).tags = s.tags := rfl
@[simp] theorem State.modMe_poison (s : State) (f : Ctx → Ctx) : (s.modMe f).poison = s.poison := rfl
@[simp] theorem State.modMe_spans (s : State) (f : Ctx → Ctx) : (s.modMe f).spans = s.spans := rfl
@[simp] theorem State.modMe_tiles (s : State) (f : Ctx → Ctx) : (s.modMe f).tiles = s.tiles := rfl
@[simp] theorem State.modMe_oldBlocks (s : State) (f : Ctx → Ctx) : (s.modMe f).oldBlocks = s.oldBlocks := rfl
@[simp] theorem State.modMe_slips (s : State) (f : Ctx → Ctx) : (s.modMe f).slips = s.slips := rfl
@[simp] theorem State.modMe_ecc (s : State) (f : Ctx → Ctx) : (s.modMe f).ecc = s.ecc := rfl
@[simp] theorem State.modMe_dir (s : State) (f : Ctx → Ctx) : (s.modMe f).dir = s.dir := rfl
@[simp] theorem State.modMe_halves (s : State) (f : Ctx → Ctx) : (s.modMe f).halves = s.halves := rfl
@[simp] theorem State.modMe_incOwn (s : State) (f : Ctx → Ctx) : (s.modMe f).incOwn = s.incOwn := rfl
@[simp] theorem State.modMe_incHome (s : State) (f : Ctx → Ctx) : (s.modMe f).incHome = s.incHome := rfl
@[simp] theorem State.modMe_snaps (s : State) (f : Ctx → Ctx) : (s.modMe f).snaps = s.snaps := rfl
@[simp] theorem State.modMe_snapGen (s : State) (f : Ctx → Ctx) : (s.modMe f).snapGen = s.snapGen := rfl
@[simp] theorem State.modMe_shadows (s : State) (f : Ctx → Ctx) : (s.modMe f).shadows = s.shadows := rfl
@[simp] theorem State.modMe_homeWait (s : State) (f : Ctx → Ctx) : (s.modMe f).homeWait = s.homeWait := rfl
@[simp] theorem State.modMe_homeServes (s : State) (f : Ctx → Ctx) : (s.modMe f).homeServes = s.homeServes := rfl
@[simp] theorem State.modMe_reserves (s : State) (f : Ctx → Ctx) : (s.modMe f).reserves = s.reserves := rfl
@[simp] theorem State.modMe_refillAsked (s : State) (f : Ctx → Ctx) : (s.modMe f).refillAsked = s.refillAsked := rfl
@[simp] theorem State.modMe_refillHeld (s : State) (f : Ctx → Ctx) : (s.modMe f).refillHeld = s.refillHeld := rfl
@[simp] theorem State.modMe_scaleUses (s : State) (f : Ctx → Ctx) : (s.modMe f).scaleUses = s.scaleUses := rfl
@[simp] theorem State.modMe_entryAge (s : State) (f : Ctx → Ctx) : (s.modMe f).entryAge = s.entryAge := rfl
@[simp] theorem State.modMe_leasemax (s : State) (f : Ctx → Ctx) : (s.modMe f).leasemax = s.leasemax := rfl
@[simp] theorem State.modMe_fwLen (s : State) (f : Ctx → Ctx) : (s.modMe f).fwLen = s.fwLen := rfl
@[simp] theorem State.modMe_fwEn (s : State) (f : Ctx → Ctx) : (s.modMe f).fwEn = s.fwEn := rfl
@[simp] theorem State.modMe_fwShare (s : State) (f : Ctx → Ctx) : (s.modMe f).fwShare = s.fwShare := rfl
@[simp] theorem State.modMe_slots (s : State) (f : Ctx → Ctx) : (s.modMe f).slots = s.slots := rfl
@[simp] theorem State.modMe_partition (s : State) (f : Ctx → Ctx) : (s.modMe f).partition = s.partition := rfl
@[simp] theorem State.modMe_exports (s : State) (f : Ctx → Ctx) : (s.modMe f).exports = s.exports := rfl
@[simp] theorem State.modMe_cabling (s : State) (f : Ctx → Ctx) : (s.modMe f).cabling = s.cabling := rfl
@[simp] theorem State.modMe_population (s : State) (f : Ctx → Ctx) : (s.modMe f).population = s.population := rfl
@[simp] theorem State.modMe_disabledPeers (s : State) (f : Ctx → Ctx) : (s.modMe f).disabledPeers = s.disabledPeers := rfl
@[simp] theorem State.modMe_disabledCores (s : State) (f : Ctx → Ctx) : (s.modMe f).disabledCores = s.disabledCores := rfl
@[simp] theorem State.modMe_resTail (s : State) (f : Ctx → Ctx) : (s.modMe f).resTail = s.resTail := rfl
@[simp] theorem State.modMe_resHead (s : State) (f : Ctx → Ctx) : (s.modMe f).resHead = s.resHead := rfl
@[simp] theorem State.modMe_resRing (s : State) (f : Ctx → Ctx) : (s.modMe f).resRing = s.resRing := rfl
@[simp] theorem State.modMe_resHeld (s : State) (f : Ctx → Ctx) : (s.modMe f).resHeld = s.resHeld := rfl
@[simp] theorem State.modMe_launches (s : State) (f : Ctx → Ctx) : (s.modMe f).launches = s.launches := rfl
@[simp] theorem State.modMe_nextLaunch (s : State) (f : Ctx → Ctx) : (s.modMe f).nextLaunch = s.nextLaunch := rfl
@[simp] theorem State.modMe_slotTurn (s : State) (f : Ctx → Ctx) : (s.modMe f).slotTurn = s.slotTurn := rfl
@[simp] theorem State.modMe_frontAsked (s : State) (f : Ctx → Ctx) : (s.modMe f).frontAsked = s.frontAsked := rfl
@[simp] theorem State.modMe_frontGot (s : State) (f : Ctx → Ctx) : (s.modMe f).frontGot = s.frontGot := rfl
@[simp] theorem State.modMe_agree (s : State) (f : Ctx → Ctx) : (s.modMe f).agree = s.agree := rfl
@[simp] theorem State.modMe_heard (s : State) (f : Ctx → Ctx) : (s.modMe f).heard = s.heard := rfl
@[simp] theorem State.modMe_links (s : State) (f : Ctx → Ctx) : (s.modMe f).links = s.links := rfl
@[simp] theorem State.modMe_timeLocked (s : State) (f : Ctx → Ctx) : (s.modMe f).timeLocked = s.timeLocked := rfl
@[simp] theorem State.modMe_timeJoined (s : State) (f : Ctx → Ctx) : (s.modMe f).timeJoined = s.timeJoined := rfl
@[simp] theorem State.modMe_timeOffset (s : State) (f : Ctx → Ctx) : (s.modMe f).timeOffset = s.timeOffset := rfl
@[simp] theorem State.modMe_offered (s : State) (f : Ctx → Ctx) : (s.modMe f).offered = s.offered := rfl
@[simp] theorem State.modMe_accepted (s : State) (f : Ctx → Ctx) : (s.modMe f).accepted = s.accepted := rfl
@[simp] theorem State.modMe_featuresTried (s : State) (f : Ctx → Ctx) : (s.modMe f).featuresTried = s.featuresTried := rfl
@[simp] theorem State.modMe_adminBase (s : State) (f : Ctx → Ctx) : (s.modMe f).adminBase = s.adminBase := rfl
@[simp] theorem State.modMe_adminTail (s : State) (f : Ctx → Ctx) : (s.modMe f).adminTail = s.adminTail := rfl
@[simp] theorem State.modMe_adminHead (s : State) (f : Ctx → Ctx) : (s.modMe f).adminHead = s.adminHead := rfl
@[simp] theorem State.modMe_completions (s : State) (f : Ctx → Ctx) : (s.modMe f).completions = s.completions := rfl
@[simp] theorem State.modMe_msix (s : State) (f : Ctx → Ctx) : (s.modMe f).msix = s.msix := rfl
@[simp] theorem State.modMe_powerCap (s : State) (f : Ctx → Ctx) : (s.modMe f).powerCap = s.powerCap := rfl
@[simp] theorem State.modMe_overCap (s : State) (f : Ctx → Ctx) : (s.modMe f).overCap = s.overCap := rfl
@[simp] theorem State.modMe_banks (s : State) (f : Ctx → Ctx) : (s.modMe f).banks = s.banks := rfl
@[simp] theorem State.modMe_bank (s : State) (f : Ctx → Ctx) : (s.modMe f).bank = s.bank := rfl
@[simp] theorem State.modMe_nextBank (s : State) (f : Ctx → Ctx) : (s.modMe f).nextBank = s.nextBank := rfl
@[simp] theorem State.modMe_fusedRollback (s : State) (f : Ctx → Ctx) : (s.modMe f).fusedRollback = s.fusedRollback := rfl
@[simp] theorem State.modMe_resets (s : State) (f : Ctx → Ctx) : (s.modMe f).resets = s.resets := rfl
@[simp] theorem State.modMe_refusedFlags (s : State) (f : Ctx → Ctx) : (s.modMe f).refusedFlags = s.refusedFlags := rfl
@[simp] theorem State.modMe_skippedRecords (s : State) (f : Ctx → Ctx) : (s.modMe f).skippedRecords = s.skippedRecords := rfl
@[simp] theorem State.modMe_doubleFaults (s : State) (f : Ctx → Ctx) : (s.modMe f).doubleFaults = s.doubleFaults := rfl
@[simp] theorem State.modMe_badDoorbells (s : State) (f : Ctx → Ctx) : (s.modMe f).badDoorbells = s.badDoorbells := rfl
@[simp] theorem State.modMe_hostMem (s : State) (f : Ctx → Ctx) : (s.modMe f).hostMem = s.hostMem := rfl
@[simp] theorem State.modMe_mailbox (s : State) (f : Ctx → Ctx) : (s.modMe f).mailbox = s.mailbox := rfl
@[simp] theorem State.modMe_spdm (s : State) (f : Ctx → Ctx) : (s.modMe f).spdm = s.spdm := rfl
@[simp] theorem State.modMe_algorithms (s : State) (f : Ctx → Ctx) : (s.modMe f).algorithms = s.algorithms := rfl
@[simp] theorem State.modMe_combined (s : State) (f : Ctx → Ctx) : (s.modMe f).combined = s.combined := rfl
@[simp] theorem State.modMe_outbox (s : State) (f : Ctx → Ctx) : (s.modMe f).outbox = s.outbox := rfl
@[simp] theorem State.modMe_routed (s : State) (f : Ctx → Ctx) : (s.modMe f).routed = s.routed := rfl
@[simp] theorem State.modMe_turn (s : State) (f : Ctx → Ctx) : (s.modMe f).turn = s.turn := rfl
@[simp] theorem State.modMe_eventNext (s : State) (f : Ctx → Ctx) : (s.modMe f).eventNext = s.eventNext := rfl
@[simp] theorem State.modMe_iss (s : State) (f : Ctx → Ctx) : (s.modMe f).iss = s.iss := rfl
@[simp] theorem State.modMe_agenda (s : State) (f : Ctx → Ctx) : (s.modMe f).agenda = s.agenda := rfl
@[simp] theorem State.modMe_freeUse (s : State) (f : Ctx → Ctx) : (s.modMe f).freeUse = s.freeUse := rfl

/-! ### State.post -/

@[simp] theorem State.post_peer (s : State) (es : List Instr) : (s.post es).peer = s.peer := rfl
@[simp] theorem State.post_cycle (s : State) (es : List Instr) : (s.post es).cycle = s.cycle := rfl
@[simp] theorem State.post_ticks (s : State) (es : List Instr) : (s.post es).ticks = s.ticks := rfl
@[simp] theorem State.post_mhz (s : State) (es : List Instr) : (s.post es).mhz = s.mhz := rfl
@[simp] theorem State.post_cores (s : State) (es : List Instr) : (s.post es).cores = s.cores := rfl
@[simp] theorem State.post_courseBars (s : State) (es : List Instr) : (s.post es).courseBars = s.courseBars := rfl
@[simp] theorem State.post_mem (s : State) (es : List Instr) : (s.post es).mem = s.mem := rfl
@[simp] theorem State.post_tags (s : State) (es : List Instr) : (s.post es).tags = s.tags := rfl
@[simp] theorem State.post_poison (s : State) (es : List Instr) : (s.post es).poison = s.poison := rfl
@[simp] theorem State.post_spans (s : State) (es : List Instr) : (s.post es).spans = s.spans := rfl
@[simp] theorem State.post_tiles (s : State) (es : List Instr) : (s.post es).tiles = s.tiles := rfl
@[simp] theorem State.post_oldBlocks (s : State) (es : List Instr) : (s.post es).oldBlocks = s.oldBlocks := rfl
@[simp] theorem State.post_slips (s : State) (es : List Instr) : (s.post es).slips = s.slips := rfl
@[simp] theorem State.post_ecc (s : State) (es : List Instr) : (s.post es).ecc = s.ecc := rfl
@[simp] theorem State.post_dir (s : State) (es : List Instr) : (s.post es).dir = s.dir := rfl
@[simp] theorem State.post_halves (s : State) (es : List Instr) : (s.post es).halves = s.halves := rfl
@[simp] theorem State.post_incOwn (s : State) (es : List Instr) : (s.post es).incOwn = s.incOwn := rfl
@[simp] theorem State.post_incHome (s : State) (es : List Instr) : (s.post es).incHome = s.incHome := rfl
@[simp] theorem State.post_snaps (s : State) (es : List Instr) : (s.post es).snaps = s.snaps := rfl
@[simp] theorem State.post_snapGen (s : State) (es : List Instr) : (s.post es).snapGen = s.snapGen := rfl
@[simp] theorem State.post_shadows (s : State) (es : List Instr) : (s.post es).shadows = s.shadows := rfl
@[simp] theorem State.post_homeWait (s : State) (es : List Instr) : (s.post es).homeWait = s.homeWait := rfl
@[simp] theorem State.post_homeServes (s : State) (es : List Instr) : (s.post es).homeServes = s.homeServes := rfl
@[simp] theorem State.post_reserves (s : State) (es : List Instr) : (s.post es).reserves = s.reserves := rfl
@[simp] theorem State.post_refillAsked (s : State) (es : List Instr) : (s.post es).refillAsked = s.refillAsked := rfl
@[simp] theorem State.post_refillHeld (s : State) (es : List Instr) : (s.post es).refillHeld = s.refillHeld := rfl
@[simp] theorem State.post_scaleUses (s : State) (es : List Instr) : (s.post es).scaleUses = s.scaleUses := rfl
@[simp] theorem State.post_entryAge (s : State) (es : List Instr) : (s.post es).entryAge = s.entryAge := rfl
@[simp] theorem State.post_leasemax (s : State) (es : List Instr) : (s.post es).leasemax = s.leasemax := rfl
@[simp] theorem State.post_fwLen (s : State) (es : List Instr) : (s.post es).fwLen = s.fwLen := rfl
@[simp] theorem State.post_fwEn (s : State) (es : List Instr) : (s.post es).fwEn = s.fwEn := rfl
@[simp] theorem State.post_fwShare (s : State) (es : List Instr) : (s.post es).fwShare = s.fwShare := rfl
@[simp] theorem State.post_slots (s : State) (es : List Instr) : (s.post es).slots = s.slots := rfl
@[simp] theorem State.post_partition (s : State) (es : List Instr) : (s.post es).partition = s.partition := rfl
@[simp] theorem State.post_exports (s : State) (es : List Instr) : (s.post es).exports = s.exports := rfl
@[simp] theorem State.post_cabling (s : State) (es : List Instr) : (s.post es).cabling = s.cabling := rfl
@[simp] theorem State.post_population (s : State) (es : List Instr) : (s.post es).population = s.population := rfl
@[simp] theorem State.post_disabledPeers (s : State) (es : List Instr) : (s.post es).disabledPeers = s.disabledPeers := rfl
@[simp] theorem State.post_disabledCores (s : State) (es : List Instr) : (s.post es).disabledCores = s.disabledCores := rfl
@[simp] theorem State.post_resTail (s : State) (es : List Instr) : (s.post es).resTail = s.resTail := rfl
@[simp] theorem State.post_resHead (s : State) (es : List Instr) : (s.post es).resHead = s.resHead := rfl
@[simp] theorem State.post_resRing (s : State) (es : List Instr) : (s.post es).resRing = s.resRing := rfl
@[simp] theorem State.post_resHeld (s : State) (es : List Instr) : (s.post es).resHeld = s.resHeld := rfl
@[simp] theorem State.post_launches (s : State) (es : List Instr) : (s.post es).launches = s.launches := rfl
@[simp] theorem State.post_nextLaunch (s : State) (es : List Instr) : (s.post es).nextLaunch = s.nextLaunch := rfl
@[simp] theorem State.post_slotTurn (s : State) (es : List Instr) : (s.post es).slotTurn = s.slotTurn := rfl
@[simp] theorem State.post_frontAsked (s : State) (es : List Instr) : (s.post es).frontAsked = s.frontAsked := rfl
@[simp] theorem State.post_frontGot (s : State) (es : List Instr) : (s.post es).frontGot = s.frontGot := rfl
@[simp] theorem State.post_agree (s : State) (es : List Instr) : (s.post es).agree = s.agree := rfl
@[simp] theorem State.post_heard (s : State) (es : List Instr) : (s.post es).heard = s.heard := rfl
@[simp] theorem State.post_links (s : State) (es : List Instr) : (s.post es).links = s.links := rfl
@[simp] theorem State.post_timeLocked (s : State) (es : List Instr) : (s.post es).timeLocked = s.timeLocked := rfl
@[simp] theorem State.post_timeJoined (s : State) (es : List Instr) : (s.post es).timeJoined = s.timeJoined := rfl
@[simp] theorem State.post_timeOffset (s : State) (es : List Instr) : (s.post es).timeOffset = s.timeOffset := rfl
@[simp] theorem State.post_offered (s : State) (es : List Instr) : (s.post es).offered = s.offered := rfl
@[simp] theorem State.post_accepted (s : State) (es : List Instr) : (s.post es).accepted = s.accepted := rfl
@[simp] theorem State.post_featuresTried (s : State) (es : List Instr) : (s.post es).featuresTried = s.featuresTried := rfl
@[simp] theorem State.post_adminBase (s : State) (es : List Instr) : (s.post es).adminBase = s.adminBase := rfl
@[simp] theorem State.post_adminTail (s : State) (es : List Instr) : (s.post es).adminTail = s.adminTail := rfl
@[simp] theorem State.post_adminHead (s : State) (es : List Instr) : (s.post es).adminHead = s.adminHead := rfl
@[simp] theorem State.post_completions (s : State) (es : List Instr) : (s.post es).completions = s.completions := rfl
@[simp] theorem State.post_msix (s : State) (es : List Instr) : (s.post es).msix = s.msix := rfl
@[simp] theorem State.post_powerCap (s : State) (es : List Instr) : (s.post es).powerCap = s.powerCap := rfl
@[simp] theorem State.post_overCap (s : State) (es : List Instr) : (s.post es).overCap = s.overCap := rfl
@[simp] theorem State.post_banks (s : State) (es : List Instr) : (s.post es).banks = s.banks := rfl
@[simp] theorem State.post_bank (s : State) (es : List Instr) : (s.post es).bank = s.bank := rfl
@[simp] theorem State.post_nextBank (s : State) (es : List Instr) : (s.post es).nextBank = s.nextBank := rfl
@[simp] theorem State.post_fusedRollback (s : State) (es : List Instr) : (s.post es).fusedRollback = s.fusedRollback := rfl
@[simp] theorem State.post_resets (s : State) (es : List Instr) : (s.post es).resets = s.resets := rfl
@[simp] theorem State.post_refusedFlags (s : State) (es : List Instr) : (s.post es).refusedFlags = s.refusedFlags := rfl
@[simp] theorem State.post_skippedRecords (s : State) (es : List Instr) : (s.post es).skippedRecords = s.skippedRecords := rfl
@[simp] theorem State.post_doubleFaults (s : State) (es : List Instr) : (s.post es).doubleFaults = s.doubleFaults := rfl
@[simp] theorem State.post_badDoorbells (s : State) (es : List Instr) : (s.post es).badDoorbells = s.badDoorbells := rfl
@[simp] theorem State.post_hostMem (s : State) (es : List Instr) : (s.post es).hostMem = s.hostMem := rfl
@[simp] theorem State.post_mailbox (s : State) (es : List Instr) : (s.post es).mailbox = s.mailbox := rfl
@[simp] theorem State.post_spdm (s : State) (es : List Instr) : (s.post es).spdm = s.spdm := rfl
@[simp] theorem State.post_algorithms (s : State) (es : List Instr) : (s.post es).algorithms = s.algorithms := rfl
@[simp] theorem State.post_combined (s : State) (es : List Instr) : (s.post es).combined = s.combined := rfl
@[simp] theorem State.post_outbox (s : State) (es : List Instr) : (s.post es).outbox = s.outbox := rfl
@[simp] theorem State.post_routed (s : State) (es : List Instr) : (s.post es).routed = s.routed := rfl
@[simp] theorem State.post_turn (s : State) (es : List Instr) : (s.post es).turn = s.turn := rfl
@[simp] theorem State.post_eventNext (s : State) (es : List Instr) : (s.post es).eventNext = s.eventNext := rfl
@[simp] theorem State.post_iss (s : State) (es : List Instr) : (s.post es).iss = s.iss := rfl
@[simp] theorem State.post_freeUse (s : State) (es : List Instr) : (s.post es).freeUse = s.freeUse := rfl

/-! ### State.send -/

@[simp] theorem State.send_peer (s : State) (p : Nat) (e : Instr) : (s.send p e).peer = s.peer := rfl
@[simp] theorem State.send_cycle (s : State) (p : Nat) (e : Instr) : (s.send p e).cycle = s.cycle := rfl
@[simp] theorem State.send_ticks (s : State) (p : Nat) (e : Instr) : (s.send p e).ticks = s.ticks := rfl
@[simp] theorem State.send_mhz (s : State) (p : Nat) (e : Instr) : (s.send p e).mhz = s.mhz := rfl
@[simp] theorem State.send_cores (s : State) (p : Nat) (e : Instr) : (s.send p e).cores = s.cores := rfl
@[simp] theorem State.send_courseBars (s : State) (p : Nat) (e : Instr) : (s.send p e).courseBars = s.courseBars := rfl
@[simp] theorem State.send_mem (s : State) (p : Nat) (e : Instr) : (s.send p e).mem = s.mem := rfl
@[simp] theorem State.send_tags (s : State) (p : Nat) (e : Instr) : (s.send p e).tags = s.tags := rfl
@[simp] theorem State.send_poison (s : State) (p : Nat) (e : Instr) : (s.send p e).poison = s.poison := rfl
@[simp] theorem State.send_spans (s : State) (p : Nat) (e : Instr) : (s.send p e).spans = s.spans := rfl
@[simp] theorem State.send_tiles (s : State) (p : Nat) (e : Instr) : (s.send p e).tiles = s.tiles := rfl
@[simp] theorem State.send_oldBlocks (s : State) (p : Nat) (e : Instr) : (s.send p e).oldBlocks = s.oldBlocks := rfl
@[simp] theorem State.send_slips (s : State) (p : Nat) (e : Instr) : (s.send p e).slips = s.slips := rfl
@[simp] theorem State.send_ecc (s : State) (p : Nat) (e : Instr) : (s.send p e).ecc = s.ecc := rfl
@[simp] theorem State.send_dir (s : State) (p : Nat) (e : Instr) : (s.send p e).dir = s.dir := rfl
@[simp] theorem State.send_halves (s : State) (p : Nat) (e : Instr) : (s.send p e).halves = s.halves := rfl
@[simp] theorem State.send_incOwn (s : State) (p : Nat) (e : Instr) : (s.send p e).incOwn = s.incOwn := rfl
@[simp] theorem State.send_incHome (s : State) (p : Nat) (e : Instr) : (s.send p e).incHome = s.incHome := rfl
@[simp] theorem State.send_snaps (s : State) (p : Nat) (e : Instr) : (s.send p e).snaps = s.snaps := rfl
@[simp] theorem State.send_snapGen (s : State) (p : Nat) (e : Instr) : (s.send p e).snapGen = s.snapGen := rfl
@[simp] theorem State.send_shadows (s : State) (p : Nat) (e : Instr) : (s.send p e).shadows = s.shadows := rfl
@[simp] theorem State.send_homeWait (s : State) (p : Nat) (e : Instr) : (s.send p e).homeWait = s.homeWait := rfl
@[simp] theorem State.send_homeServes (s : State) (p : Nat) (e : Instr) : (s.send p e).homeServes = s.homeServes := rfl
@[simp] theorem State.send_reserves (s : State) (p : Nat) (e : Instr) : (s.send p e).reserves = s.reserves := rfl
@[simp] theorem State.send_refillAsked (s : State) (p : Nat) (e : Instr) : (s.send p e).refillAsked = s.refillAsked := rfl
@[simp] theorem State.send_refillHeld (s : State) (p : Nat) (e : Instr) : (s.send p e).refillHeld = s.refillHeld := rfl
@[simp] theorem State.send_scaleUses (s : State) (p : Nat) (e : Instr) : (s.send p e).scaleUses = s.scaleUses := rfl
@[simp] theorem State.send_entryAge (s : State) (p : Nat) (e : Instr) : (s.send p e).entryAge = s.entryAge := rfl
@[simp] theorem State.send_leasemax (s : State) (p : Nat) (e : Instr) : (s.send p e).leasemax = s.leasemax := rfl
@[simp] theorem State.send_fwLen (s : State) (p : Nat) (e : Instr) : (s.send p e).fwLen = s.fwLen := rfl
@[simp] theorem State.send_fwEn (s : State) (p : Nat) (e : Instr) : (s.send p e).fwEn = s.fwEn := rfl
@[simp] theorem State.send_fwShare (s : State) (p : Nat) (e : Instr) : (s.send p e).fwShare = s.fwShare := rfl
@[simp] theorem State.send_slots (s : State) (p : Nat) (e : Instr) : (s.send p e).slots = s.slots := rfl
@[simp] theorem State.send_partition (s : State) (p : Nat) (e : Instr) : (s.send p e).partition = s.partition := rfl
@[simp] theorem State.send_exports (s : State) (p : Nat) (e : Instr) : (s.send p e).exports = s.exports := rfl
@[simp] theorem State.send_cabling (s : State) (p : Nat) (e : Instr) : (s.send p e).cabling = s.cabling := rfl
@[simp] theorem State.send_population (s : State) (p : Nat) (e : Instr) : (s.send p e).population = s.population := rfl
@[simp] theorem State.send_disabledPeers (s : State) (p : Nat) (e : Instr) : (s.send p e).disabledPeers = s.disabledPeers := rfl
@[simp] theorem State.send_disabledCores (s : State) (p : Nat) (e : Instr) : (s.send p e).disabledCores = s.disabledCores := rfl
@[simp] theorem State.send_resTail (s : State) (p : Nat) (e : Instr) : (s.send p e).resTail = s.resTail := rfl
@[simp] theorem State.send_resHead (s : State) (p : Nat) (e : Instr) : (s.send p e).resHead = s.resHead := rfl
@[simp] theorem State.send_resRing (s : State) (p : Nat) (e : Instr) : (s.send p e).resRing = s.resRing := rfl
@[simp] theorem State.send_resHeld (s : State) (p : Nat) (e : Instr) : (s.send p e).resHeld = s.resHeld := rfl
@[simp] theorem State.send_launches (s : State) (p : Nat) (e : Instr) : (s.send p e).launches = s.launches := rfl
@[simp] theorem State.send_nextLaunch (s : State) (p : Nat) (e : Instr) : (s.send p e).nextLaunch = s.nextLaunch := rfl
@[simp] theorem State.send_slotTurn (s : State) (p : Nat) (e : Instr) : (s.send p e).slotTurn = s.slotTurn := rfl
@[simp] theorem State.send_frontAsked (s : State) (p : Nat) (e : Instr) : (s.send p e).frontAsked = s.frontAsked := rfl
@[simp] theorem State.send_frontGot (s : State) (p : Nat) (e : Instr) : (s.send p e).frontGot = s.frontGot := rfl
@[simp] theorem State.send_agree (s : State) (p : Nat) (e : Instr) : (s.send p e).agree = s.agree := rfl
@[simp] theorem State.send_heard (s : State) (p : Nat) (e : Instr) : (s.send p e).heard = s.heard := rfl
@[simp] theorem State.send_links (s : State) (p : Nat) (e : Instr) : (s.send p e).links = s.links := rfl
@[simp] theorem State.send_timeLocked (s : State) (p : Nat) (e : Instr) : (s.send p e).timeLocked = s.timeLocked := rfl
@[simp] theorem State.send_timeJoined (s : State) (p : Nat) (e : Instr) : (s.send p e).timeJoined = s.timeJoined := rfl
@[simp] theorem State.send_timeOffset (s : State) (p : Nat) (e : Instr) : (s.send p e).timeOffset = s.timeOffset := rfl
@[simp] theorem State.send_offered (s : State) (p : Nat) (e : Instr) : (s.send p e).offered = s.offered := rfl
@[simp] theorem State.send_accepted (s : State) (p : Nat) (e : Instr) : (s.send p e).accepted = s.accepted := rfl
@[simp] theorem State.send_featuresTried (s : State) (p : Nat) (e : Instr) : (s.send p e).featuresTried = s.featuresTried := rfl
@[simp] theorem State.send_adminBase (s : State) (p : Nat) (e : Instr) : (s.send p e).adminBase = s.adminBase := rfl
@[simp] theorem State.send_adminTail (s : State) (p : Nat) (e : Instr) : (s.send p e).adminTail = s.adminTail := rfl
@[simp] theorem State.send_adminHead (s : State) (p : Nat) (e : Instr) : (s.send p e).adminHead = s.adminHead := rfl
@[simp] theorem State.send_completions (s : State) (p : Nat) (e : Instr) : (s.send p e).completions = s.completions := rfl
@[simp] theorem State.send_msix (s : State) (p : Nat) (e : Instr) : (s.send p e).msix = s.msix := rfl
@[simp] theorem State.send_powerCap (s : State) (p : Nat) (e : Instr) : (s.send p e).powerCap = s.powerCap := rfl
@[simp] theorem State.send_overCap (s : State) (p : Nat) (e : Instr) : (s.send p e).overCap = s.overCap := rfl
@[simp] theorem State.send_banks (s : State) (p : Nat) (e : Instr) : (s.send p e).banks = s.banks := rfl
@[simp] theorem State.send_bank (s : State) (p : Nat) (e : Instr) : (s.send p e).bank = s.bank := rfl
@[simp] theorem State.send_nextBank (s : State) (p : Nat) (e : Instr) : (s.send p e).nextBank = s.nextBank := rfl
@[simp] theorem State.send_fusedRollback (s : State) (p : Nat) (e : Instr) : (s.send p e).fusedRollback = s.fusedRollback := rfl
@[simp] theorem State.send_resets (s : State) (p : Nat) (e : Instr) : (s.send p e).resets = s.resets := rfl
@[simp] theorem State.send_refusedFlags (s : State) (p : Nat) (e : Instr) : (s.send p e).refusedFlags = s.refusedFlags := rfl
@[simp] theorem State.send_skippedRecords (s : State) (p : Nat) (e : Instr) : (s.send p e).skippedRecords = s.skippedRecords := rfl
@[simp] theorem State.send_doubleFaults (s : State) (p : Nat) (e : Instr) : (s.send p e).doubleFaults = s.doubleFaults := rfl
@[simp] theorem State.send_badDoorbells (s : State) (p : Nat) (e : Instr) : (s.send p e).badDoorbells = s.badDoorbells := rfl
@[simp] theorem State.send_hostMem (s : State) (p : Nat) (e : Instr) : (s.send p e).hostMem = s.hostMem := rfl
@[simp] theorem State.send_mailbox (s : State) (p : Nat) (e : Instr) : (s.send p e).mailbox = s.mailbox := rfl
@[simp] theorem State.send_spdm (s : State) (p : Nat) (e : Instr) : (s.send p e).spdm = s.spdm := rfl
@[simp] theorem State.send_algorithms (s : State) (p : Nat) (e : Instr) : (s.send p e).algorithms = s.algorithms := rfl
@[simp] theorem State.send_combined (s : State) (p : Nat) (e : Instr) : (s.send p e).combined = s.combined := rfl
@[simp] theorem State.send_routed (s : State) (p : Nat) (e : Instr) : (s.send p e).routed = s.routed := rfl
@[simp] theorem State.send_turn (s : State) (p : Nat) (e : Instr) : (s.send p e).turn = s.turn := rfl
@[simp] theorem State.send_eventNext (s : State) (p : Nat) (e : Instr) : (s.send p e).eventNext = s.eventNext := rfl
@[simp] theorem State.send_iss (s : State) (p : Nat) (e : Instr) : (s.send p e).iss = s.iss := rfl
@[simp] theorem State.send_agenda (s : State) (p : Nat) (e : Instr) : (s.send p e).agenda = s.agenda := rfl
@[simp] theorem State.send_freeUse (s : State) (p : Nat) (e : Instr) : (s.send p e).freeUse = s.freeUse := rfl

/-! ### State.setByte -/

@[simp] theorem State.setByte_peer (s : State) (a : Nat) (v : Byte) : (s.setByte a v).peer = s.peer := rfl
@[simp] theorem State.setByte_cycle (s : State) (a : Nat) (v : Byte) : (s.setByte a v).cycle = s.cycle := rfl
@[simp] theorem State.setByte_ticks (s : State) (a : Nat) (v : Byte) : (s.setByte a v).ticks = s.ticks := rfl
@[simp] theorem State.setByte_mhz (s : State) (a : Nat) (v : Byte) : (s.setByte a v).mhz = s.mhz := rfl
@[simp] theorem State.setByte_cores (s : State) (a : Nat) (v : Byte) : (s.setByte a v).cores = s.cores := rfl
@[simp] theorem State.setByte_courseBars (s : State) (a : Nat) (v : Byte) : (s.setByte a v).courseBars = s.courseBars := rfl
@[simp] theorem State.setByte_tags (s : State) (a : Nat) (v : Byte) : (s.setByte a v).tags = s.tags := rfl
@[simp] theorem State.setByte_poison (s : State) (a : Nat) (v : Byte) : (s.setByte a v).poison = s.poison := rfl
@[simp] theorem State.setByte_spans (s : State) (a : Nat) (v : Byte) : (s.setByte a v).spans = s.spans := rfl
@[simp] theorem State.setByte_tiles (s : State) (a : Nat) (v : Byte) : (s.setByte a v).tiles = s.tiles := rfl
@[simp] theorem State.setByte_oldBlocks (s : State) (a : Nat) (v : Byte) : (s.setByte a v).oldBlocks = s.oldBlocks := rfl
@[simp] theorem State.setByte_slips (s : State) (a : Nat) (v : Byte) : (s.setByte a v).slips = s.slips := rfl
@[simp] theorem State.setByte_ecc (s : State) (a : Nat) (v : Byte) : (s.setByte a v).ecc = s.ecc := rfl
@[simp] theorem State.setByte_dir (s : State) (a : Nat) (v : Byte) : (s.setByte a v).dir = s.dir := rfl
@[simp] theorem State.setByte_halves (s : State) (a : Nat) (v : Byte) : (s.setByte a v).halves = s.halves := rfl
@[simp] theorem State.setByte_incOwn (s : State) (a : Nat) (v : Byte) : (s.setByte a v).incOwn = s.incOwn := rfl
@[simp] theorem State.setByte_incHome (s : State) (a : Nat) (v : Byte) : (s.setByte a v).incHome = s.incHome := rfl
@[simp] theorem State.setByte_snaps (s : State) (a : Nat) (v : Byte) : (s.setByte a v).snaps = s.snaps := rfl
@[simp] theorem State.setByte_snapGen (s : State) (a : Nat) (v : Byte) : (s.setByte a v).snapGen = s.snapGen := rfl
@[simp] theorem State.setByte_shadows (s : State) (a : Nat) (v : Byte) : (s.setByte a v).shadows = s.shadows := rfl
@[simp] theorem State.setByte_homeWait (s : State) (a : Nat) (v : Byte) : (s.setByte a v).homeWait = s.homeWait := rfl
@[simp] theorem State.setByte_homeServes (s : State) (a : Nat) (v : Byte) : (s.setByte a v).homeServes = s.homeServes := rfl
@[simp] theorem State.setByte_reserves (s : State) (a : Nat) (v : Byte) : (s.setByte a v).reserves = s.reserves := rfl
@[simp] theorem State.setByte_refillAsked (s : State) (a : Nat) (v : Byte) : (s.setByte a v).refillAsked = s.refillAsked := rfl
@[simp] theorem State.setByte_refillHeld (s : State) (a : Nat) (v : Byte) : (s.setByte a v).refillHeld = s.refillHeld := rfl
@[simp] theorem State.setByte_scaleUses (s : State) (a : Nat) (v : Byte) : (s.setByte a v).scaleUses = s.scaleUses := rfl
@[simp] theorem State.setByte_entryAge (s : State) (a : Nat) (v : Byte) : (s.setByte a v).entryAge = s.entryAge := rfl
@[simp] theorem State.setByte_leasemax (s : State) (a : Nat) (v : Byte) : (s.setByte a v).leasemax = s.leasemax := rfl
@[simp] theorem State.setByte_fwLen (s : State) (a : Nat) (v : Byte) : (s.setByte a v).fwLen = s.fwLen := rfl
@[simp] theorem State.setByte_fwEn (s : State) (a : Nat) (v : Byte) : (s.setByte a v).fwEn = s.fwEn := rfl
@[simp] theorem State.setByte_fwShare (s : State) (a : Nat) (v : Byte) : (s.setByte a v).fwShare = s.fwShare := rfl
@[simp] theorem State.setByte_slots (s : State) (a : Nat) (v : Byte) : (s.setByte a v).slots = s.slots := rfl
@[simp] theorem State.setByte_partition (s : State) (a : Nat) (v : Byte) : (s.setByte a v).partition = s.partition := rfl
@[simp] theorem State.setByte_exports (s : State) (a : Nat) (v : Byte) : (s.setByte a v).exports = s.exports := rfl
@[simp] theorem State.setByte_cabling (s : State) (a : Nat) (v : Byte) : (s.setByte a v).cabling = s.cabling := rfl
@[simp] theorem State.setByte_population (s : State) (a : Nat) (v : Byte) : (s.setByte a v).population = s.population := rfl
@[simp] theorem State.setByte_disabledPeers (s : State) (a : Nat) (v : Byte) : (s.setByte a v).disabledPeers = s.disabledPeers := rfl
@[simp] theorem State.setByte_disabledCores (s : State) (a : Nat) (v : Byte) : (s.setByte a v).disabledCores = s.disabledCores := rfl
@[simp] theorem State.setByte_resTail (s : State) (a : Nat) (v : Byte) : (s.setByte a v).resTail = s.resTail := rfl
@[simp] theorem State.setByte_resHead (s : State) (a : Nat) (v : Byte) : (s.setByte a v).resHead = s.resHead := rfl
@[simp] theorem State.setByte_resRing (s : State) (a : Nat) (v : Byte) : (s.setByte a v).resRing = s.resRing := rfl
@[simp] theorem State.setByte_resHeld (s : State) (a : Nat) (v : Byte) : (s.setByte a v).resHeld = s.resHeld := rfl
@[simp] theorem State.setByte_launches (s : State) (a : Nat) (v : Byte) : (s.setByte a v).launches = s.launches := rfl
@[simp] theorem State.setByte_nextLaunch (s : State) (a : Nat) (v : Byte) : (s.setByte a v).nextLaunch = s.nextLaunch := rfl
@[simp] theorem State.setByte_slotTurn (s : State) (a : Nat) (v : Byte) : (s.setByte a v).slotTurn = s.slotTurn := rfl
@[simp] theorem State.setByte_frontAsked (s : State) (a : Nat) (v : Byte) : (s.setByte a v).frontAsked = s.frontAsked := rfl
@[simp] theorem State.setByte_frontGot (s : State) (a : Nat) (v : Byte) : (s.setByte a v).frontGot = s.frontGot := rfl
@[simp] theorem State.setByte_agree (s : State) (a : Nat) (v : Byte) : (s.setByte a v).agree = s.agree := rfl
@[simp] theorem State.setByte_heard (s : State) (a : Nat) (v : Byte) : (s.setByte a v).heard = s.heard := rfl
@[simp] theorem State.setByte_links (s : State) (a : Nat) (v : Byte) : (s.setByte a v).links = s.links := rfl
@[simp] theorem State.setByte_timeLocked (s : State) (a : Nat) (v : Byte) : (s.setByte a v).timeLocked = s.timeLocked := rfl
@[simp] theorem State.setByte_timeJoined (s : State) (a : Nat) (v : Byte) : (s.setByte a v).timeJoined = s.timeJoined := rfl
@[simp] theorem State.setByte_timeOffset (s : State) (a : Nat) (v : Byte) : (s.setByte a v).timeOffset = s.timeOffset := rfl
@[simp] theorem State.setByte_offered (s : State) (a : Nat) (v : Byte) : (s.setByte a v).offered = s.offered := rfl
@[simp] theorem State.setByte_accepted (s : State) (a : Nat) (v : Byte) : (s.setByte a v).accepted = s.accepted := rfl
@[simp] theorem State.setByte_featuresTried (s : State) (a : Nat) (v : Byte) : (s.setByte a v).featuresTried = s.featuresTried := rfl
@[simp] theorem State.setByte_adminBase (s : State) (a : Nat) (v : Byte) : (s.setByte a v).adminBase = s.adminBase := rfl
@[simp] theorem State.setByte_adminTail (s : State) (a : Nat) (v : Byte) : (s.setByte a v).adminTail = s.adminTail := rfl
@[simp] theorem State.setByte_adminHead (s : State) (a : Nat) (v : Byte) : (s.setByte a v).adminHead = s.adminHead := rfl
@[simp] theorem State.setByte_completions (s : State) (a : Nat) (v : Byte) : (s.setByte a v).completions = s.completions := rfl
@[simp] theorem State.setByte_msix (s : State) (a : Nat) (v : Byte) : (s.setByte a v).msix = s.msix := rfl
@[simp] theorem State.setByte_powerCap (s : State) (a : Nat) (v : Byte) : (s.setByte a v).powerCap = s.powerCap := rfl
@[simp] theorem State.setByte_overCap (s : State) (a : Nat) (v : Byte) : (s.setByte a v).overCap = s.overCap := rfl
@[simp] theorem State.setByte_banks (s : State) (a : Nat) (v : Byte) : (s.setByte a v).banks = s.banks := rfl
@[simp] theorem State.setByte_bank (s : State) (a : Nat) (v : Byte) : (s.setByte a v).bank = s.bank := rfl
@[simp] theorem State.setByte_nextBank (s : State) (a : Nat) (v : Byte) : (s.setByte a v).nextBank = s.nextBank := rfl
@[simp] theorem State.setByte_fusedRollback (s : State) (a : Nat) (v : Byte) : (s.setByte a v).fusedRollback = s.fusedRollback := rfl
@[simp] theorem State.setByte_resets (s : State) (a : Nat) (v : Byte) : (s.setByte a v).resets = s.resets := rfl
@[simp] theorem State.setByte_refusedFlags (s : State) (a : Nat) (v : Byte) : (s.setByte a v).refusedFlags = s.refusedFlags := rfl
@[simp] theorem State.setByte_skippedRecords (s : State) (a : Nat) (v : Byte) : (s.setByte a v).skippedRecords = s.skippedRecords := rfl
@[simp] theorem State.setByte_doubleFaults (s : State) (a : Nat) (v : Byte) : (s.setByte a v).doubleFaults = s.doubleFaults := rfl
@[simp] theorem State.setByte_badDoorbells (s : State) (a : Nat) (v : Byte) : (s.setByte a v).badDoorbells = s.badDoorbells := rfl
@[simp] theorem State.setByte_hostMem (s : State) (a : Nat) (v : Byte) : (s.setByte a v).hostMem = s.hostMem := rfl
@[simp] theorem State.setByte_mailbox (s : State) (a : Nat) (v : Byte) : (s.setByte a v).mailbox = s.mailbox := rfl
@[simp] theorem State.setByte_spdm (s : State) (a : Nat) (v : Byte) : (s.setByte a v).spdm = s.spdm := rfl
@[simp] theorem State.setByte_algorithms (s : State) (a : Nat) (v : Byte) : (s.setByte a v).algorithms = s.algorithms := rfl
@[simp] theorem State.setByte_combined (s : State) (a : Nat) (v : Byte) : (s.setByte a v).combined = s.combined := rfl
@[simp] theorem State.setByte_outbox (s : State) (a : Nat) (v : Byte) : (s.setByte a v).outbox = s.outbox := rfl
@[simp] theorem State.setByte_routed (s : State) (a : Nat) (v : Byte) : (s.setByte a v).routed = s.routed := rfl
@[simp] theorem State.setByte_turn (s : State) (a : Nat) (v : Byte) : (s.setByte a v).turn = s.turn := rfl
@[simp] theorem State.setByte_eventNext (s : State) (a : Nat) (v : Byte) : (s.setByte a v).eventNext = s.eventNext := rfl
@[simp] theorem State.setByte_iss (s : State) (a : Nat) (v : Byte) : (s.setByte a v).iss = s.iss := rfl
@[simp] theorem State.setByte_agenda (s : State) (a : Nat) (v : Byte) : (s.setByte a v).agenda = s.agenda := rfl
@[simp] theorem State.setByte_freeUse (s : State) (a : Nat) (v : Byte) : (s.setByte a v).freeUse = s.freeUse := rfl

/-! ### State.setTag -/

@[simp] theorem State.setTag_peer (s : State) (a : Nat) (v : Bool) : (s.setTag a v).peer = s.peer := rfl
@[simp] theorem State.setTag_cycle (s : State) (a : Nat) (v : Bool) : (s.setTag a v).cycle = s.cycle := rfl
@[simp] theorem State.setTag_ticks (s : State) (a : Nat) (v : Bool) : (s.setTag a v).ticks = s.ticks := rfl
@[simp] theorem State.setTag_mhz (s : State) (a : Nat) (v : Bool) : (s.setTag a v).mhz = s.mhz := rfl
@[simp] theorem State.setTag_cores (s : State) (a : Nat) (v : Bool) : (s.setTag a v).cores = s.cores := rfl
@[simp] theorem State.setTag_courseBars (s : State) (a : Nat) (v : Bool) : (s.setTag a v).courseBars = s.courseBars := rfl
@[simp] theorem State.setTag_mem (s : State) (a : Nat) (v : Bool) : (s.setTag a v).mem = s.mem := rfl
@[simp] theorem State.setTag_poison (s : State) (a : Nat) (v : Bool) : (s.setTag a v).poison = s.poison := rfl
@[simp] theorem State.setTag_spans (s : State) (a : Nat) (v : Bool) : (s.setTag a v).spans = s.spans := rfl
@[simp] theorem State.setTag_tiles (s : State) (a : Nat) (v : Bool) : (s.setTag a v).tiles = s.tiles := rfl
@[simp] theorem State.setTag_oldBlocks (s : State) (a : Nat) (v : Bool) : (s.setTag a v).oldBlocks = s.oldBlocks := rfl
@[simp] theorem State.setTag_slips (s : State) (a : Nat) (v : Bool) : (s.setTag a v).slips = s.slips := rfl
@[simp] theorem State.setTag_ecc (s : State) (a : Nat) (v : Bool) : (s.setTag a v).ecc = s.ecc := rfl
@[simp] theorem State.setTag_dir (s : State) (a : Nat) (v : Bool) : (s.setTag a v).dir = s.dir := rfl
@[simp] theorem State.setTag_halves (s : State) (a : Nat) (v : Bool) : (s.setTag a v).halves = s.halves := rfl
@[simp] theorem State.setTag_incOwn (s : State) (a : Nat) (v : Bool) : (s.setTag a v).incOwn = s.incOwn := rfl
@[simp] theorem State.setTag_incHome (s : State) (a : Nat) (v : Bool) : (s.setTag a v).incHome = s.incHome := rfl
@[simp] theorem State.setTag_snaps (s : State) (a : Nat) (v : Bool) : (s.setTag a v).snaps = s.snaps := rfl
@[simp] theorem State.setTag_snapGen (s : State) (a : Nat) (v : Bool) : (s.setTag a v).snapGen = s.snapGen := rfl
@[simp] theorem State.setTag_shadows (s : State) (a : Nat) (v : Bool) : (s.setTag a v).shadows = s.shadows := rfl
@[simp] theorem State.setTag_homeWait (s : State) (a : Nat) (v : Bool) : (s.setTag a v).homeWait = s.homeWait := rfl
@[simp] theorem State.setTag_homeServes (s : State) (a : Nat) (v : Bool) : (s.setTag a v).homeServes = s.homeServes := rfl
@[simp] theorem State.setTag_reserves (s : State) (a : Nat) (v : Bool) : (s.setTag a v).reserves = s.reserves := rfl
@[simp] theorem State.setTag_refillAsked (s : State) (a : Nat) (v : Bool) : (s.setTag a v).refillAsked = s.refillAsked := rfl
@[simp] theorem State.setTag_refillHeld (s : State) (a : Nat) (v : Bool) : (s.setTag a v).refillHeld = s.refillHeld := rfl
@[simp] theorem State.setTag_scaleUses (s : State) (a : Nat) (v : Bool) : (s.setTag a v).scaleUses = s.scaleUses := rfl
@[simp] theorem State.setTag_entryAge (s : State) (a : Nat) (v : Bool) : (s.setTag a v).entryAge = s.entryAge := rfl
@[simp] theorem State.setTag_leasemax (s : State) (a : Nat) (v : Bool) : (s.setTag a v).leasemax = s.leasemax := rfl
@[simp] theorem State.setTag_fwLen (s : State) (a : Nat) (v : Bool) : (s.setTag a v).fwLen = s.fwLen := rfl
@[simp] theorem State.setTag_fwEn (s : State) (a : Nat) (v : Bool) : (s.setTag a v).fwEn = s.fwEn := rfl
@[simp] theorem State.setTag_fwShare (s : State) (a : Nat) (v : Bool) : (s.setTag a v).fwShare = s.fwShare := rfl
@[simp] theorem State.setTag_slots (s : State) (a : Nat) (v : Bool) : (s.setTag a v).slots = s.slots := rfl
@[simp] theorem State.setTag_partition (s : State) (a : Nat) (v : Bool) : (s.setTag a v).partition = s.partition := rfl
@[simp] theorem State.setTag_exports (s : State) (a : Nat) (v : Bool) : (s.setTag a v).exports = s.exports := rfl
@[simp] theorem State.setTag_cabling (s : State) (a : Nat) (v : Bool) : (s.setTag a v).cabling = s.cabling := rfl
@[simp] theorem State.setTag_population (s : State) (a : Nat) (v : Bool) : (s.setTag a v).population = s.population := rfl
@[simp] theorem State.setTag_disabledPeers (s : State) (a : Nat) (v : Bool) : (s.setTag a v).disabledPeers = s.disabledPeers := rfl
@[simp] theorem State.setTag_disabledCores (s : State) (a : Nat) (v : Bool) : (s.setTag a v).disabledCores = s.disabledCores := rfl
@[simp] theorem State.setTag_resTail (s : State) (a : Nat) (v : Bool) : (s.setTag a v).resTail = s.resTail := rfl
@[simp] theorem State.setTag_resHead (s : State) (a : Nat) (v : Bool) : (s.setTag a v).resHead = s.resHead := rfl
@[simp] theorem State.setTag_resRing (s : State) (a : Nat) (v : Bool) : (s.setTag a v).resRing = s.resRing := rfl
@[simp] theorem State.setTag_resHeld (s : State) (a : Nat) (v : Bool) : (s.setTag a v).resHeld = s.resHeld := rfl
@[simp] theorem State.setTag_launches (s : State) (a : Nat) (v : Bool) : (s.setTag a v).launches = s.launches := rfl
@[simp] theorem State.setTag_nextLaunch (s : State) (a : Nat) (v : Bool) : (s.setTag a v).nextLaunch = s.nextLaunch := rfl
@[simp] theorem State.setTag_slotTurn (s : State) (a : Nat) (v : Bool) : (s.setTag a v).slotTurn = s.slotTurn := rfl
@[simp] theorem State.setTag_frontAsked (s : State) (a : Nat) (v : Bool) : (s.setTag a v).frontAsked = s.frontAsked := rfl
@[simp] theorem State.setTag_frontGot (s : State) (a : Nat) (v : Bool) : (s.setTag a v).frontGot = s.frontGot := rfl
@[simp] theorem State.setTag_agree (s : State) (a : Nat) (v : Bool) : (s.setTag a v).agree = s.agree := rfl
@[simp] theorem State.setTag_heard (s : State) (a : Nat) (v : Bool) : (s.setTag a v).heard = s.heard := rfl
@[simp] theorem State.setTag_links (s : State) (a : Nat) (v : Bool) : (s.setTag a v).links = s.links := rfl
@[simp] theorem State.setTag_timeLocked (s : State) (a : Nat) (v : Bool) : (s.setTag a v).timeLocked = s.timeLocked := rfl
@[simp] theorem State.setTag_timeJoined (s : State) (a : Nat) (v : Bool) : (s.setTag a v).timeJoined = s.timeJoined := rfl
@[simp] theorem State.setTag_timeOffset (s : State) (a : Nat) (v : Bool) : (s.setTag a v).timeOffset = s.timeOffset := rfl
@[simp] theorem State.setTag_offered (s : State) (a : Nat) (v : Bool) : (s.setTag a v).offered = s.offered := rfl
@[simp] theorem State.setTag_accepted (s : State) (a : Nat) (v : Bool) : (s.setTag a v).accepted = s.accepted := rfl
@[simp] theorem State.setTag_featuresTried (s : State) (a : Nat) (v : Bool) : (s.setTag a v).featuresTried = s.featuresTried := rfl
@[simp] theorem State.setTag_adminBase (s : State) (a : Nat) (v : Bool) : (s.setTag a v).adminBase = s.adminBase := rfl
@[simp] theorem State.setTag_adminTail (s : State) (a : Nat) (v : Bool) : (s.setTag a v).adminTail = s.adminTail := rfl
@[simp] theorem State.setTag_adminHead (s : State) (a : Nat) (v : Bool) : (s.setTag a v).adminHead = s.adminHead := rfl
@[simp] theorem State.setTag_completions (s : State) (a : Nat) (v : Bool) : (s.setTag a v).completions = s.completions := rfl
@[simp] theorem State.setTag_msix (s : State) (a : Nat) (v : Bool) : (s.setTag a v).msix = s.msix := rfl
@[simp] theorem State.setTag_powerCap (s : State) (a : Nat) (v : Bool) : (s.setTag a v).powerCap = s.powerCap := rfl
@[simp] theorem State.setTag_overCap (s : State) (a : Nat) (v : Bool) : (s.setTag a v).overCap = s.overCap := rfl
@[simp] theorem State.setTag_banks (s : State) (a : Nat) (v : Bool) : (s.setTag a v).banks = s.banks := rfl
@[simp] theorem State.setTag_bank (s : State) (a : Nat) (v : Bool) : (s.setTag a v).bank = s.bank := rfl
@[simp] theorem State.setTag_nextBank (s : State) (a : Nat) (v : Bool) : (s.setTag a v).nextBank = s.nextBank := rfl
@[simp] theorem State.setTag_fusedRollback (s : State) (a : Nat) (v : Bool) : (s.setTag a v).fusedRollback = s.fusedRollback := rfl
@[simp] theorem State.setTag_resets (s : State) (a : Nat) (v : Bool) : (s.setTag a v).resets = s.resets := rfl
@[simp] theorem State.setTag_refusedFlags (s : State) (a : Nat) (v : Bool) : (s.setTag a v).refusedFlags = s.refusedFlags := rfl
@[simp] theorem State.setTag_skippedRecords (s : State) (a : Nat) (v : Bool) : (s.setTag a v).skippedRecords = s.skippedRecords := rfl
@[simp] theorem State.setTag_doubleFaults (s : State) (a : Nat) (v : Bool) : (s.setTag a v).doubleFaults = s.doubleFaults := rfl
@[simp] theorem State.setTag_badDoorbells (s : State) (a : Nat) (v : Bool) : (s.setTag a v).badDoorbells = s.badDoorbells := rfl
@[simp] theorem State.setTag_hostMem (s : State) (a : Nat) (v : Bool) : (s.setTag a v).hostMem = s.hostMem := rfl
@[simp] theorem State.setTag_mailbox (s : State) (a : Nat) (v : Bool) : (s.setTag a v).mailbox = s.mailbox := rfl
@[simp] theorem State.setTag_spdm (s : State) (a : Nat) (v : Bool) : (s.setTag a v).spdm = s.spdm := rfl
@[simp] theorem State.setTag_algorithms (s : State) (a : Nat) (v : Bool) : (s.setTag a v).algorithms = s.algorithms := rfl
@[simp] theorem State.setTag_combined (s : State) (a : Nat) (v : Bool) : (s.setTag a v).combined = s.combined := rfl
@[simp] theorem State.setTag_outbox (s : State) (a : Nat) (v : Bool) : (s.setTag a v).outbox = s.outbox := rfl
@[simp] theorem State.setTag_routed (s : State) (a : Nat) (v : Bool) : (s.setTag a v).routed = s.routed := rfl
@[simp] theorem State.setTag_turn (s : State) (a : Nat) (v : Bool) : (s.setTag a v).turn = s.turn := rfl
@[simp] theorem State.setTag_eventNext (s : State) (a : Nat) (v : Bool) : (s.setTag a v).eventNext = s.eventNext := rfl
@[simp] theorem State.setTag_iss (s : State) (a : Nat) (v : Bool) : (s.setTag a v).iss = s.iss := rfl
@[simp] theorem State.setTag_agenda (s : State) (a : Nat) (v : Bool) : (s.setTag a v).agenda = s.agenda := rfl
@[simp] theorem State.setTag_freeUse (s : State) (a : Nat) (v : Bool) : (s.setTag a v).freeUse = s.freeUse := rfl

/-! ### State.setPoison -/

@[simp] theorem State.setPoison_peer (s : State) (u : Nat) (m : Bool) : (s.setPoison u m).peer = s.peer := rfl
@[simp] theorem State.setPoison_cycle (s : State) (u : Nat) (m : Bool) : (s.setPoison u m).cycle = s.cycle := rfl
@[simp] theorem State.setPoison_ticks (s : State) (u : Nat) (m : Bool) : (s.setPoison u m).ticks = s.ticks := rfl
@[simp] theorem State.setPoison_mhz (s : State) (u : Nat) (m : Bool) : (s.setPoison u m).mhz = s.mhz := rfl
@[simp] theorem State.setPoison_cores (s : State) (u : Nat) (m : Bool) : (s.setPoison u m).cores = s.cores := rfl
@[simp] theorem State.setPoison_courseBars (s : State) (u : Nat) (m : Bool) : (s.setPoison u m).courseBars = s.courseBars := rfl
@[simp] theorem State.setPoison_mem (s : State) (u : Nat) (m : Bool) : (s.setPoison u m).mem = s.mem := rfl
@[simp] theorem State.setPoison_tags (s : State) (u : Nat) (m : Bool) : (s.setPoison u m).tags = s.tags := rfl
@[simp] theorem State.setPoison_spans (s : State) (u : Nat) (m : Bool) : (s.setPoison u m).spans = s.spans := rfl
@[simp] theorem State.setPoison_tiles (s : State) (u : Nat) (m : Bool) : (s.setPoison u m).tiles = s.tiles := rfl
@[simp] theorem State.setPoison_oldBlocks (s : State) (u : Nat) (m : Bool) : (s.setPoison u m).oldBlocks = s.oldBlocks := rfl
@[simp] theorem State.setPoison_slips (s : State) (u : Nat) (m : Bool) : (s.setPoison u m).slips = s.slips := rfl
@[simp] theorem State.setPoison_ecc (s : State) (u : Nat) (m : Bool) : (s.setPoison u m).ecc = s.ecc := rfl
@[simp] theorem State.setPoison_dir (s : State) (u : Nat) (m : Bool) : (s.setPoison u m).dir = s.dir := rfl
@[simp] theorem State.setPoison_halves (s : State) (u : Nat) (m : Bool) : (s.setPoison u m).halves = s.halves := rfl
@[simp] theorem State.setPoison_incOwn (s : State) (u : Nat) (m : Bool) : (s.setPoison u m).incOwn = s.incOwn := rfl
@[simp] theorem State.setPoison_incHome (s : State) (u : Nat) (m : Bool) : (s.setPoison u m).incHome = s.incHome := rfl
@[simp] theorem State.setPoison_snaps (s : State) (u : Nat) (m : Bool) : (s.setPoison u m).snaps = s.snaps := rfl
@[simp] theorem State.setPoison_snapGen (s : State) (u : Nat) (m : Bool) : (s.setPoison u m).snapGen = s.snapGen := rfl
@[simp] theorem State.setPoison_shadows (s : State) (u : Nat) (m : Bool) : (s.setPoison u m).shadows = s.shadows := rfl
@[simp] theorem State.setPoison_homeWait (s : State) (u : Nat) (m : Bool) : (s.setPoison u m).homeWait = s.homeWait := rfl
@[simp] theorem State.setPoison_homeServes (s : State) (u : Nat) (m : Bool) : (s.setPoison u m).homeServes = s.homeServes := rfl
@[simp] theorem State.setPoison_reserves (s : State) (u : Nat) (m : Bool) : (s.setPoison u m).reserves = s.reserves := rfl
@[simp] theorem State.setPoison_refillAsked (s : State) (u : Nat) (m : Bool) : (s.setPoison u m).refillAsked = s.refillAsked := rfl
@[simp] theorem State.setPoison_refillHeld (s : State) (u : Nat) (m : Bool) : (s.setPoison u m).refillHeld = s.refillHeld := rfl
@[simp] theorem State.setPoison_scaleUses (s : State) (u : Nat) (m : Bool) : (s.setPoison u m).scaleUses = s.scaleUses := rfl
@[simp] theorem State.setPoison_entryAge (s : State) (u : Nat) (m : Bool) : (s.setPoison u m).entryAge = s.entryAge := rfl
@[simp] theorem State.setPoison_leasemax (s : State) (u : Nat) (m : Bool) : (s.setPoison u m).leasemax = s.leasemax := rfl
@[simp] theorem State.setPoison_fwLen (s : State) (u : Nat) (m : Bool) : (s.setPoison u m).fwLen = s.fwLen := rfl
@[simp] theorem State.setPoison_fwEn (s : State) (u : Nat) (m : Bool) : (s.setPoison u m).fwEn = s.fwEn := rfl
@[simp] theorem State.setPoison_fwShare (s : State) (u : Nat) (m : Bool) : (s.setPoison u m).fwShare = s.fwShare := rfl
@[simp] theorem State.setPoison_slots (s : State) (u : Nat) (m : Bool) : (s.setPoison u m).slots = s.slots := rfl
@[simp] theorem State.setPoison_partition (s : State) (u : Nat) (m : Bool) : (s.setPoison u m).partition = s.partition := rfl
@[simp] theorem State.setPoison_exports (s : State) (u : Nat) (m : Bool) : (s.setPoison u m).exports = s.exports := rfl
@[simp] theorem State.setPoison_cabling (s : State) (u : Nat) (m : Bool) : (s.setPoison u m).cabling = s.cabling := rfl
@[simp] theorem State.setPoison_population (s : State) (u : Nat) (m : Bool) : (s.setPoison u m).population = s.population := rfl
@[simp] theorem State.setPoison_disabledPeers (s : State) (u : Nat) (m : Bool) : (s.setPoison u m).disabledPeers = s.disabledPeers := rfl
@[simp] theorem State.setPoison_disabledCores (s : State) (u : Nat) (m : Bool) : (s.setPoison u m).disabledCores = s.disabledCores := rfl
@[simp] theorem State.setPoison_resTail (s : State) (u : Nat) (m : Bool) : (s.setPoison u m).resTail = s.resTail := rfl
@[simp] theorem State.setPoison_resHead (s : State) (u : Nat) (m : Bool) : (s.setPoison u m).resHead = s.resHead := rfl
@[simp] theorem State.setPoison_resRing (s : State) (u : Nat) (m : Bool) : (s.setPoison u m).resRing = s.resRing := rfl
@[simp] theorem State.setPoison_resHeld (s : State) (u : Nat) (m : Bool) : (s.setPoison u m).resHeld = s.resHeld := rfl
@[simp] theorem State.setPoison_launches (s : State) (u : Nat) (m : Bool) : (s.setPoison u m).launches = s.launches := rfl
@[simp] theorem State.setPoison_nextLaunch (s : State) (u : Nat) (m : Bool) : (s.setPoison u m).nextLaunch = s.nextLaunch := rfl
@[simp] theorem State.setPoison_slotTurn (s : State) (u : Nat) (m : Bool) : (s.setPoison u m).slotTurn = s.slotTurn := rfl
@[simp] theorem State.setPoison_frontAsked (s : State) (u : Nat) (m : Bool) : (s.setPoison u m).frontAsked = s.frontAsked := rfl
@[simp] theorem State.setPoison_frontGot (s : State) (u : Nat) (m : Bool) : (s.setPoison u m).frontGot = s.frontGot := rfl
@[simp] theorem State.setPoison_agree (s : State) (u : Nat) (m : Bool) : (s.setPoison u m).agree = s.agree := rfl
@[simp] theorem State.setPoison_heard (s : State) (u : Nat) (m : Bool) : (s.setPoison u m).heard = s.heard := rfl
@[simp] theorem State.setPoison_links (s : State) (u : Nat) (m : Bool) : (s.setPoison u m).links = s.links := rfl
@[simp] theorem State.setPoison_timeLocked (s : State) (u : Nat) (m : Bool) : (s.setPoison u m).timeLocked = s.timeLocked := rfl
@[simp] theorem State.setPoison_timeJoined (s : State) (u : Nat) (m : Bool) : (s.setPoison u m).timeJoined = s.timeJoined := rfl
@[simp] theorem State.setPoison_timeOffset (s : State) (u : Nat) (m : Bool) : (s.setPoison u m).timeOffset = s.timeOffset := rfl
@[simp] theorem State.setPoison_offered (s : State) (u : Nat) (m : Bool) : (s.setPoison u m).offered = s.offered := rfl
@[simp] theorem State.setPoison_accepted (s : State) (u : Nat) (m : Bool) : (s.setPoison u m).accepted = s.accepted := rfl
@[simp] theorem State.setPoison_featuresTried (s : State) (u : Nat) (m : Bool) : (s.setPoison u m).featuresTried = s.featuresTried := rfl
@[simp] theorem State.setPoison_adminBase (s : State) (u : Nat) (m : Bool) : (s.setPoison u m).adminBase = s.adminBase := rfl
@[simp] theorem State.setPoison_adminTail (s : State) (u : Nat) (m : Bool) : (s.setPoison u m).adminTail = s.adminTail := rfl
@[simp] theorem State.setPoison_adminHead (s : State) (u : Nat) (m : Bool) : (s.setPoison u m).adminHead = s.adminHead := rfl
@[simp] theorem State.setPoison_completions (s : State) (u : Nat) (m : Bool) : (s.setPoison u m).completions = s.completions := rfl
@[simp] theorem State.setPoison_msix (s : State) (u : Nat) (m : Bool) : (s.setPoison u m).msix = s.msix := rfl
@[simp] theorem State.setPoison_powerCap (s : State) (u : Nat) (m : Bool) : (s.setPoison u m).powerCap = s.powerCap := rfl
@[simp] theorem State.setPoison_overCap (s : State) (u : Nat) (m : Bool) : (s.setPoison u m).overCap = s.overCap := rfl
@[simp] theorem State.setPoison_banks (s : State) (u : Nat) (m : Bool) : (s.setPoison u m).banks = s.banks := rfl
@[simp] theorem State.setPoison_bank (s : State) (u : Nat) (m : Bool) : (s.setPoison u m).bank = s.bank := rfl
@[simp] theorem State.setPoison_nextBank (s : State) (u : Nat) (m : Bool) : (s.setPoison u m).nextBank = s.nextBank := rfl
@[simp] theorem State.setPoison_fusedRollback (s : State) (u : Nat) (m : Bool) : (s.setPoison u m).fusedRollback = s.fusedRollback := rfl
@[simp] theorem State.setPoison_resets (s : State) (u : Nat) (m : Bool) : (s.setPoison u m).resets = s.resets := rfl
@[simp] theorem State.setPoison_refusedFlags (s : State) (u : Nat) (m : Bool) : (s.setPoison u m).refusedFlags = s.refusedFlags := rfl
@[simp] theorem State.setPoison_skippedRecords (s : State) (u : Nat) (m : Bool) : (s.setPoison u m).skippedRecords = s.skippedRecords := rfl
@[simp] theorem State.setPoison_doubleFaults (s : State) (u : Nat) (m : Bool) : (s.setPoison u m).doubleFaults = s.doubleFaults := rfl
@[simp] theorem State.setPoison_badDoorbells (s : State) (u : Nat) (m : Bool) : (s.setPoison u m).badDoorbells = s.badDoorbells := rfl
@[simp] theorem State.setPoison_hostMem (s : State) (u : Nat) (m : Bool) : (s.setPoison u m).hostMem = s.hostMem := rfl
@[simp] theorem State.setPoison_mailbox (s : State) (u : Nat) (m : Bool) : (s.setPoison u m).mailbox = s.mailbox := rfl
@[simp] theorem State.setPoison_spdm (s : State) (u : Nat) (m : Bool) : (s.setPoison u m).spdm = s.spdm := rfl
@[simp] theorem State.setPoison_algorithms (s : State) (u : Nat) (m : Bool) : (s.setPoison u m).algorithms = s.algorithms := rfl
@[simp] theorem State.setPoison_combined (s : State) (u : Nat) (m : Bool) : (s.setPoison u m).combined = s.combined := rfl
@[simp] theorem State.setPoison_outbox (s : State) (u : Nat) (m : Bool) : (s.setPoison u m).outbox = s.outbox := rfl
@[simp] theorem State.setPoison_routed (s : State) (u : Nat) (m : Bool) : (s.setPoison u m).routed = s.routed := rfl
@[simp] theorem State.setPoison_turn (s : State) (u : Nat) (m : Bool) : (s.setPoison u m).turn = s.turn := rfl
@[simp] theorem State.setPoison_eventNext (s : State) (u : Nat) (m : Bool) : (s.setPoison u m).eventNext = s.eventNext := rfl
@[simp] theorem State.setPoison_iss (s : State) (u : Nat) (m : Bool) : (s.setPoison u m).iss = s.iss := rfl
@[simp] theorem State.setPoison_agenda (s : State) (u : Nat) (m : Bool) : (s.setPoison u m).agenda = s.agenda := rfl
@[simp] theorem State.setPoison_freeUse (s : State) (u : Nat) (m : Bool) : (s.setPoison u m).freeUse = s.freeUse := rfl

/-! ### State.setDesc -/

@[simp] theorem State.setDesc_peer (s : State) (t : BitVec 40) (d : Desc) : (s.setDesc t d).peer = s.peer := rfl
@[simp] theorem State.setDesc_cycle (s : State) (t : BitVec 40) (d : Desc) : (s.setDesc t d).cycle = s.cycle := rfl
@[simp] theorem State.setDesc_ticks (s : State) (t : BitVec 40) (d : Desc) : (s.setDesc t d).ticks = s.ticks := rfl
@[simp] theorem State.setDesc_mhz (s : State) (t : BitVec 40) (d : Desc) : (s.setDesc t d).mhz = s.mhz := rfl
@[simp] theorem State.setDesc_cores (s : State) (t : BitVec 40) (d : Desc) : (s.setDesc t d).cores = s.cores := rfl
@[simp] theorem State.setDesc_courseBars (s : State) (t : BitVec 40) (d : Desc) : (s.setDesc t d).courseBars = s.courseBars := rfl
@[simp] theorem State.setDesc_mem (s : State) (t : BitVec 40) (d : Desc) : (s.setDesc t d).mem = s.mem := rfl
@[simp] theorem State.setDesc_tags (s : State) (t : BitVec 40) (d : Desc) : (s.setDesc t d).tags = s.tags := rfl
@[simp] theorem State.setDesc_poison (s : State) (t : BitVec 40) (d : Desc) : (s.setDesc t d).poison = s.poison := rfl
@[simp] theorem State.setDesc_spans (s : State) (t : BitVec 40) (d : Desc) : (s.setDesc t d).spans = s.spans := rfl
@[simp] theorem State.setDesc_oldBlocks (s : State) (t : BitVec 40) (d : Desc) : (s.setDesc t d).oldBlocks = s.oldBlocks := rfl
@[simp] theorem State.setDesc_slips (s : State) (t : BitVec 40) (d : Desc) : (s.setDesc t d).slips = s.slips := rfl
@[simp] theorem State.setDesc_ecc (s : State) (t : BitVec 40) (d : Desc) : (s.setDesc t d).ecc = s.ecc := rfl
@[simp] theorem State.setDesc_dir (s : State) (t : BitVec 40) (d : Desc) : (s.setDesc t d).dir = s.dir := rfl
@[simp] theorem State.setDesc_halves (s : State) (t : BitVec 40) (d : Desc) : (s.setDesc t d).halves = s.halves := rfl
@[simp] theorem State.setDesc_incOwn (s : State) (t : BitVec 40) (d : Desc) : (s.setDesc t d).incOwn = s.incOwn := rfl
@[simp] theorem State.setDesc_incHome (s : State) (t : BitVec 40) (d : Desc) : (s.setDesc t d).incHome = s.incHome := rfl
@[simp] theorem State.setDesc_snaps (s : State) (t : BitVec 40) (d : Desc) : (s.setDesc t d).snaps = s.snaps := rfl
@[simp] theorem State.setDesc_snapGen (s : State) (t : BitVec 40) (d : Desc) : (s.setDesc t d).snapGen = s.snapGen := rfl
@[simp] theorem State.setDesc_shadows (s : State) (t : BitVec 40) (d : Desc) : (s.setDesc t d).shadows = s.shadows := rfl
@[simp] theorem State.setDesc_homeWait (s : State) (t : BitVec 40) (d : Desc) : (s.setDesc t d).homeWait = s.homeWait := rfl
@[simp] theorem State.setDesc_homeServes (s : State) (t : BitVec 40) (d : Desc) : (s.setDesc t d).homeServes = s.homeServes := rfl
@[simp] theorem State.setDesc_reserves (s : State) (t : BitVec 40) (d : Desc) : (s.setDesc t d).reserves = s.reserves := rfl
@[simp] theorem State.setDesc_refillAsked (s : State) (t : BitVec 40) (d : Desc) : (s.setDesc t d).refillAsked = s.refillAsked := rfl
@[simp] theorem State.setDesc_refillHeld (s : State) (t : BitVec 40) (d : Desc) : (s.setDesc t d).refillHeld = s.refillHeld := rfl
@[simp] theorem State.setDesc_scaleUses (s : State) (t : BitVec 40) (d : Desc) : (s.setDesc t d).scaleUses = s.scaleUses := rfl
@[simp] theorem State.setDesc_entryAge (s : State) (t : BitVec 40) (d : Desc) : (s.setDesc t d).entryAge = s.entryAge := rfl
@[simp] theorem State.setDesc_leasemax (s : State) (t : BitVec 40) (d : Desc) : (s.setDesc t d).leasemax = s.leasemax := rfl
@[simp] theorem State.setDesc_fwLen (s : State) (t : BitVec 40) (d : Desc) : (s.setDesc t d).fwLen = s.fwLen := rfl
@[simp] theorem State.setDesc_fwEn (s : State) (t : BitVec 40) (d : Desc) : (s.setDesc t d).fwEn = s.fwEn := rfl
@[simp] theorem State.setDesc_fwShare (s : State) (t : BitVec 40) (d : Desc) : (s.setDesc t d).fwShare = s.fwShare := rfl
@[simp] theorem State.setDesc_slots (s : State) (t : BitVec 40) (d : Desc) : (s.setDesc t d).slots = s.slots := rfl
@[simp] theorem State.setDesc_partition (s : State) (t : BitVec 40) (d : Desc) : (s.setDesc t d).partition = s.partition := rfl
@[simp] theorem State.setDesc_exports (s : State) (t : BitVec 40) (d : Desc) : (s.setDesc t d).exports = s.exports := rfl
@[simp] theorem State.setDesc_cabling (s : State) (t : BitVec 40) (d : Desc) : (s.setDesc t d).cabling = s.cabling := rfl
@[simp] theorem State.setDesc_population (s : State) (t : BitVec 40) (d : Desc) : (s.setDesc t d).population = s.population := rfl
@[simp] theorem State.setDesc_disabledPeers (s : State) (t : BitVec 40) (d : Desc) : (s.setDesc t d).disabledPeers = s.disabledPeers := rfl
@[simp] theorem State.setDesc_disabledCores (s : State) (t : BitVec 40) (d : Desc) : (s.setDesc t d).disabledCores = s.disabledCores := rfl
@[simp] theorem State.setDesc_resTail (s : State) (t : BitVec 40) (d : Desc) : (s.setDesc t d).resTail = s.resTail := rfl
@[simp] theorem State.setDesc_resHead (s : State) (t : BitVec 40) (d : Desc) : (s.setDesc t d).resHead = s.resHead := rfl
@[simp] theorem State.setDesc_resRing (s : State) (t : BitVec 40) (d : Desc) : (s.setDesc t d).resRing = s.resRing := rfl
@[simp] theorem State.setDesc_resHeld (s : State) (t : BitVec 40) (d : Desc) : (s.setDesc t d).resHeld = s.resHeld := rfl
@[simp] theorem State.setDesc_launches (s : State) (t : BitVec 40) (d : Desc) : (s.setDesc t d).launches = s.launches := rfl
@[simp] theorem State.setDesc_nextLaunch (s : State) (t : BitVec 40) (d : Desc) : (s.setDesc t d).nextLaunch = s.nextLaunch := rfl
@[simp] theorem State.setDesc_slotTurn (s : State) (t : BitVec 40) (d : Desc) : (s.setDesc t d).slotTurn = s.slotTurn := rfl
@[simp] theorem State.setDesc_frontAsked (s : State) (t : BitVec 40) (d : Desc) : (s.setDesc t d).frontAsked = s.frontAsked := rfl
@[simp] theorem State.setDesc_frontGot (s : State) (t : BitVec 40) (d : Desc) : (s.setDesc t d).frontGot = s.frontGot := rfl
@[simp] theorem State.setDesc_agree (s : State) (t : BitVec 40) (d : Desc) : (s.setDesc t d).agree = s.agree := rfl
@[simp] theorem State.setDesc_heard (s : State) (t : BitVec 40) (d : Desc) : (s.setDesc t d).heard = s.heard := rfl
@[simp] theorem State.setDesc_links (s : State) (t : BitVec 40) (d : Desc) : (s.setDesc t d).links = s.links := rfl
@[simp] theorem State.setDesc_timeLocked (s : State) (t : BitVec 40) (d : Desc) : (s.setDesc t d).timeLocked = s.timeLocked := rfl
@[simp] theorem State.setDesc_timeJoined (s : State) (t : BitVec 40) (d : Desc) : (s.setDesc t d).timeJoined = s.timeJoined := rfl
@[simp] theorem State.setDesc_timeOffset (s : State) (t : BitVec 40) (d : Desc) : (s.setDesc t d).timeOffset = s.timeOffset := rfl
@[simp] theorem State.setDesc_offered (s : State) (t : BitVec 40) (d : Desc) : (s.setDesc t d).offered = s.offered := rfl
@[simp] theorem State.setDesc_accepted (s : State) (t : BitVec 40) (d : Desc) : (s.setDesc t d).accepted = s.accepted := rfl
@[simp] theorem State.setDesc_featuresTried (s : State) (t : BitVec 40) (d : Desc) : (s.setDesc t d).featuresTried = s.featuresTried := rfl
@[simp] theorem State.setDesc_adminBase (s : State) (t : BitVec 40) (d : Desc) : (s.setDesc t d).adminBase = s.adminBase := rfl
@[simp] theorem State.setDesc_adminTail (s : State) (t : BitVec 40) (d : Desc) : (s.setDesc t d).adminTail = s.adminTail := rfl
@[simp] theorem State.setDesc_adminHead (s : State) (t : BitVec 40) (d : Desc) : (s.setDesc t d).adminHead = s.adminHead := rfl
@[simp] theorem State.setDesc_completions (s : State) (t : BitVec 40) (d : Desc) : (s.setDesc t d).completions = s.completions := rfl
@[simp] theorem State.setDesc_msix (s : State) (t : BitVec 40) (d : Desc) : (s.setDesc t d).msix = s.msix := rfl
@[simp] theorem State.setDesc_powerCap (s : State) (t : BitVec 40) (d : Desc) : (s.setDesc t d).powerCap = s.powerCap := rfl
@[simp] theorem State.setDesc_overCap (s : State) (t : BitVec 40) (d : Desc) : (s.setDesc t d).overCap = s.overCap := rfl
@[simp] theorem State.setDesc_banks (s : State) (t : BitVec 40) (d : Desc) : (s.setDesc t d).banks = s.banks := rfl
@[simp] theorem State.setDesc_bank (s : State) (t : BitVec 40) (d : Desc) : (s.setDesc t d).bank = s.bank := rfl
@[simp] theorem State.setDesc_nextBank (s : State) (t : BitVec 40) (d : Desc) : (s.setDesc t d).nextBank = s.nextBank := rfl
@[simp] theorem State.setDesc_fusedRollback (s : State) (t : BitVec 40) (d : Desc) : (s.setDesc t d).fusedRollback = s.fusedRollback := rfl
@[simp] theorem State.setDesc_resets (s : State) (t : BitVec 40) (d : Desc) : (s.setDesc t d).resets = s.resets := rfl
@[simp] theorem State.setDesc_refusedFlags (s : State) (t : BitVec 40) (d : Desc) : (s.setDesc t d).refusedFlags = s.refusedFlags := rfl
@[simp] theorem State.setDesc_skippedRecords (s : State) (t : BitVec 40) (d : Desc) : (s.setDesc t d).skippedRecords = s.skippedRecords := rfl
@[simp] theorem State.setDesc_doubleFaults (s : State) (t : BitVec 40) (d : Desc) : (s.setDesc t d).doubleFaults = s.doubleFaults := rfl
@[simp] theorem State.setDesc_badDoorbells (s : State) (t : BitVec 40) (d : Desc) : (s.setDesc t d).badDoorbells = s.badDoorbells := rfl
@[simp] theorem State.setDesc_hostMem (s : State) (t : BitVec 40) (d : Desc) : (s.setDesc t d).hostMem = s.hostMem := rfl
@[simp] theorem State.setDesc_mailbox (s : State) (t : BitVec 40) (d : Desc) : (s.setDesc t d).mailbox = s.mailbox := rfl
@[simp] theorem State.setDesc_spdm (s : State) (t : BitVec 40) (d : Desc) : (s.setDesc t d).spdm = s.spdm := rfl
@[simp] theorem State.setDesc_algorithms (s : State) (t : BitVec 40) (d : Desc) : (s.setDesc t d).algorithms = s.algorithms := rfl
@[simp] theorem State.setDesc_combined (s : State) (t : BitVec 40) (d : Desc) : (s.setDesc t d).combined = s.combined := rfl
@[simp] theorem State.setDesc_outbox (s : State) (t : BitVec 40) (d : Desc) : (s.setDesc t d).outbox = s.outbox := rfl
@[simp] theorem State.setDesc_routed (s : State) (t : BitVec 40) (d : Desc) : (s.setDesc t d).routed = s.routed := rfl
@[simp] theorem State.setDesc_turn (s : State) (t : BitVec 40) (d : Desc) : (s.setDesc t d).turn = s.turn := rfl
@[simp] theorem State.setDesc_eventNext (s : State) (t : BitVec 40) (d : Desc) : (s.setDesc t d).eventNext = s.eventNext := rfl
@[simp] theorem State.setDesc_iss (s : State) (t : BitVec 40) (d : Desc) : (s.setDesc t d).iss = s.iss := rfl
@[simp] theorem State.setDesc_agenda (s : State) (t : BitVec 40) (d : Desc) : (s.setDesc t d).agenda = s.agenda := rfl
@[simp] theorem State.setDesc_freeUse (s : State) (t : BitVec 40) (d : Desc) : (s.setDesc t d).freeUse = s.freeUse := rfl

/-! ### Core.modCtx -/

@[simp] theorem Core.modCtx_ls (k : Core) (x : Nat) (f : Ctx → Ctx) : (k.modCtx x f).ls = k.ls := rfl
@[simp] theorem Core.modCtx_lsTags (k : Core) (x : Nat) (f : Ctx → Ctx) : (k.modCtx x f).lsTags = k.lsTags := rfl
@[simp] theorem Core.modCtx_full (k : Core) (x : Nat) (f : Ctx → Ctx) : (k.modCtx x f).full = k.full := rfl
@[simp] theorem Core.modCtx_barcfg (k : Core) (x : Nat) (f : Ctx → Ctx) : (k.modCtx x f).barcfg = k.barcfg := rfl
@[simp] theorem Core.modCtx_bars (k : Core) (x : Nat) (f : Ctx → Ctx) : (k.modCtx x f).bars = k.bars := rfl
@[simp] theorem Core.modCtx_frames (k : Core) (x : Nat) (f : Ctx → Ctx) : (k.modCtx x f).frames = k.frames := rfl
@[simp] theorem Core.modCtx_l1 (k : Core) (x : Nat) (f : Ctx → Ctx) : (k.modCtx x f).l1 = k.l1 := rfl
@[simp] theorem Core.modCtx_heldProbes (k : Core) (x : Nat) (f : Ctx → Ctx) : (k.modCtx x f).heldProbes = k.heldProbes := rfl
@[simp] theorem Core.modCtx_cmds (k : Core) (x : Nat) (f : Ctx → Ctx) : (k.modCtx x f).cmds = k.cmds := rfl
@[simp] theorem Core.modCtx_nextSerial (k : Core) (x : Nat) (f : Ctx → Ctx) : (k.modCtx x f).nextSerial = k.nextSerial := rfl
@[simp] theorem Core.modCtx_enginePair (k : Core) (x : Nat) (f : Ctx → Ctx) : (k.modCtx x f).enginePair = k.enginePair := rfl
@[simp] theorem Core.modCtx_arrivals (k : Core) (x : Nat) (f : Ctx → Ctx) : (k.modCtx x f).arrivals = k.arrivals := rfl
@[simp] theorem Core.modCtx_strays (k : Core) (x : Nat) (f : Ctx → Ctx) : (k.modCtx x f).strays = k.strays := rfl
@[simp] theorem Core.modCtx_pins (k : Core) (x : Nat) (f : Ctx → Ctx) : (k.modCtx x f).pins = k.pins := rfl
@[simp] theorem Core.modCtx_frozen (k : Core) (x : Nat) (f : Ctx → Ctx) : (k.modCtx x f).frozen = k.frozen := rfl
@[simp] theorem Core.modCtx_lastTask (k : Core) (x : Nat) (f : Ctx → Ctx) : (k.modCtx x f).lastTask = k.lastTask := rfl
@[simp] theorem Core.modCtx_sinceFw (k : Core) (x : Nat) (f : Ctx → Ctx) : (k.modCtx x f).sinceFw = k.sinceFw := rfl
@[simp] theorem Core.modCtx_saved (k : Core) (x : Nat) (f : Ctx → Ctx) : (k.modCtx x f).saved = k.saved := rfl
@[simp] theorem Core.modCtx_savedDrops (k : Core) (x : Nat) (f : Ctx → Ctx) : (k.modCtx x f).savedDrops = k.savedDrops := rfl
@[simp] theorem Core.modCtx_copyTurn (k : Core) (x : Nat) (f : Ctx → Ctx) : (k.modCtx x f).copyTurn = k.copyTurn := rfl
@[simp] theorem Core.modCtx_fwOld (k : Core) (x : Nat) (f : Ctx → Ctx) : (k.modCtx x f).fwOld = k.fwOld := rfl
@[simp] theorem Core.modCtx_gated (k : Core) (x : Nat) (f : Ctx → Ctx) : (k.modCtx x f).gated = k.gated := rfl
@[simp] theorem Core.modCtx_capGated (k : Core) (x : Nat) (f : Ctx → Ctx) : (k.modCtx x f).capGated = k.capGated := rfl
@[simp] theorem Core.modCtx_idleSince (k : Core) (x : Nat) (f : Ctx → Ctx) : (k.modCtx x f).idleSince = k.idleSince := rfl
@[simp] theorem Core.modCtx_trace (k : Core) (x : Nat) (f : Ctx → Ctx) : (k.modCtx x f).trace = k.trace := rfl
@[simp] theorem Core.modCtx_traceState (k : Core) (x : Nat) (f : Ctx → Ctx) : (k.modCtx x f).traceState = k.traceState := rfl
@[simp] theorem Core.modCtx_traceBuf (k : Core) (x : Nat) (f : Ctx → Ctx) : (k.modCtx x f).traceBuf = k.traceBuf := rfl

/-! ### Core.lsSet -/

@[simp] theorem Core.lsSet_ctxs (k : Core) (o : Nat) (v : Byte) : (k.lsSet o v).ctxs = k.ctxs := rfl
@[simp] theorem Core.lsSet_lsTags (k : Core) (o : Nat) (v : Byte) : (k.lsSet o v).lsTags = k.lsTags := rfl
@[simp] theorem Core.lsSet_full (k : Core) (o : Nat) (v : Byte) : (k.lsSet o v).full = k.full := rfl
@[simp] theorem Core.lsSet_barcfg (k : Core) (o : Nat) (v : Byte) : (k.lsSet o v).barcfg = k.barcfg := rfl
@[simp] theorem Core.lsSet_bars (k : Core) (o : Nat) (v : Byte) : (k.lsSet o v).bars = k.bars := rfl
@[simp] theorem Core.lsSet_frames (k : Core) (o : Nat) (v : Byte) : (k.lsSet o v).frames = k.frames := rfl
@[simp] theorem Core.lsSet_l1 (k : Core) (o : Nat) (v : Byte) : (k.lsSet o v).l1 = k.l1 := rfl
@[simp] theorem Core.lsSet_heldProbes (k : Core) (o : Nat) (v : Byte) : (k.lsSet o v).heldProbes = k.heldProbes := rfl
@[simp] theorem Core.lsSet_cmds (k : Core) (o : Nat) (v : Byte) : (k.lsSet o v).cmds = k.cmds := rfl
@[simp] theorem Core.lsSet_nextSerial (k : Core) (o : Nat) (v : Byte) : (k.lsSet o v).nextSerial = k.nextSerial := rfl
@[simp] theorem Core.lsSet_enginePair (k : Core) (o : Nat) (v : Byte) : (k.lsSet o v).enginePair = k.enginePair := rfl
@[simp] theorem Core.lsSet_arrivals (k : Core) (o : Nat) (v : Byte) : (k.lsSet o v).arrivals = k.arrivals := rfl
@[simp] theorem Core.lsSet_strays (k : Core) (o : Nat) (v : Byte) : (k.lsSet o v).strays = k.strays := rfl
@[simp] theorem Core.lsSet_pins (k : Core) (o : Nat) (v : Byte) : (k.lsSet o v).pins = k.pins := rfl
@[simp] theorem Core.lsSet_frozen (k : Core) (o : Nat) (v : Byte) : (k.lsSet o v).frozen = k.frozen := rfl
@[simp] theorem Core.lsSet_lastTask (k : Core) (o : Nat) (v : Byte) : (k.lsSet o v).lastTask = k.lastTask := rfl
@[simp] theorem Core.lsSet_sinceFw (k : Core) (o : Nat) (v : Byte) : (k.lsSet o v).sinceFw = k.sinceFw := rfl
@[simp] theorem Core.lsSet_saved (k : Core) (o : Nat) (v : Byte) : (k.lsSet o v).saved = k.saved := rfl
@[simp] theorem Core.lsSet_savedDrops (k : Core) (o : Nat) (v : Byte) : (k.lsSet o v).savedDrops = k.savedDrops := rfl
@[simp] theorem Core.lsSet_copyTurn (k : Core) (o : Nat) (v : Byte) : (k.lsSet o v).copyTurn = k.copyTurn := rfl
@[simp] theorem Core.lsSet_fwOld (k : Core) (o : Nat) (v : Byte) : (k.lsSet o v).fwOld = k.fwOld := rfl
@[simp] theorem Core.lsSet_gated (k : Core) (o : Nat) (v : Byte) : (k.lsSet o v).gated = k.gated := rfl
@[simp] theorem Core.lsSet_capGated (k : Core) (o : Nat) (v : Byte) : (k.lsSet o v).capGated = k.capGated := rfl
@[simp] theorem Core.lsSet_idleSince (k : Core) (o : Nat) (v : Byte) : (k.lsSet o v).idleSince = k.idleSince := rfl
@[simp] theorem Core.lsSet_trace (k : Core) (o : Nat) (v : Byte) : (k.lsSet o v).trace = k.trace := rfl
@[simp] theorem Core.lsSet_traceState (k : Core) (o : Nat) (v : Byte) : (k.lsSet o v).traceState = k.traceState := rfl
@[simp] theorem Core.lsSet_traceBuf (k : Core) (o : Nat) (v : Byte) : (k.lsSet o v).traceBuf = k.traceBuf := rfl

/-! ### Core.lsSetTag -/

@[simp] theorem Core.lsSetTag_ctxs (k : Core) (o : Nat) (t : Bool) : (k.lsSetTag o t).ctxs = k.ctxs := rfl
@[simp] theorem Core.lsSetTag_ls (k : Core) (o : Nat) (t : Bool) : (k.lsSetTag o t).ls = k.ls := rfl
@[simp] theorem Core.lsSetTag_full (k : Core) (o : Nat) (t : Bool) : (k.lsSetTag o t).full = k.full := rfl
@[simp] theorem Core.lsSetTag_barcfg (k : Core) (o : Nat) (t : Bool) : (k.lsSetTag o t).barcfg = k.barcfg := rfl
@[simp] theorem Core.lsSetTag_bars (k : Core) (o : Nat) (t : Bool) : (k.lsSetTag o t).bars = k.bars := rfl
@[simp] theorem Core.lsSetTag_frames (k : Core) (o : Nat) (t : Bool) : (k.lsSetTag o t).frames = k.frames := rfl
@[simp] theorem Core.lsSetTag_l1 (k : Core) (o : Nat) (t : Bool) : (k.lsSetTag o t).l1 = k.l1 := rfl
@[simp] theorem Core.lsSetTag_heldProbes (k : Core) (o : Nat) (t : Bool) : (k.lsSetTag o t).heldProbes = k.heldProbes := rfl
@[simp] theorem Core.lsSetTag_cmds (k : Core) (o : Nat) (t : Bool) : (k.lsSetTag o t).cmds = k.cmds := rfl
@[simp] theorem Core.lsSetTag_nextSerial (k : Core) (o : Nat) (t : Bool) : (k.lsSetTag o t).nextSerial = k.nextSerial := rfl
@[simp] theorem Core.lsSetTag_enginePair (k : Core) (o : Nat) (t : Bool) : (k.lsSetTag o t).enginePair = k.enginePair := rfl
@[simp] theorem Core.lsSetTag_arrivals (k : Core) (o : Nat) (t : Bool) : (k.lsSetTag o t).arrivals = k.arrivals := rfl
@[simp] theorem Core.lsSetTag_strays (k : Core) (o : Nat) (t : Bool) : (k.lsSetTag o t).strays = k.strays := rfl
@[simp] theorem Core.lsSetTag_pins (k : Core) (o : Nat) (t : Bool) : (k.lsSetTag o t).pins = k.pins := rfl
@[simp] theorem Core.lsSetTag_frozen (k : Core) (o : Nat) (t : Bool) : (k.lsSetTag o t).frozen = k.frozen := rfl
@[simp] theorem Core.lsSetTag_lastTask (k : Core) (o : Nat) (t : Bool) : (k.lsSetTag o t).lastTask = k.lastTask := rfl
@[simp] theorem Core.lsSetTag_sinceFw (k : Core) (o : Nat) (t : Bool) : (k.lsSetTag o t).sinceFw = k.sinceFw := rfl
@[simp] theorem Core.lsSetTag_saved (k : Core) (o : Nat) (t : Bool) : (k.lsSetTag o t).saved = k.saved := rfl
@[simp] theorem Core.lsSetTag_savedDrops (k : Core) (o : Nat) (t : Bool) : (k.lsSetTag o t).savedDrops = k.savedDrops := rfl
@[simp] theorem Core.lsSetTag_copyTurn (k : Core) (o : Nat) (t : Bool) : (k.lsSetTag o t).copyTurn = k.copyTurn := rfl
@[simp] theorem Core.lsSetTag_fwOld (k : Core) (o : Nat) (t : Bool) : (k.lsSetTag o t).fwOld = k.fwOld := rfl
@[simp] theorem Core.lsSetTag_gated (k : Core) (o : Nat) (t : Bool) : (k.lsSetTag o t).gated = k.gated := rfl
@[simp] theorem Core.lsSetTag_capGated (k : Core) (o : Nat) (t : Bool) : (k.lsSetTag o t).capGated = k.capGated := rfl
@[simp] theorem Core.lsSetTag_idleSince (k : Core) (o : Nat) (t : Bool) : (k.lsSetTag o t).idleSince = k.idleSince := rfl
@[simp] theorem Core.lsSetTag_trace (k : Core) (o : Nat) (t : Bool) : (k.lsSetTag o t).trace = k.trace := rfl
@[simp] theorem Core.lsSetTag_traceState (k : Core) (o : Nat) (t : Bool) : (k.lsSetTag o t).traceState = k.traceState := rfl
@[simp] theorem Core.lsSetTag_traceBuf (k : Core) (o : Nat) (t : Bool) : (k.lsSetTag o t).traceBuf = k.traceBuf := rfl

/-! ### Core.setFull -/

@[simp] theorem Core.setFull_ctxs (k : Core) (o : Nat) (f : Bool) : (k.setFull o f).ctxs = k.ctxs := rfl
@[simp] theorem Core.setFull_ls (k : Core) (o : Nat) (f : Bool) : (k.setFull o f).ls = k.ls := rfl
@[simp] theorem Core.setFull_lsTags (k : Core) (o : Nat) (f : Bool) : (k.setFull o f).lsTags = k.lsTags := rfl
@[simp] theorem Core.setFull_barcfg (k : Core) (o : Nat) (f : Bool) : (k.setFull o f).barcfg = k.barcfg := rfl
@[simp] theorem Core.setFull_bars (k : Core) (o : Nat) (f : Bool) : (k.setFull o f).bars = k.bars := rfl
@[simp] theorem Core.setFull_frames (k : Core) (o : Nat) (f : Bool) : (k.setFull o f).frames = k.frames := rfl
@[simp] theorem Core.setFull_l1 (k : Core) (o : Nat) (f : Bool) : (k.setFull o f).l1 = k.l1 := rfl
@[simp] theorem Core.setFull_heldProbes (k : Core) (o : Nat) (f : Bool) : (k.setFull o f).heldProbes = k.heldProbes := rfl
@[simp] theorem Core.setFull_cmds (k : Core) (o : Nat) (f : Bool) : (k.setFull o f).cmds = k.cmds := rfl
@[simp] theorem Core.setFull_nextSerial (k : Core) (o : Nat) (f : Bool) : (k.setFull o f).nextSerial = k.nextSerial := rfl
@[simp] theorem Core.setFull_enginePair (k : Core) (o : Nat) (f : Bool) : (k.setFull o f).enginePair = k.enginePair := rfl
@[simp] theorem Core.setFull_arrivals (k : Core) (o : Nat) (f : Bool) : (k.setFull o f).arrivals = k.arrivals := rfl
@[simp] theorem Core.setFull_strays (k : Core) (o : Nat) (f : Bool) : (k.setFull o f).strays = k.strays := rfl
@[simp] theorem Core.setFull_pins (k : Core) (o : Nat) (f : Bool) : (k.setFull o f).pins = k.pins := rfl
@[simp] theorem Core.setFull_frozen (k : Core) (o : Nat) (f : Bool) : (k.setFull o f).frozen = k.frozen := rfl
@[simp] theorem Core.setFull_lastTask (k : Core) (o : Nat) (f : Bool) : (k.setFull o f).lastTask = k.lastTask := rfl
@[simp] theorem Core.setFull_sinceFw (k : Core) (o : Nat) (f : Bool) : (k.setFull o f).sinceFw = k.sinceFw := rfl
@[simp] theorem Core.setFull_saved (k : Core) (o : Nat) (f : Bool) : (k.setFull o f).saved = k.saved := rfl
@[simp] theorem Core.setFull_savedDrops (k : Core) (o : Nat) (f : Bool) : (k.setFull o f).savedDrops = k.savedDrops := rfl
@[simp] theorem Core.setFull_copyTurn (k : Core) (o : Nat) (f : Bool) : (k.setFull o f).copyTurn = k.copyTurn := rfl
@[simp] theorem Core.setFull_fwOld (k : Core) (o : Nat) (f : Bool) : (k.setFull o f).fwOld = k.fwOld := rfl
@[simp] theorem Core.setFull_gated (k : Core) (o : Nat) (f : Bool) : (k.setFull o f).gated = k.gated := rfl
@[simp] theorem Core.setFull_capGated (k : Core) (o : Nat) (f : Bool) : (k.setFull o f).capGated = k.capGated := rfl
@[simp] theorem Core.setFull_idleSince (k : Core) (o : Nat) (f : Bool) : (k.setFull o f).idleSince = k.idleSince := rfl
@[simp] theorem Core.setFull_trace (k : Core) (o : Nat) (f : Bool) : (k.setFull o f).trace = k.trace := rfl
@[simp] theorem Core.setFull_traceState (k : Core) (o : Nat) (f : Bool) : (k.setFull o f).traceState = k.traceState := rfl
@[simp] theorem Core.setFull_traceBuf (k : Core) (o : Nat) (f : Bool) : (k.setFull o f).traceBuf = k.traceBuf := rfl

/-! ### Ctx.setA -/

@[simp] theorem Ctx.setA_pc (x : Ctx) (n : Nat) (v : Word) : (x.setA n v).pc = x.pc := rfl
@[simp] theorem Ctx.setA_run (x : Ctx) (n : Nat) (v : Word) : (x.setA n v).run = x.run := rfl
@[simp] theorem Ctx.setA_task (x : Ctx) (n : Nat) (v : Word) : (x.setA n v).task = x.task := rfl
@[simp] theorem Ctx.setA_rank (x : Ctx) (n : Nat) (v : Word) : (x.setA n v).rank = x.rank := rfl
@[simp] theorem Ctx.setA_nranks (x : Ctx) (n : Nat) (v : Word) : (x.setA n v).nranks = x.nranks := rfl
@[simp] theorem Ctx.setA_argp (x : Ctx) (n : Nat) (v : Word) : (x.setA n v).argp = x.argp := rfl
@[simp] theorem Ctx.setA_asid (x : Ctx) (n : Nat) (v : Word) : (x.setA n v).asid = x.asid := rfl
@[simp] theorem Ctx.setA_lsbase (x : Ctx) (n : Nat) (v : Word) : (x.setA n v).lsbase = x.lsbase := rfl
@[simp] theorem Ctx.setA_lslen (x : Ctx) (n : Nat) (v : Word) : (x.setA n v).lslen = x.lslen := rfl
@[simp] theorem Ctx.setA_fflags (x : Ctx) (n : Nat) (v : Word) : (x.setA n v).fflags = x.fflags := rfl
@[simp] theorem Ctx.setA_check (x : Ctx) (n : Nat) (v : Word) : (x.setA n v).check = x.check := rfl
@[simp] theorem Ctx.setA_nfmt (x : Ctx) (n : Nat) (v : Word) : (x.setA n v).nfmt = x.nfmt := rfl
@[simp] theorem Ctx.setA_tvecRec (x : Ctx) (n : Nat) (v : Word) : (x.setA n v).tvecRec = x.tvecRec := rfl
@[simp] theorem Ctx.setA_tvecHandler (x : Ctx) (n : Nat) (v : Word) : (x.setA n v).tvecHandler = x.tvecHandler := rfl
@[simp] theorem Ctx.setA_gstat (x : Ctx) (n : Nat) (v : Word) : (x.setA n v).gstat = x.gstat := rfl
@[simp] theorem Ctx.setA_gtimeout (x : Ctx) (n : Nat) (v : Word) : (x.setA n v).gtimeout = x.gtimeout := rfl
@[simp] theorem Ctx.setA_pair (x : Ctx) (n : Nat) (v : Word) : (x.setA n v).pair = x.pair := rfl
@[simp] theorem Ctx.setA_loops (x : Ctx) (n : Nat) (v : Word) : (x.setA n v).loops = x.loops := rfl
@[simp] theorem Ctx.setA_vflags (x : Ctx) (n : Nat) (v : Word) : (x.setA n v).vflags = x.vflags := rfl
@[simp] theorem Ctx.setA_openSet (x : Ctx) (n : Nat) (v : Word) : (x.setA n v).openSet = x.openSet := rfl
@[simp] theorem Ctx.setA_leases (x : Ctx) (n : Nat) (v : Word) : (x.setA n v).leases = x.leases := rfl
@[simp] theorem Ctx.setA_barGen (x : Ctx) (n : Nat) (v : Word) : (x.setA n v).barGen = x.barGen := rfl
@[simp] theorem Ctx.setA_cmdNo (x : Ctx) (n : Nat) (v : Word) : (x.setA n v).cmdNo = x.cmdNo := rfl
@[simp] theorem Ctx.setA_handler (x : Ctx) (n : Nat) (v : Word) : (x.setA n v).handler = x.handler := rfl
@[simp] theorem Ctx.setA_handlerDepth (x : Ctx) (n : Nat) (v : Word) : (x.setA n v).handlerDepth = x.handlerDepth := rfl
@[simp] theorem Ctx.setA_pending (x : Ctx) (n : Nat) (v : Word) : (x.setA n v).pending = x.pending := rfl
@[simp] theorem Ctx.setA_readyAt (x : Ctx) (n : Nat) (v : Word) : (x.setA n v).readyAt = x.readyAt := rfl
@[simp] theorem Ctx.setA_yielded (x : Ctx) (n : Nat) (v : Word) : (x.setA n v).yielded = x.yielded := rfl
@[simp] theorem Ctx.setA_busy (x : Ctx) (n : Nat) (v : Word) : (x.setA n v).busy = x.busy := rfl
@[simp] theorem Ctx.setA_loads (x : Ctx) (n : Nat) (v : Word) : (x.setA n v).loads = x.loads := rfl
@[simp] theorem Ctx.setA_remote (x : Ctx) (n : Nat) (v : Word) : (x.setA n v).remote = x.remote := rfl
@[simp] theorem Ctx.setA_rposts (x : Ctx) (n : Nat) (v : Word) : (x.setA n v).rposts = x.rposts := rfl
@[simp] theorem Ctx.setA_drops (x : Ctx) (n : Nat) (v : Word) : (x.setA n v).drops = x.drops := rfl
@[simp] theorem Ctx.setA_reply (x : Ctx) (n : Nat) (v : Word) : (x.setA n v).reply = x.reply := rfl
@[simp] theorem Ctx.setA_late (x : Ctx) (n : Nat) (v : Word) : (x.setA n v).late = x.late := rfl
@[simp] theorem Ctx.setA_refills (x : Ctx) (n : Nat) (v : Word) : (x.setA n v).refills = x.refills := rfl
@[simp] theorem Ctx.setA_shadowWait (x : Ctx) (n : Nat) (v : Word) : (x.setA n v).shadowWait = x.shadowWait := rfl
@[simp] theorem Ctx.setA_stop (x : Ctx) (n : Nat) (v : Word) : (x.setA n v).stop = x.stop := rfl
@[simp] theorem Ctx.setA_faulted (x : Ctx) (n : Nat) (v : Word) : (x.setA n v).faulted = x.faulted := rfl
@[simp] theorem Ctx.setA_discarded (x : Ctx) (n : Nat) (v : Word) : (x.setA n v).discarded = x.discarded := rfl
@[simp] theorem Ctx.setA_feWait (x : Ctx) (n : Nat) (v : Word) : (x.setA n v).feWait = x.feWait := rfl
@[simp] theorem Ctx.setA_blocked (x : Ctx) (n : Nat) (v : Word) : (x.setA n v).blocked = x.blocked := rfl
@[simp] theorem Ctx.setA_lateFlags (x : Ctx) (n : Nat) (v : Word) : (x.setA n v).lateFlags = x.lateFlags := rfl
@[simp] theorem Ctx.setA_bundle (x : Ctx) (n : Nat) (v : Word) : (x.setA n v).bundle = x.bundle := rfl

/-! ### Ctx.setB -/

@[simp] theorem Ctx.setB_pc (x : Ctx) (n : Nat) (v : Word) : (x.setB n v).pc = x.pc := rfl
@[simp] theorem Ctx.setB_run (x : Ctx) (n : Nat) (v : Word) : (x.setB n v).run = x.run := rfl
@[simp] theorem Ctx.setB_task (x : Ctx) (n : Nat) (v : Word) : (x.setB n v).task = x.task := rfl
@[simp] theorem Ctx.setB_rank (x : Ctx) (n : Nat) (v : Word) : (x.setB n v).rank = x.rank := rfl
@[simp] theorem Ctx.setB_nranks (x : Ctx) (n : Nat) (v : Word) : (x.setB n v).nranks = x.nranks := rfl
@[simp] theorem Ctx.setB_argp (x : Ctx) (n : Nat) (v : Word) : (x.setB n v).argp = x.argp := rfl
@[simp] theorem Ctx.setB_asid (x : Ctx) (n : Nat) (v : Word) : (x.setB n v).asid = x.asid := rfl
@[simp] theorem Ctx.setB_lsbase (x : Ctx) (n : Nat) (v : Word) : (x.setB n v).lsbase = x.lsbase := rfl
@[simp] theorem Ctx.setB_lslen (x : Ctx) (n : Nat) (v : Word) : (x.setB n v).lslen = x.lslen := rfl
@[simp] theorem Ctx.setB_fflags (x : Ctx) (n : Nat) (v : Word) : (x.setB n v).fflags = x.fflags := rfl
@[simp] theorem Ctx.setB_check (x : Ctx) (n : Nat) (v : Word) : (x.setB n v).check = x.check := rfl
@[simp] theorem Ctx.setB_nfmt (x : Ctx) (n : Nat) (v : Word) : (x.setB n v).nfmt = x.nfmt := rfl
@[simp] theorem Ctx.setB_tvecRec (x : Ctx) (n : Nat) (v : Word) : (x.setB n v).tvecRec = x.tvecRec := rfl
@[simp] theorem Ctx.setB_tvecHandler (x : Ctx) (n : Nat) (v : Word) : (x.setB n v).tvecHandler = x.tvecHandler := rfl
@[simp] theorem Ctx.setB_gstat (x : Ctx) (n : Nat) (v : Word) : (x.setB n v).gstat = x.gstat := rfl
@[simp] theorem Ctx.setB_gtimeout (x : Ctx) (n : Nat) (v : Word) : (x.setB n v).gtimeout = x.gtimeout := rfl
@[simp] theorem Ctx.setB_pair (x : Ctx) (n : Nat) (v : Word) : (x.setB n v).pair = x.pair := rfl
@[simp] theorem Ctx.setB_loops (x : Ctx) (n : Nat) (v : Word) : (x.setB n v).loops = x.loops := rfl
@[simp] theorem Ctx.setB_vflags (x : Ctx) (n : Nat) (v : Word) : (x.setB n v).vflags = x.vflags := rfl
@[simp] theorem Ctx.setB_openSet (x : Ctx) (n : Nat) (v : Word) : (x.setB n v).openSet = x.openSet := rfl
@[simp] theorem Ctx.setB_leases (x : Ctx) (n : Nat) (v : Word) : (x.setB n v).leases = x.leases := rfl
@[simp] theorem Ctx.setB_barGen (x : Ctx) (n : Nat) (v : Word) : (x.setB n v).barGen = x.barGen := rfl
@[simp] theorem Ctx.setB_cmdNo (x : Ctx) (n : Nat) (v : Word) : (x.setB n v).cmdNo = x.cmdNo := rfl
@[simp] theorem Ctx.setB_handler (x : Ctx) (n : Nat) (v : Word) : (x.setB n v).handler = x.handler := rfl
@[simp] theorem Ctx.setB_handlerDepth (x : Ctx) (n : Nat) (v : Word) : (x.setB n v).handlerDepth = x.handlerDepth := rfl
@[simp] theorem Ctx.setB_pending (x : Ctx) (n : Nat) (v : Word) : (x.setB n v).pending = x.pending := rfl
@[simp] theorem Ctx.setB_readyAt (x : Ctx) (n : Nat) (v : Word) : (x.setB n v).readyAt = x.readyAt := rfl
@[simp] theorem Ctx.setB_yielded (x : Ctx) (n : Nat) (v : Word) : (x.setB n v).yielded = x.yielded := rfl
@[simp] theorem Ctx.setB_busy (x : Ctx) (n : Nat) (v : Word) : (x.setB n v).busy = x.busy := rfl
@[simp] theorem Ctx.setB_loads (x : Ctx) (n : Nat) (v : Word) : (x.setB n v).loads = x.loads := rfl
@[simp] theorem Ctx.setB_remote (x : Ctx) (n : Nat) (v : Word) : (x.setB n v).remote = x.remote := rfl
@[simp] theorem Ctx.setB_rposts (x : Ctx) (n : Nat) (v : Word) : (x.setB n v).rposts = x.rposts := rfl
@[simp] theorem Ctx.setB_drops (x : Ctx) (n : Nat) (v : Word) : (x.setB n v).drops = x.drops := rfl
@[simp] theorem Ctx.setB_reply (x : Ctx) (n : Nat) (v : Word) : (x.setB n v).reply = x.reply := rfl
@[simp] theorem Ctx.setB_late (x : Ctx) (n : Nat) (v : Word) : (x.setB n v).late = x.late := rfl
@[simp] theorem Ctx.setB_refills (x : Ctx) (n : Nat) (v : Word) : (x.setB n v).refills = x.refills := rfl
@[simp] theorem Ctx.setB_shadowWait (x : Ctx) (n : Nat) (v : Word) : (x.setB n v).shadowWait = x.shadowWait := rfl
@[simp] theorem Ctx.setB_stop (x : Ctx) (n : Nat) (v : Word) : (x.setB n v).stop = x.stop := rfl
@[simp] theorem Ctx.setB_faulted (x : Ctx) (n : Nat) (v : Word) : (x.setB n v).faulted = x.faulted := rfl
@[simp] theorem Ctx.setB_discarded (x : Ctx) (n : Nat) (v : Word) : (x.setB n v).discarded = x.discarded := rfl
@[simp] theorem Ctx.setB_feWait (x : Ctx) (n : Nat) (v : Word) : (x.setB n v).feWait = x.feWait := rfl
@[simp] theorem Ctx.setB_blocked (x : Ctx) (n : Nat) (v : Word) : (x.setB n v).blocked = x.blocked := rfl
@[simp] theorem Ctx.setB_lateFlags (x : Ctx) (n : Nat) (v : Word) : (x.setB n v).lateFlags = x.lateFlags := rfl
@[simp] theorem Ctx.setB_bundle (x : Ctx) (n : Nat) (v : Word) : (x.setB n v).bundle = x.bundle := rfl

/-! ### Ctx.setP -/

@[simp] theorem Ctx.setP_pc (x : Ctx) (n : Nat) (v : Bool) : (x.setP n v).pc = x.pc := rfl
@[simp] theorem Ctx.setP_run (x : Ctx) (n : Nat) (v : Bool) : (x.setP n v).run = x.run := rfl
@[simp] theorem Ctx.setP_task (x : Ctx) (n : Nat) (v : Bool) : (x.setP n v).task = x.task := rfl
@[simp] theorem Ctx.setP_rank (x : Ctx) (n : Nat) (v : Bool) : (x.setP n v).rank = x.rank := rfl
@[simp] theorem Ctx.setP_nranks (x : Ctx) (n : Nat) (v : Bool) : (x.setP n v).nranks = x.nranks := rfl
@[simp] theorem Ctx.setP_argp (x : Ctx) (n : Nat) (v : Bool) : (x.setP n v).argp = x.argp := rfl
@[simp] theorem Ctx.setP_asid (x : Ctx) (n : Nat) (v : Bool) : (x.setP n v).asid = x.asid := rfl
@[simp] theorem Ctx.setP_lsbase (x : Ctx) (n : Nat) (v : Bool) : (x.setP n v).lsbase = x.lsbase := rfl
@[simp] theorem Ctx.setP_lslen (x : Ctx) (n : Nat) (v : Bool) : (x.setP n v).lslen = x.lslen := rfl
@[simp] theorem Ctx.setP_fflags (x : Ctx) (n : Nat) (v : Bool) : (x.setP n v).fflags = x.fflags := rfl
@[simp] theorem Ctx.setP_check (x : Ctx) (n : Nat) (v : Bool) : (x.setP n v).check = x.check := rfl
@[simp] theorem Ctx.setP_nfmt (x : Ctx) (n : Nat) (v : Bool) : (x.setP n v).nfmt = x.nfmt := rfl
@[simp] theorem Ctx.setP_tvecRec (x : Ctx) (n : Nat) (v : Bool) : (x.setP n v).tvecRec = x.tvecRec := rfl
@[simp] theorem Ctx.setP_tvecHandler (x : Ctx) (n : Nat) (v : Bool) : (x.setP n v).tvecHandler = x.tvecHandler := rfl
@[simp] theorem Ctx.setP_gstat (x : Ctx) (n : Nat) (v : Bool) : (x.setP n v).gstat = x.gstat := rfl
@[simp] theorem Ctx.setP_gtimeout (x : Ctx) (n : Nat) (v : Bool) : (x.setP n v).gtimeout = x.gtimeout := rfl
@[simp] theorem Ctx.setP_pair (x : Ctx) (n : Nat) (v : Bool) : (x.setP n v).pair = x.pair := rfl
@[simp] theorem Ctx.setP_loops (x : Ctx) (n : Nat) (v : Bool) : (x.setP n v).loops = x.loops := rfl
@[simp] theorem Ctx.setP_vflags (x : Ctx) (n : Nat) (v : Bool) : (x.setP n v).vflags = x.vflags := rfl
@[simp] theorem Ctx.setP_openSet (x : Ctx) (n : Nat) (v : Bool) : (x.setP n v).openSet = x.openSet := rfl
@[simp] theorem Ctx.setP_leases (x : Ctx) (n : Nat) (v : Bool) : (x.setP n v).leases = x.leases := rfl
@[simp] theorem Ctx.setP_barGen (x : Ctx) (n : Nat) (v : Bool) : (x.setP n v).barGen = x.barGen := rfl
@[simp] theorem Ctx.setP_cmdNo (x : Ctx) (n : Nat) (v : Bool) : (x.setP n v).cmdNo = x.cmdNo := rfl
@[simp] theorem Ctx.setP_handler (x : Ctx) (n : Nat) (v : Bool) : (x.setP n v).handler = x.handler := rfl
@[simp] theorem Ctx.setP_handlerDepth (x : Ctx) (n : Nat) (v : Bool) : (x.setP n v).handlerDepth = x.handlerDepth := rfl
@[simp] theorem Ctx.setP_pending (x : Ctx) (n : Nat) (v : Bool) : (x.setP n v).pending = x.pending := rfl
@[simp] theorem Ctx.setP_readyAt (x : Ctx) (n : Nat) (v : Bool) : (x.setP n v).readyAt = x.readyAt := rfl
@[simp] theorem Ctx.setP_yielded (x : Ctx) (n : Nat) (v : Bool) : (x.setP n v).yielded = x.yielded := rfl
@[simp] theorem Ctx.setP_busy (x : Ctx) (n : Nat) (v : Bool) : (x.setP n v).busy = x.busy := rfl
@[simp] theorem Ctx.setP_loads (x : Ctx) (n : Nat) (v : Bool) : (x.setP n v).loads = x.loads := rfl
@[simp] theorem Ctx.setP_remote (x : Ctx) (n : Nat) (v : Bool) : (x.setP n v).remote = x.remote := rfl
@[simp] theorem Ctx.setP_rposts (x : Ctx) (n : Nat) (v : Bool) : (x.setP n v).rposts = x.rposts := rfl
@[simp] theorem Ctx.setP_drops (x : Ctx) (n : Nat) (v : Bool) : (x.setP n v).drops = x.drops := rfl
@[simp] theorem Ctx.setP_reply (x : Ctx) (n : Nat) (v : Bool) : (x.setP n v).reply = x.reply := rfl
@[simp] theorem Ctx.setP_late (x : Ctx) (n : Nat) (v : Bool) : (x.setP n v).late = x.late := rfl
@[simp] theorem Ctx.setP_refills (x : Ctx) (n : Nat) (v : Bool) : (x.setP n v).refills = x.refills := rfl
@[simp] theorem Ctx.setP_shadowWait (x : Ctx) (n : Nat) (v : Bool) : (x.setP n v).shadowWait = x.shadowWait := rfl
@[simp] theorem Ctx.setP_stop (x : Ctx) (n : Nat) (v : Bool) : (x.setP n v).stop = x.stop := rfl
@[simp] theorem Ctx.setP_faulted (x : Ctx) (n : Nat) (v : Bool) : (x.setP n v).faulted = x.faulted := rfl
@[simp] theorem Ctx.setP_discarded (x : Ctx) (n : Nat) (v : Bool) : (x.setP n v).discarded = x.discarded := rfl
@[simp] theorem Ctx.setP_feWait (x : Ctx) (n : Nat) (v : Bool) : (x.setP n v).feWait = x.feWait := rfl
@[simp] theorem Ctx.setP_blocked (x : Ctx) (n : Nat) (v : Bool) : (x.setP n v).blocked = x.blocked := rfl
@[simp] theorem Ctx.setP_lateFlags (x : Ctx) (n : Nat) (v : Bool) : (x.setP n v).lateFlags = x.lateFlags := rfl
@[simp] theorem Ctx.setP_bundle (x : Ctx) (n : Nat) (v : Bool) : (x.setP n v).bundle = x.bundle := rfl

/-! ### Ctx.setQ -/

@[simp] theorem Ctx.setQ_pc (x : Ctx) (n v : Nat) : (x.setQ n v).pc = x.pc := rfl
@[simp] theorem Ctx.setQ_run (x : Ctx) (n v : Nat) : (x.setQ n v).run = x.run := rfl
@[simp] theorem Ctx.setQ_task (x : Ctx) (n v : Nat) : (x.setQ n v).task = x.task := rfl
@[simp] theorem Ctx.setQ_rank (x : Ctx) (n v : Nat) : (x.setQ n v).rank = x.rank := rfl
@[simp] theorem Ctx.setQ_nranks (x : Ctx) (n v : Nat) : (x.setQ n v).nranks = x.nranks := rfl
@[simp] theorem Ctx.setQ_argp (x : Ctx) (n v : Nat) : (x.setQ n v).argp = x.argp := rfl
@[simp] theorem Ctx.setQ_asid (x : Ctx) (n v : Nat) : (x.setQ n v).asid = x.asid := rfl
@[simp] theorem Ctx.setQ_lsbase (x : Ctx) (n v : Nat) : (x.setQ n v).lsbase = x.lsbase := rfl
@[simp] theorem Ctx.setQ_lslen (x : Ctx) (n v : Nat) : (x.setQ n v).lslen = x.lslen := rfl
@[simp] theorem Ctx.setQ_fflags (x : Ctx) (n v : Nat) : (x.setQ n v).fflags = x.fflags := rfl
@[simp] theorem Ctx.setQ_check (x : Ctx) (n v : Nat) : (x.setQ n v).check = x.check := rfl
@[simp] theorem Ctx.setQ_nfmt (x : Ctx) (n v : Nat) : (x.setQ n v).nfmt = x.nfmt := rfl
@[simp] theorem Ctx.setQ_tvecRec (x : Ctx) (n v : Nat) : (x.setQ n v).tvecRec = x.tvecRec := rfl
@[simp] theorem Ctx.setQ_tvecHandler (x : Ctx) (n v : Nat) : (x.setQ n v).tvecHandler = x.tvecHandler := rfl
@[simp] theorem Ctx.setQ_gstat (x : Ctx) (n v : Nat) : (x.setQ n v).gstat = x.gstat := rfl
@[simp] theorem Ctx.setQ_gtimeout (x : Ctx) (n v : Nat) : (x.setQ n v).gtimeout = x.gtimeout := rfl
@[simp] theorem Ctx.setQ_pair (x : Ctx) (n v : Nat) : (x.setQ n v).pair = x.pair := rfl
@[simp] theorem Ctx.setQ_loops (x : Ctx) (n v : Nat) : (x.setQ n v).loops = x.loops := rfl
@[simp] theorem Ctx.setQ_vflags (x : Ctx) (n v : Nat) : (x.setQ n v).vflags = x.vflags := rfl
@[simp] theorem Ctx.setQ_openSet (x : Ctx) (n v : Nat) : (x.setQ n v).openSet = x.openSet := rfl
@[simp] theorem Ctx.setQ_leases (x : Ctx) (n v : Nat) : (x.setQ n v).leases = x.leases := rfl
@[simp] theorem Ctx.setQ_barGen (x : Ctx) (n v : Nat) : (x.setQ n v).barGen = x.barGen := rfl
@[simp] theorem Ctx.setQ_cmdNo (x : Ctx) (n v : Nat) : (x.setQ n v).cmdNo = x.cmdNo := rfl
@[simp] theorem Ctx.setQ_handler (x : Ctx) (n v : Nat) : (x.setQ n v).handler = x.handler := rfl
@[simp] theorem Ctx.setQ_handlerDepth (x : Ctx) (n v : Nat) : (x.setQ n v).handlerDepth = x.handlerDepth := rfl
@[simp] theorem Ctx.setQ_pending (x : Ctx) (n v : Nat) : (x.setQ n v).pending = x.pending := rfl
@[simp] theorem Ctx.setQ_readyAt (x : Ctx) (n v : Nat) : (x.setQ n v).readyAt = x.readyAt := rfl
@[simp] theorem Ctx.setQ_yielded (x : Ctx) (n v : Nat) : (x.setQ n v).yielded = x.yielded := rfl
@[simp] theorem Ctx.setQ_busy (x : Ctx) (n v : Nat) : (x.setQ n v).busy = x.busy := rfl
@[simp] theorem Ctx.setQ_loads (x : Ctx) (n v : Nat) : (x.setQ n v).loads = x.loads := rfl
@[simp] theorem Ctx.setQ_remote (x : Ctx) (n v : Nat) : (x.setQ n v).remote = x.remote := rfl
@[simp] theorem Ctx.setQ_rposts (x : Ctx) (n v : Nat) : (x.setQ n v).rposts = x.rposts := rfl
@[simp] theorem Ctx.setQ_drops (x : Ctx) (n v : Nat) : (x.setQ n v).drops = x.drops := rfl
@[simp] theorem Ctx.setQ_reply (x : Ctx) (n v : Nat) : (x.setQ n v).reply = x.reply := rfl
@[simp] theorem Ctx.setQ_late (x : Ctx) (n v : Nat) : (x.setQ n v).late = x.late := rfl
@[simp] theorem Ctx.setQ_refills (x : Ctx) (n v : Nat) : (x.setQ n v).refills = x.refills := rfl
@[simp] theorem Ctx.setQ_shadowWait (x : Ctx) (n v : Nat) : (x.setQ n v).shadowWait = x.shadowWait := rfl
@[simp] theorem Ctx.setQ_stop (x : Ctx) (n v : Nat) : (x.setQ n v).stop = x.stop := rfl
@[simp] theorem Ctx.setQ_faulted (x : Ctx) (n v : Nat) : (x.setQ n v).faulted = x.faulted := rfl
@[simp] theorem Ctx.setQ_discarded (x : Ctx) (n v : Nat) : (x.setQ n v).discarded = x.discarded := rfl
@[simp] theorem Ctx.setQ_feWait (x : Ctx) (n v : Nat) : (x.setQ n v).feWait = x.feWait := rfl
@[simp] theorem Ctx.setQ_blocked (x : Ctx) (n v : Nat) : (x.setQ n v).blocked = x.blocked := rfl
@[simp] theorem Ctx.setQ_lateFlags (x : Ctx) (n v : Nat) : (x.setQ n v).lateFlags = x.lateFlags := rfl
@[simp] theorem Ctx.setQ_bundle (x : Ctx) (n v : Nat) : (x.setQ n v).bundle = x.bundle := rfl

/-! ### Ctx.setH -/

@[simp] theorem Ctx.setH_pc (x : Ctx) (n : Nat) (v : Option Handle) : (x.setH n v).pc = x.pc := rfl
@[simp] theorem Ctx.setH_run (x : Ctx) (n : Nat) (v : Option Handle) : (x.setH n v).run = x.run := rfl
@[simp] theorem Ctx.setH_task (x : Ctx) (n : Nat) (v : Option Handle) : (x.setH n v).task = x.task := rfl
@[simp] theorem Ctx.setH_rank (x : Ctx) (n : Nat) (v : Option Handle) : (x.setH n v).rank = x.rank := rfl
@[simp] theorem Ctx.setH_nranks (x : Ctx) (n : Nat) (v : Option Handle) : (x.setH n v).nranks = x.nranks := rfl
@[simp] theorem Ctx.setH_argp (x : Ctx) (n : Nat) (v : Option Handle) : (x.setH n v).argp = x.argp := rfl
@[simp] theorem Ctx.setH_asid (x : Ctx) (n : Nat) (v : Option Handle) : (x.setH n v).asid = x.asid := rfl
@[simp] theorem Ctx.setH_lsbase (x : Ctx) (n : Nat) (v : Option Handle) : (x.setH n v).lsbase = x.lsbase := rfl
@[simp] theorem Ctx.setH_lslen (x : Ctx) (n : Nat) (v : Option Handle) : (x.setH n v).lslen = x.lslen := rfl
@[simp] theorem Ctx.setH_fflags (x : Ctx) (n : Nat) (v : Option Handle) : (x.setH n v).fflags = x.fflags := rfl
@[simp] theorem Ctx.setH_check (x : Ctx) (n : Nat) (v : Option Handle) : (x.setH n v).check = x.check := rfl
@[simp] theorem Ctx.setH_nfmt (x : Ctx) (n : Nat) (v : Option Handle) : (x.setH n v).nfmt = x.nfmt := rfl
@[simp] theorem Ctx.setH_tvecRec (x : Ctx) (n : Nat) (v : Option Handle) : (x.setH n v).tvecRec = x.tvecRec := rfl
@[simp] theorem Ctx.setH_tvecHandler (x : Ctx) (n : Nat) (v : Option Handle) : (x.setH n v).tvecHandler = x.tvecHandler := rfl
@[simp] theorem Ctx.setH_gstat (x : Ctx) (n : Nat) (v : Option Handle) : (x.setH n v).gstat = x.gstat := rfl
@[simp] theorem Ctx.setH_gtimeout (x : Ctx) (n : Nat) (v : Option Handle) : (x.setH n v).gtimeout = x.gtimeout := rfl
@[simp] theorem Ctx.setH_pair (x : Ctx) (n : Nat) (v : Option Handle) : (x.setH n v).pair = x.pair := rfl
@[simp] theorem Ctx.setH_loops (x : Ctx) (n : Nat) (v : Option Handle) : (x.setH n v).loops = x.loops := rfl
@[simp] theorem Ctx.setH_vflags (x : Ctx) (n : Nat) (v : Option Handle) : (x.setH n v).vflags = x.vflags := rfl
@[simp] theorem Ctx.setH_openSet (x : Ctx) (n : Nat) (v : Option Handle) : (x.setH n v).openSet = x.openSet := rfl
@[simp] theorem Ctx.setH_leases (x : Ctx) (n : Nat) (v : Option Handle) : (x.setH n v).leases = x.leases := rfl
@[simp] theorem Ctx.setH_barGen (x : Ctx) (n : Nat) (v : Option Handle) : (x.setH n v).barGen = x.barGen := rfl
@[simp] theorem Ctx.setH_cmdNo (x : Ctx) (n : Nat) (v : Option Handle) : (x.setH n v).cmdNo = x.cmdNo := rfl
@[simp] theorem Ctx.setH_handler (x : Ctx) (n : Nat) (v : Option Handle) : (x.setH n v).handler = x.handler := rfl
@[simp] theorem Ctx.setH_handlerDepth (x : Ctx) (n : Nat) (v : Option Handle) : (x.setH n v).handlerDepth = x.handlerDepth := rfl
@[simp] theorem Ctx.setH_pending (x : Ctx) (n : Nat) (v : Option Handle) : (x.setH n v).pending = x.pending := rfl
@[simp] theorem Ctx.setH_readyAt (x : Ctx) (n : Nat) (v : Option Handle) : (x.setH n v).readyAt = x.readyAt := rfl
@[simp] theorem Ctx.setH_yielded (x : Ctx) (n : Nat) (v : Option Handle) : (x.setH n v).yielded = x.yielded := rfl
@[simp] theorem Ctx.setH_busy (x : Ctx) (n : Nat) (v : Option Handle) : (x.setH n v).busy = x.busy := rfl
@[simp] theorem Ctx.setH_loads (x : Ctx) (n : Nat) (v : Option Handle) : (x.setH n v).loads = x.loads := rfl
@[simp] theorem Ctx.setH_remote (x : Ctx) (n : Nat) (v : Option Handle) : (x.setH n v).remote = x.remote := rfl
@[simp] theorem Ctx.setH_rposts (x : Ctx) (n : Nat) (v : Option Handle) : (x.setH n v).rposts = x.rposts := rfl
@[simp] theorem Ctx.setH_drops (x : Ctx) (n : Nat) (v : Option Handle) : (x.setH n v).drops = x.drops := rfl
@[simp] theorem Ctx.setH_reply (x : Ctx) (n : Nat) (v : Option Handle) : (x.setH n v).reply = x.reply := rfl
@[simp] theorem Ctx.setH_late (x : Ctx) (n : Nat) (v : Option Handle) : (x.setH n v).late = x.late := rfl
@[simp] theorem Ctx.setH_refills (x : Ctx) (n : Nat) (v : Option Handle) : (x.setH n v).refills = x.refills := rfl
@[simp] theorem Ctx.setH_shadowWait (x : Ctx) (n : Nat) (v : Option Handle) : (x.setH n v).shadowWait = x.shadowWait := rfl
@[simp] theorem Ctx.setH_stop (x : Ctx) (n : Nat) (v : Option Handle) : (x.setH n v).stop = x.stop := rfl
@[simp] theorem Ctx.setH_faulted (x : Ctx) (n : Nat) (v : Option Handle) : (x.setH n v).faulted = x.faulted := rfl
@[simp] theorem Ctx.setH_discarded (x : Ctx) (n : Nat) (v : Option Handle) : (x.setH n v).discarded = x.discarded := rfl
@[simp] theorem Ctx.setH_feWait (x : Ctx) (n : Nat) (v : Option Handle) : (x.setH n v).feWait = x.feWait := rfl
@[simp] theorem Ctx.setH_blocked (x : Ctx) (n : Nat) (v : Option Handle) : (x.setH n v).blocked = x.blocked := rfl
@[simp] theorem Ctx.setH_lateFlags (x : Ctx) (n : Nat) (v : Option Handle) : (x.setH n v).lateFlags = x.lateFlags := rfl
@[simp] theorem Ctx.setH_bundle (x : Ctx) (n : Nat) (v : Option Handle) : (x.setH n v).bundle = x.bundle := rfl

/-! ### Ctx.mark -/

@[simp] theorem Ctx.mark_regs (x : Ctx) (r : Reg) (ready lat : Nat) (cross : Bool) : (x.mark r ready lat cross).regs = x.regs := rfl
@[simp] theorem Ctx.mark_pc (x : Ctx) (r : Reg) (ready lat : Nat) (cross : Bool) : (x.mark r ready lat cross).pc = x.pc := rfl
@[simp] theorem Ctx.mark_run (x : Ctx) (r : Reg) (ready lat : Nat) (cross : Bool) : (x.mark r ready lat cross).run = x.run := rfl
@[simp] theorem Ctx.mark_task (x : Ctx) (r : Reg) (ready lat : Nat) (cross : Bool) : (x.mark r ready lat cross).task = x.task := rfl
@[simp] theorem Ctx.mark_rank (x : Ctx) (r : Reg) (ready lat : Nat) (cross : Bool) : (x.mark r ready lat cross).rank = x.rank := rfl
@[simp] theorem Ctx.mark_nranks (x : Ctx) (r : Reg) (ready lat : Nat) (cross : Bool) : (x.mark r ready lat cross).nranks = x.nranks := rfl
@[simp] theorem Ctx.mark_argp (x : Ctx) (r : Reg) (ready lat : Nat) (cross : Bool) : (x.mark r ready lat cross).argp = x.argp := rfl
@[simp] theorem Ctx.mark_asid (x : Ctx) (r : Reg) (ready lat : Nat) (cross : Bool) : (x.mark r ready lat cross).asid = x.asid := rfl
@[simp] theorem Ctx.mark_lsbase (x : Ctx) (r : Reg) (ready lat : Nat) (cross : Bool) : (x.mark r ready lat cross).lsbase = x.lsbase := rfl
@[simp] theorem Ctx.mark_lslen (x : Ctx) (r : Reg) (ready lat : Nat) (cross : Bool) : (x.mark r ready lat cross).lslen = x.lslen := rfl
@[simp] theorem Ctx.mark_fflags (x : Ctx) (r : Reg) (ready lat : Nat) (cross : Bool) : (x.mark r ready lat cross).fflags = x.fflags := rfl
@[simp] theorem Ctx.mark_check (x : Ctx) (r : Reg) (ready lat : Nat) (cross : Bool) : (x.mark r ready lat cross).check = x.check := rfl
@[simp] theorem Ctx.mark_nfmt (x : Ctx) (r : Reg) (ready lat : Nat) (cross : Bool) : (x.mark r ready lat cross).nfmt = x.nfmt := rfl
@[simp] theorem Ctx.mark_tvecRec (x : Ctx) (r : Reg) (ready lat : Nat) (cross : Bool) : (x.mark r ready lat cross).tvecRec = x.tvecRec := rfl
@[simp] theorem Ctx.mark_tvecHandler (x : Ctx) (r : Reg) (ready lat : Nat) (cross : Bool) : (x.mark r ready lat cross).tvecHandler = x.tvecHandler := rfl
@[simp] theorem Ctx.mark_gstat (x : Ctx) (r : Reg) (ready lat : Nat) (cross : Bool) : (x.mark r ready lat cross).gstat = x.gstat := rfl
@[simp] theorem Ctx.mark_gtimeout (x : Ctx) (r : Reg) (ready lat : Nat) (cross : Bool) : (x.mark r ready lat cross).gtimeout = x.gtimeout := rfl
@[simp] theorem Ctx.mark_pair (x : Ctx) (r : Reg) (ready lat : Nat) (cross : Bool) : (x.mark r ready lat cross).pair = x.pair := rfl
@[simp] theorem Ctx.mark_loops (x : Ctx) (r : Reg) (ready lat : Nat) (cross : Bool) : (x.mark r ready lat cross).loops = x.loops := rfl
@[simp] theorem Ctx.mark_vflags (x : Ctx) (r : Reg) (ready lat : Nat) (cross : Bool) : (x.mark r ready lat cross).vflags = x.vflags := rfl
@[simp] theorem Ctx.mark_openSet (x : Ctx) (r : Reg) (ready lat : Nat) (cross : Bool) : (x.mark r ready lat cross).openSet = x.openSet := rfl
@[simp] theorem Ctx.mark_leases (x : Ctx) (r : Reg) (ready lat : Nat) (cross : Bool) : (x.mark r ready lat cross).leases = x.leases := rfl
@[simp] theorem Ctx.mark_barGen (x : Ctx) (r : Reg) (ready lat : Nat) (cross : Bool) : (x.mark r ready lat cross).barGen = x.barGen := rfl
@[simp] theorem Ctx.mark_cmdNo (x : Ctx) (r : Reg) (ready lat : Nat) (cross : Bool) : (x.mark r ready lat cross).cmdNo = x.cmdNo := rfl
@[simp] theorem Ctx.mark_handler (x : Ctx) (r : Reg) (ready lat : Nat) (cross : Bool) : (x.mark r ready lat cross).handler = x.handler := rfl
@[simp] theorem Ctx.mark_handlerDepth (x : Ctx) (r : Reg) (ready lat : Nat) (cross : Bool) : (x.mark r ready lat cross).handlerDepth = x.handlerDepth := rfl
@[simp] theorem Ctx.mark_pending (x : Ctx) (r : Reg) (ready lat : Nat) (cross : Bool) : (x.mark r ready lat cross).pending = x.pending := rfl
@[simp] theorem Ctx.mark_readyAt (x : Ctx) (r : Reg) (ready lat : Nat) (cross : Bool) : (x.mark r ready lat cross).readyAt = x.readyAt := rfl
@[simp] theorem Ctx.mark_yielded (x : Ctx) (r : Reg) (ready lat : Nat) (cross : Bool) : (x.mark r ready lat cross).yielded = x.yielded := rfl
@[simp] theorem Ctx.mark_loads (x : Ctx) (r : Reg) (ready lat : Nat) (cross : Bool) : (x.mark r ready lat cross).loads = x.loads := rfl
@[simp] theorem Ctx.mark_remote (x : Ctx) (r : Reg) (ready lat : Nat) (cross : Bool) : (x.mark r ready lat cross).remote = x.remote := rfl
@[simp] theorem Ctx.mark_rposts (x : Ctx) (r : Reg) (ready lat : Nat) (cross : Bool) : (x.mark r ready lat cross).rposts = x.rposts := rfl
@[simp] theorem Ctx.mark_drops (x : Ctx) (r : Reg) (ready lat : Nat) (cross : Bool) : (x.mark r ready lat cross).drops = x.drops := rfl
@[simp] theorem Ctx.mark_reply (x : Ctx) (r : Reg) (ready lat : Nat) (cross : Bool) : (x.mark r ready lat cross).reply = x.reply := rfl
@[simp] theorem Ctx.mark_late (x : Ctx) (r : Reg) (ready lat : Nat) (cross : Bool) : (x.mark r ready lat cross).late = x.late := rfl
@[simp] theorem Ctx.mark_refills (x : Ctx) (r : Reg) (ready lat : Nat) (cross : Bool) : (x.mark r ready lat cross).refills = x.refills := rfl
@[simp] theorem Ctx.mark_shadowWait (x : Ctx) (r : Reg) (ready lat : Nat) (cross : Bool) : (x.mark r ready lat cross).shadowWait = x.shadowWait := rfl
@[simp] theorem Ctx.mark_stop (x : Ctx) (r : Reg) (ready lat : Nat) (cross : Bool) : (x.mark r ready lat cross).stop = x.stop := rfl
@[simp] theorem Ctx.mark_faulted (x : Ctx) (r : Reg) (ready lat : Nat) (cross : Bool) : (x.mark r ready lat cross).faulted = x.faulted := rfl
@[simp] theorem Ctx.mark_discarded (x : Ctx) (r : Reg) (ready lat : Nat) (cross : Bool) : (x.mark r ready lat cross).discarded = x.discarded := rfl
@[simp] theorem Ctx.mark_feWait (x : Ctx) (r : Reg) (ready lat : Nat) (cross : Bool) : (x.mark r ready lat cross).feWait = x.feWait := rfl
@[simp] theorem Ctx.mark_blocked (x : Ctx) (r : Reg) (ready lat : Nat) (cross : Bool) : (x.mark r ready lat cross).blocked = x.blocked := rfl
@[simp] theorem Ctx.mark_lateFlags (x : Ctx) (r : Reg) (ready lat : Nat) (cross : Bool) : (x.mark r ready lat cross).lateFlags = x.lateFlags := rfl
@[simp] theorem Ctx.mark_bundle (x : Ctx) (r : Reg) (ready lat : Nat) (cross : Bool) : (x.mark r ready lat cross).bundle = x.bundle := rfl

end Sys2Proof.Machine
end

