-- ==== Sys2Proof/Laws/Table.lean ====
section
/-! SUPPORT. Sparse tables: reading after writing, and the canonical form, which every operation keeps. -/

namespace Sys2Proof

variable {α : Type}

/-! ### Reading after writing -/

theorem Tab.look_put_same (t : Tab α) (k : Nat) (v : α) : (t.put k v).look k = some v := by
  induction t with
  | nil => simp [Tab.put, Tab.look]
  | cons e r ih =>
    obtain ⟨j, w⟩ := e
    unfold Tab.put
    split
    · simp [Tab.look]
    · split
      · simp [Tab.look]
      · simp [Tab.look, *]

theorem Tab.look_put_other (t : Tab α) {k i : Nat} (v : α) (h : i ≠ k) : (t.put k v).look i = t.look i := by
  induction t with
  | nil => simp [Tab.put, Tab.look, h]
  | cons e r ih =>
    obtain ⟨j, w⟩ := e
    unfold Tab.put
    split
    · next e => subst e; simp [Tab.look, h]
    · split
      · simp [Tab.look, h]
      · simp only [Tab.look]; split <;> simp [ih]

/-- Reading a table after a value was listed. -/
theorem Tab.look_put (t : Tab α) (k i : Nat) (v : α) : (t.put k v).look i = if i = k then some v else t.look i := by
  split
  · next h => subst h; exact Tab.look_put_same t i v
  · next h => exact Tab.look_put_other t v h

/-- Reading a table after an entry was taken out. -/
theorem Tab.look_del (t : Tab α) (k i : Nat) : (t.del k).look i = if i = k then none else t.look i := by
  induction t with
  | nil => simp [Tab.del, Tab.look]
  | cons e r ih =>
    obtain ⟨j, w⟩ := e
    unfold Tab.del
    split
    · next h =>
      rw [ih]
      by_cases hi : i = k
      · simp [hi]
      · have : ¬ i = j := fun e => hi (by omega)
        simp [Tab.look, hi, this]
    · next h =>
      simp only [Tab.look]
      by_cases hi : i = j
      · subst hi; have : ¬ i = k := fun e => h e.symm; simp [this]
      · simp [hi, ih]

/-- A table read after a value was given to a key: that value there, everything else as before. -/
theorem Tab.get_set [DecidableEq α] (t : Tab α) (d : α) (k i : Nat) (v : α) :
    (t.set d k v).get d i = if i = k then v else t.get d i := by
  unfold Tab.set Tab.get
  split
  · next h => rw [Tab.look_del]; split <;> simp [h]
  · rw [Tab.look_put]; split <;> simp

theorem Tab.get_put (t : Tab α) (d : α) (k i : Nat) (v : α) : (t.put k v).get d i = if i = k then v else t.get d i := by
  unfold Tab.get; rw [Tab.look_put]; split <;> simp

theorem Tab.get_set_same [DecidableEq α] (t : Tab α) (d : α) (k : Nat) (v : α) : (t.set d k v).get d k = v := by
  simp [Tab.get_set]

theorem Tab.get_set_other [DecidableEq α] (t : Tab α) (d : α) {k i : Nat} (v : α) (h : i ≠ k) :
    (t.set d k v).get d i = t.get d i := by
  simp [Tab.get_set, h]

theorem Tab.del_eq_filter (t : Tab α) (k : Nat) : t.del k = t.filter fun e => decide (e.1 ≠ k) := by
  induction t with
  | nil => simp [Tab.del]
  | cons e r ih =>
    obtain ⟨j, w⟩ := e
    by_cases h : k = j
    · subst h; simp [Tab.del, ih]
    · have h' : j ≠ k := fun e => h e.symm
      simp [Tab.del, ih, h, h']

/-! ### The canonical form -/

/-- A key stands above a bound, where there is one. -/
def Tab.above : Option Nat → Nat → Prop
  | none, _ => True
  | some l, k => l < k

variable [DecidableEq α] {d : α}

@[simp] theorem Tab.wfFrom_nil (lo : Option Nat) : Tab.wfFrom d lo ([] : Tab α) = true := by simp [Tab.wfFrom]

theorem Tab.wfFrom_cons (lo : Option Nat) (k : Nat) (v : α) (r : Tab α) :
    Tab.wfFrom d lo ((k, v) :: r) = true ↔ Tab.above lo k ∧ v ≠ d ∧ Tab.wfFrom d (some k) r = true := by
  cases lo <;> simp [Tab.wfFrom, Tab.above, and_assoc]

/-- A lower bound may be lowered. -/
theorem Tab.wfFrom_lower {t : Tab α} {k : Nat} {lo : Option Nat} (h : Tab.wfFrom d (some k) t = true) (hk : Tab.above lo k) :
    Tab.wfFrom d lo t = true := by
  cases t with
  | nil => simp
  | cons e r =>
    obtain ⟨j, w⟩ := e
    rw [Tab.wfFrom_cons] at h ⊢
    refine ⟨?_, h.2⟩
    cases lo with
    | none => trivial
    | some l => exact Nat.lt_trans hk h.1

theorem Tab.wfFrom_put {t : Tab α} {lo : Option Nat} {k : Nat} {v : α} (h : Tab.wfFrom d lo t = true) (hk : Tab.above lo k)
    (hv : v ≠ d) : Tab.wfFrom d lo (t.put k v) = true := by
  induction t generalizing lo with
  | nil => simp [Tab.put, Tab.wfFrom_cons, hk, hv]
  | cons e r ih =>
    obtain ⟨j, w⟩ := e
    rw [Tab.wfFrom_cons] at h
    unfold Tab.put
    split
    · next e => subst e; rw [Tab.wfFrom_cons]; exact ⟨hk, hv, h.2.2⟩
    · split
      · next hlt => rw [Tab.wfFrom_cons, Tab.wfFrom_cons]; exact ⟨hk, hv, hlt, h.2⟩
      · next hne hge =>
        rw [Tab.wfFrom_cons]
        exact ⟨h.1, h.2.1, ih h.2.2 (by simp only [Tab.above]; omega)⟩

theorem Tab.wfFrom_filter {t : Tab α} {lo : Option Nat} (p : Nat × α → Bool) (h : Tab.wfFrom d lo t = true) :
    Tab.wfFrom d lo (t.filter p) = true := by
  induction t generalizing lo with
  | nil => simp
  | cons e r ih =>
    obtain ⟨j, w⟩ := e
    rw [Tab.wfFrom_cons] at h
    rw [List.filter_cons]
    split
    · rw [Tab.wfFrom_cons]; exact ⟨h.1, h.2.1, ih h.2.2⟩
    · exact ih (Tab.wfFrom_lower h.2.2 h.1)

theorem Tab.wf_nil : Tab.wf d ([] : Tab α) = true := by simp [Tab.wf]

theorem Tab.wf_filter {t : Tab α} (p : Nat × α → Bool) (h : Tab.wf d t = true) : Tab.wf d (t.filter p) = true :=
  Tab.wfFrom_filter p h

theorem Tab.wf_del {t : Tab α} (k : Nat) (h : Tab.wf d t = true) : Tab.wf d (t.del k) = true := by
  rw [Tab.del_eq_filter]; exact Tab.wf_filter _ h

/-- Giving a key a value keeps the canonical form: the default value takes the entry out. -/
theorem Tab.wf_set {t : Tab α} (k : Nat) (v : α) (h : Tab.wf d t = true) : Tab.wf d (t.set d k v) = true := by
  unfold Tab.set
  split
  · exact Tab.wf_del k h
  · next hv => exact Tab.wfFrom_put h trivial hv

end Sys2Proof
end

