-- ==== Sys2Proof/Laws/Access.lean ====
section
/-! SUPPORT. What each shared operation does, said once: changing a core or a context, writing a register, sending an event, queueing a
command, translating an address. -/

namespace Sys2Proof.Machine

/-! ### Cores and contexts -/

theorem State.core_modCore (s : State) (c d : Nat) (f : Core → Core) :
    (s.modCore c f).core d = if d = c then f (s.core c) else s.core d := by
  unfold State.core State.modCore; rw [Tab.get_put]; rfl

@[simp] theorem State.core_modCore_same (s : State) (c : Nat) (f : Core → Core) : (s.modCore c f).core c = f (s.core c) := by
  rw [State.core_modCore, if_pos rfl]

theorem State.core_modCore_other (s : State) {c d : Nat} (f : Core → Core) (h : d ≠ c) : (s.modCore c f).core d = s.core d := by
  rw [State.core_modCore, if_neg h]

theorem Core.ctx_modCtx (k : Core) (x y : Nat) (f : Ctx → Ctx) : (k.modCtx x f).ctx y = if y = x then f (k.ctx x) else k.ctx y := by
  unfold Core.ctx Core.modCtx; rw [Tab.get_put]; rfl

@[simp] theorem Core.ctx_modCtx_same (k : Core) (x : Nat) (f : Ctx → Ctx) : (k.modCtx x f).ctx x = f (k.ctx x) := by
  rw [Core.ctx_modCtx, if_pos rfl]

/-- Changing a context changes it alone. -/
theorem State.ctx_modCtx (s : State) (c x d y : Nat) (f : Ctx → Ctx) :
    (s.modCtx c x f).ctx d y = if d = c ∧ y = x then f (s.ctx c x) else s.ctx d y := by
  unfold State.ctx State.modCtx
  rw [State.core_modCore]
  by_cases hd : d = c
  · subst hd; rw [if_pos rfl, Core.ctx_modCtx]; by_cases hy : y = x <;> simp [hy]
  · simp [hd]

@[simp] theorem State.ctx_modCtx_same (s : State) (c x : Nat) (f : Ctx → Ctx) : (s.modCtx c x f).ctx c x = f (s.ctx c x) := by
  rw [State.ctx_modCtx, if_pos ⟨rfl, rfl⟩]

@[simp] theorem State.me_modMe (s : State) (f : Ctx → Ctx) : (s.modMe f).me = f s.me := State.ctx_modCtx_same s _ _ f

/-- A change of a context's core that leaves its contexts leaves the context. -/
theorem State.ctx_modCore (s : State) (c d y : Nat) (f : Core → Core) (h : (f (s.core c)).ctxs = (s.core c).ctxs) :
    (s.modCore c f).ctx d y = s.ctx d y := by
  unfold State.ctx
  rw [State.core_modCore]
  by_cases hd : d = c
  · subst hd; rw [if_pos rfl]; unfold Core.ctx; rw [h]
  · rw [if_neg hd]

/-! ### Registers -/

@[simp] theorem State.wrA_zero (s : State) (v : Word) (lat : Nat) (cross : Bool) : s.wrA 0 v lat cross = s := rfl

@[simp] theorem State.wrB_zero (s : State) (v : Word) (lat : Nat) (cross : Bool) : s.wrB 0 v lat cross = s := rfl

theorem State.wrX_a {s : State} (h : s.iss.slot < 2) (n : BitVec 5) (v : Word) (lat : Nat) : s.wrX n v lat = s.wrA n v lat := if_pos h

theorem State.wrX_b {s : State} (h : ¬ s.iss.slot < 2) (n : BitVec 5) (v : Word) (lat : Nat) : s.wrX n v lat = s.wrB n v lat := if_neg h

/-- An a register reads as it was written, and every other as before. -/
theorem State.wrA_get (s : State) {n : BitVec 5} (v : Word) (lat : Nat) (cross : Bool) (h : n ≠ 0) (i : Nat) :
    (s.wrA n v lat cross).me.regs.a.get 0 i = if i = n.toNat then v else s.me.regs.a.get 0 i := by
  unfold State.wrA; rw [if_neg h, State.me_modMe]; exact Tab.get_set _ _ _ _ _

theorem State.wrB_get (s : State) {n : BitVec 5} (v : Word) (lat : Nat) (cross : Bool) (h : n ≠ 0) (i : Nat) :
    (s.wrB n v lat cross).me.regs.b.get 0 i = if i = n.toNat then v else s.me.regs.b.get 0 i := by
  unfold State.wrB; rw [if_neg h, State.me_modMe]; exact Tab.get_set _ _ _ _ _

/-- Writing an a register leaves every field of the state but the cores. -/
theorem State.wrA_rest (s : State) (n : BitVec 5) (v : Word) (lat : Nat) (cross : Bool) :
    s.wrA n v lat cross = { s with cores := (s.wrA n v lat cross).cores } := by
  unfold State.wrA; split <;> rfl

theorem State.wrB_rest (s : State) (n : BitVec 5) (v : Word) (lat : Nat) (cross : Bool) :
    s.wrB n v lat cross = { s with cores := (s.wrB n v lat cross).cores } := by
  unfold State.wrB; split <;> rfl

/-! ### Events -/

/-- An event for a package is posted here or sent there; nothing else changes. -/
theorem State.deliver_cases (s : State) (p : Nat) (e : Instr) :
    (p = s.peer.toNat ∧ s.deliver p e = s.post [e]) ∨ (p ≠ s.peer.toNat ∧ s.deliver p e = s.send p e) := by
  unfold State.deliver; by_cases h : p = s.peer.toNat <;> simp [h]

@[simp] theorem State.deliver_mem (s : State) (p : Nat) (e : Instr) : (s.deliver p e).mem = s.mem := by
  unfold State.deliver; split <;> rfl

@[simp] theorem State.deliver_cores (s : State) (p : Nat) (e : Instr) : (s.deliver p e).cores = s.cores := by
  unfold State.deliver; split <;> rfl

/-! ### Commands -/

/-- A queued command stands last on its core. -/
theorem State.enqueue_cmds (s : State) (eng : Option Engine) (op : CmdOp) (numbered : Bool) :
    ∃ c : Cmd, (s.enqueue eng op numbered).myCore.cmds = s.myCore.cmds ++ [c] ∧ c.op = op ∧ c.engine = eng ∧ c.ctx = s.iss.ctx ∧
      c.running = false := by
  let c : Cmd :=
    { serial := s.myCore.nextSerial, ctx := s.iss.ctx, engine := eng, seq := if numbered then s.me.cmdNo else 0, pc := s.me.pc
      bundle := s.me.bundle, win := s.me.winBase, winLen := s.me.winLen, op := op, running := false, progress := 0, fetched := false
      steps := 0, panel := 0, feWait := none }
  refine ⟨c, ?_, rfl, rfl, rfl, rfl⟩
  have one : (s.modMyCore fun k => { k with cmds := k.cmds ++ [c], nextSerial := k.nextSerial + 1 }).myCore.cmds =
      s.myCore.cmds ++ [c] := by
    unfold State.myCore State.modMyCore; rw [State.modCore_iss, State.core_modCore_same]
  cases numbered
  · exact one
  · rw [← one]
    unfold State.enqueue State.myCore State.modMe State.modCtx
    rw [if_pos rfl, State.modCore_iss, State.core_modCore_same]
    rfl

theorem State.enqueue_rest (s : State) (eng : Option Engine) (op : CmdOp) (numbered : Bool) :
    s.enqueue eng op numbered = { s with cores := (s.enqueue eng op numbered).cores } := by
  cases numbered <;> rfl

/-! ### Translation -/

/-- An address translates to a place of the class its access may use, or the form traps at it. -/
theorem xlate_cases (a : Access) (va : Word) (s : State) :
    (∃ c, s.translate s.iss.core s.iss.ctx a va.toNat = .error c ∧ xlate a va s = .error (.trap c va)) ∨
    (∃ t f, s.translate s.iss.core s.iss.ctx a va.toNat = .ok (t, f) ∧
      xlate a va s = .ok (t, s.modMyCore fun k => k.keepFrame f)) := by
  unfold xlate
  cases h : s.translate s.iss.core s.iss.ctx a va.toNat with
  | error c => exact .inl ⟨c, rfl, rfl⟩
  | ok p => exact .inr ⟨p.1, p.2, rfl, rfl⟩

end Sys2Proof.Machine
end

