-- ==== Sys2Proof/Laws/Memory.lean ====
section
/-! SUPPORT. Memory: every operation that writes bytes keeps the canonical form; reading a byte after a write. -/

namespace Sys2Proof.Machine

/-! ### The canonical form -/

theorem Memory.wf_reset : Memory.wf State.reset.mem = true := rfl

theorem State.setByte_wf (s : State) (a : Nat) (v : Byte) (h : Memory.wf s.mem = true) : Memory.wf (s.setByte a v).mem = true :=
  Tab.wf_set a v h

theorem State.writeBytes_wf (s : State) (a : Nat) (bs : List Byte) (h : Memory.wf s.mem = true) :
    Memory.wf (s.writeBytes a bs).mem = true := by
  induction bs generalizing s a with
  | nil => exact h
  | cons b r ih => exact ih _ _ (s.setByte_wf a b h)

theorem State.writeNat_wf (s : State) (a n v : Nat) (h : Memory.wf s.mem = true) : Memory.wf (s.writeNat a n v).mem = true :=
  s.writeBytes_wf a _ h

theorem State.writeRange_wf (s : State) (a : Nat) (bs : List Byte) (h : Memory.wf s.mem = true) :
    Memory.wf (s.writeRange a bs).mem = true :=
  s.writeBytes_wf a bs h

theorem State.writeHandle_wf (s : State) (a : Nat) (hd : Handle) (h : Memory.wf s.mem = true) :
    Memory.wf (s.writeHandle a hd).mem = true := by
  unfold State.writeHandle; rw [State.setTag_mem]; exact s.writeNat_wf a 8 _ h

theorem State.clearWord_wf (s : State) (a : Nat) (h : Memory.wf s.mem = true) : Memory.wf (s.clearWord a).mem = true := by
  unfold State.clearWord; rw [State.setTag_mem]; exact s.writeNat_wf a 8 0 h

/-- Memory with a range taken out, as a new tile's storage is (R63). -/
theorem Memory.wf_filter (m : List Host.Cell) (p : Host.Cell → Bool) (h : Memory.wf m = true) : Memory.wf (m.filter p) = true :=
  Tab.wf_filter p h

/-! ### Reading after writing -/

/-- A byte of the frames that show the tile table or the shadow pool (R30, R46, R273). -/
abbrev isShown (pa : Nat) : Prop := isTileTable pa = true ∨ isShadowPool pa = true

theorem State.byte_plain (s : State) {a : Nat} (h : ¬ isShown a) : s.byte a = Tab.get s.mem 0 a := by
  unfold State.byte
  rw [if_neg (fun q => h (.inl q)), if_neg (fun q => h (.inr q))]

/-- What a frame that shows something reads depends on the tile table and the shadows alone. -/
theorem State.tableByte_congr {s t : State} (ht : t.tiles = s.tiles) : t.tableByte = s.tableByte := by
  funext d o; unfold State.tableByte; rw [ht]

theorem State.poolByte_congr {s t : State} (hs : t.shadows = s.shadows) : t.poolByte = s.poolByte := by
  funext d o; unfold State.poolByte; rw [hs]

/-- What memory reads depends on its bytes, the tile table and the shadows alone. -/
theorem State.byte_congr {s t : State} (hm : t.mem = s.mem) (ht : t.tiles = s.tiles) (hs : t.shadows = s.shadows) (a : Nat) :
    t.byte a = s.byte a := by
  unfold State.byte; rw [hm, State.tableByte_congr ht, State.poolByte_congr hs]

theorem State.byte_shown {s t : State} (ht : t.tiles = s.tiles) (hs : t.shadows = s.shadows) {a : Nat} (h : isShown a) :
    t.byte a = s.byte a := by
  unfold State.byte; rw [State.tableByte_congr ht, State.poolByte_congr hs]
  rcases h with h | h <;> simp [h]

theorem State.setByte_byte (s : State) (a i : Nat) (v : Byte) :
    (s.setByte a v).byte i = if i = a ∧ ¬ isShown a then v else s.byte i := by
  by_cases hi : isShown i
  · rw [if_neg (fun q => q.2 (q.1 ▸ hi))]
    exact State.byte_shown (s := s) (t := s.setByte a v) rfl rfl hi
  · rw [State.byte_plain _ hi]
    show (Tab.set s.mem 0 a v).get 0 i = _
    rw [Tab.get_set]
    by_cases e : i = a
    · subst e; simp [hi]
    · rw [if_neg e, if_neg (fun h => e h.1), State.byte_plain _ hi]

/-- Writing a run of bytes leaves every byte outside the run as it was. -/
theorem State.writeBytes_outside (s : State) (a : Nat) (bs : List Byte) (i : Nat) (h : i < a ∨ a + bs.length ≤ i) :
    (s.writeBytes a bs).byte i = s.byte i := by
  induction bs generalizing s a with
  | nil => rfl
  | cons b r ih =>
    rw [List.length_cons] at h
    show ((s.setByte a b).writeBytes (a + 1) r).byte i = _
    rw [ih _ _ (by omega), State.setByte_byte, if_neg (by omega)]

end Sys2Proof.Machine
end

