-- ==== Sys2Proof/Laws/PerInstr.lean ====
section
/-! SUPPORT. One lemma per instruction about its syntax: its encoding stands in the slot that the encoder names (R92, R93). The events have no encoding. -/

namespace Sys2Proof

/-- A field that lies above the last part of a word. -/
theorem fld_append_hi {m n lo k : Nat} (x : BitVec m) (y : BitVec n) (h : n ≤ lo) :
    (x ++ y).extractLsb' lo k = x.extractLsb' (lo - n) k := by
  apply BitVec.eq_of_getElem_eq; intro i hi
  simp only [BitVec.getElem_extractLsb', BitVec.getLsbD_append]
  rw [if_neg (by omega)]; congr 1; omega

/-- What an encoding is: a header, or a word whose opcode may stand in the slot of its group. -/
def Laws.Encoding.Statement (i : Instr) : Prop :=
  ∀ w l, encode i = some (w, l) → (encodeSlot i = 0 ∧ isHeader w = true) ∨
    (opcodeSlot (fld w 24 8).toNat (encodeSlot i) = true ∧ (encodeSlot i = 0 → isHeader w = false))

/-- An instruction without an encoding. -/
theorem encoding_none {i : Instr} (h : encode i = none) : Laws.Encoding.Statement i := by
  intro w l e; rw [h] at e; cases e

/-- An instruction whose word has a known opcode. -/
theorem encoding_some {i : Instr} {w : BitVec 32} {l : BitVec 6} {op : BitVec 8} (h : encode i = some (w, l)) (ho : fld w 24 8 = op)
    (hi : ∀ l1 l2 l3 stall scope sync q, i ≠ .hdr l1 l2 l3 stall scope sync q)
    (hs : opcodeSlot op.toNat (canonicalSlot op.toNat) = true) (hh : canonicalSlot op.toNat = 0 → op.extractLsb' 6 2 ≠ 3) :
    Laws.Encoding.Statement i := by
  intro w' l' e
  rw [h] at e; cases e
  have hc : encodeSlot i = canonicalSlot op.toNat := by
    unfold encodeSlot; rw [h]; dsimp only; rw [ho]; split
    · exact absurd rfl (hi _ _ _ _ _ _ _)
    · rfl
  refine .inr ⟨by rw [ho, hc]; exact hs, fun z => ?_⟩
  have hx : fld w 30 2 = op.extractLsb' 6 2 := by
    rw [← ho]; unfold fld
    apply BitVec.eq_of_getElem_eq; intro i hi
    have h8 : 6 + i < 8 := by omega
    simp only [BitVec.getElem_extractLsb', BitVec.getLsbD_extractLsb', h8, decide_true, Bool.true_and]
    congr 1; omega
  simp only [isHeader, hx]
  exact decide_eq_false (hh (hc ▸ z))

theorem Laws.Encoding.hdr (l1 : BitVec 6) (l2 : BitVec 6) (l3 : BitVec 6) (stall : BitVec 3) (scope : BitVec 3) (sync : BitVec 2) (q : BitVec 4) : Laws.Encoding.Statement (.hdr l1 l2 l3 stall scope sync q) := by
  intro w' l' e; cases e
  refine .inl ⟨rfl, ?_⟩
  unfold isHeader fld
  repeat rw [fld_append_hi _ _ (by decide)]
  rfl
theorem Laws.Encoding.nop (g : BitVec 4) : Laws.Encoding.Statement (.nop g) :=
  encoding_some (w := 0x00#8 ++ g ++ 0#20) (op := 0x00) rfl
    (by unfold fld; repeat rw [fld_append_hi _ _ (by decide)]
        rfl)
    (by intros; exact Instr.noConfusion) (by decide) (by decide)
theorem Laws.Encoding.br (g : BitVec 4) (off : BitVec 20) : Laws.Encoding.Statement (.br g off) :=
  encoding_some (w := 0x01#8 ++ g ++ off) (op := 0x01) rfl
    (by unfold fld; repeat rw [fld_append_hi _ _ (by decide)]
        rfl)
    (by intros; exact Instr.noConfusion) (by decide) (by decide)
theorem Laws.Encoding.brx (g : BitVec 4) (d : BitVec 5) (s : BitVec 5) : Laws.Encoding.Statement (.brx g d s) :=
  encoding_some (w := 0x02#8 ++ g ++ d ++ s ++ 0#10) (op := 0x02) rfl
    (by unfold fld; repeat rw [fld_append_hi _ _ (by decide)]
        rfl)
    (by intros; exact Instr.noConfusion) (by decide) (by decide)
theorem Laws.Encoding.call (g : BitVec 4) (off : BitVec 20) : Laws.Encoding.Statement (.call g off) :=
  encoding_some (w := 0x03#8 ++ g ++ off) (op := 0x03) rfl
    (by unfold fld; repeat rw [fld_append_hi _ _ (by decide)]
        rfl)
    (by intros; exact Instr.noConfusion) (by decide) (by decide)
theorem Laws.Encoding.ret (g : BitVec 4) (s : BitVec 5) : Laws.Encoding.Statement (.ret g s) :=
  encoding_some (w := 0x04#8 ++ g ++ 0#5 ++ s ++ 0#10) (op := 0x04) rfl
    (by unfold fld; repeat rw [fld_append_hi _ _ (by decide)]
        rfl)
    (by intros; exact Instr.noConfusion) (by decide) (by decide)
theorem Laws.Encoding.loop (g : BitVec 4) (stg : BitVec 3) (cnt : BitVec 10) (len : BitVec 7) : Laws.Encoding.Statement (.loop g stg cnt len) :=
  encoding_some (w := 0x05#8 ++ g ++ stg ++ cnt ++ len) (op := 0x05) rfl
    (by unfold fld; repeat rw [fld_append_hi _ _ (by decide)]
        rfl)
    (by intros; exact Instr.noConfusion) (by decide) (by decide)
theorem Laws.Encoding.loopx (g : BitVec 4) (stg : BitVec 3) (c : BitVec 5) (len : BitVec 7) : Laws.Encoding.Statement (.loopx g stg c len) :=
  encoding_some (w := 0x06#8 ++ g ++ stg ++ 0#5 ++ c ++ len) (op := 0x06) rfl
    (by unfold fld; repeat rw [fld_append_hi _ _ (by decide)]
        rfl)
    (by intros; exact Instr.noConfusion) (by decide) (by decide)
theorem Laws.Encoding.lbrk (g : BitVec 4) : Laws.Encoding.Statement (.lbrk g) :=
  encoding_some (w := 0x07#8 ++ g ++ 0#20) (op := 0x07) rfl
    (by unfold fld; repeat rw [fld_append_hi _ _ (by decide)]
        rfl)
    (by intros; exact Instr.noConfusion) (by decide) (by decide)
theorem Laws.Encoding.halt (g : BitVec 4) : Laws.Encoding.Statement (.halt g) :=
  encoding_some (w := 0x08#8 ++ g ++ 0#20) (op := 0x08) rfl
    (by unfold fld; repeat rw [fld_append_hi _ _ (by decide)]
        rfl)
    (by intros; exact Instr.noConfusion) (by decide) (by decide)
theorem Laws.Encoding.trap (g : BitVec 4) (imm : BitVec 15) : Laws.Encoding.Statement (.trap g imm) :=
  encoding_some (w := 0x09#8 ++ g ++ 0#5 ++ imm) (op := 0x09) rfl
    (by unfold fld; repeat rw [fld_append_hi _ _ (by decide)]
        rfl)
    (by intros; exact Instr.noConfusion) (by decide) (by decide)
theorem Laws.Encoding.eret (g : BitVec 4) : Laws.Encoding.Statement (.eret g) :=
  encoding_some (w := 0x0a#8 ++ g ++ 0#20) (op := 0x0a) rfl
    (by unfold fld; repeat rw [fld_append_hi _ _ (by decide)]
        rfl)
    (by intros; exact Instr.noConfusion) (by decide) (by decide)
theorem Laws.Encoding.yield (g : BitVec 4) : Laws.Encoding.Statement (.yield g) :=
  encoding_some (w := 0x0b#8 ++ g ++ 0#20) (op := 0x0b) rfl
    (by unfold fld; repeat rw [fld_append_hi _ _ (by decide)]
        rfl)
    (by intros; exact Instr.noConfusion) (by decide) (by decide)
theorem Laws.Encoding.waitGe (g : BitVec 4) (q : BitVec 4) (s : BitVec 5) (imm : BitVec 8) : Laws.Encoding.Statement (.waitGe g q s imm) :=
  encoding_some (w := 0x0c#8 ++ g ++ q ++ 0#3 ++ s ++ imm) (op := 0x0c) rfl
    (by unfold fld; repeat rw [fld_append_hi _ _ (by decide)]
        rfl)
    (by intros; exact Instr.noConfusion) (by decide) (by decide)
theorem Laws.Encoding.waitEq (g : BitVec 4) (q : BitVec 4) (s : BitVec 5) (imm : BitVec 8) : Laws.Encoding.Statement (.waitEq g q s imm) :=
  encoding_some (w := 0x0c#8 ++ g ++ q ++ 1#3 ++ s ++ imm) (op := 0x0c) rfl
    (by unfold fld; repeat rw [fld_append_hi _ _ (by decide)]
        rfl)
    (by intros; exact Instr.noConfusion) (by decide) (by decide)
theorem Laws.Encoding.waitTake (g : BitVec 4) (q : BitVec 4) (s : BitVec 5) (imm : BitVec 8) : Laws.Encoding.Statement (.waitTake g q s imm) :=
  encoding_some (w := 0x0c#8 ++ g ++ q ++ 2#3 ++ s ++ imm) (op := 0x0c) rfl
    (by unfold fld; repeat rw [fld_append_hi _ _ (by decide)]
        rfl)
    (by intros; exact Instr.noConfusion) (by decide) (by decide)
theorem Laws.Encoding.postInc (g : BitVec 4) (q : BitVec 4) (s : BitVec 5) (imm : BitVec 8) : Laws.Encoding.Statement (.postInc g q s imm) :=
  encoding_some (w := 0x0d#8 ++ g ++ q ++ 0#3 ++ s ++ imm) (op := 0x0d) rfl
    (by unfold fld; repeat rw [fld_append_hi _ _ (by decide)]
        rfl)
    (by intros; exact Instr.noConfusion) (by decide) (by decide)
theorem Laws.Encoding.postSet (g : BitVec 4) (q : BitVec 4) (s : BitVec 5) (imm : BitVec 8) : Laws.Encoding.Statement (.postSet g q s imm) :=
  encoding_some (w := 0x0d#8 ++ g ++ q ++ 1#3 ++ s ++ imm) (op := 0x0d) rfl
    (by unfold fld; repeat rw [fld_append_hi _ _ (by decide)]
        rfl)
    (by intros; exact Instr.noConfusion) (by decide) (by decide)
theorem Laws.Encoding.rpost (g : BitVec 4) (q : BitVec 4) (s : BitVec 5) (imm : BitVec 8) : Laws.Encoding.Statement (.rpost g q s imm) :=
  encoding_some (w := 0x0e#8 ++ g ++ q ++ 0#3 ++ s ++ imm) (op := 0x0e) rfl
    (by unfold fld; repeat rw [fld_append_hi _ _ (by decide)]
        rfl)
    (by intros; exact Instr.noConfusion) (by decide) (by decide)
theorem Laws.Encoding.barj (g : BitVec 4) (k : BitVec 3) : Laws.Encoding.Statement (.barj g k) :=
  encoding_some (w := 0x0f#8 ++ g ++ 0#1 ++ k ++ 0#16) (op := 0x0f) rfl
    (by unfold fld; repeat rw [fld_append_hi _ _ (by decide)]
        rfl)
    (by intros; exact Instr.noConfusion) (by decide) (by decide)
theorem Laws.Encoding.barw (g : BitVec 4) (k : BitVec 3) : Laws.Encoding.Statement (.barw g k) :=
  encoding_some (w := 0x10#8 ++ g ++ 0#1 ++ k ++ 0#16) (op := 0x10) rfl
    (by unfold fld; repeat rw [fld_append_hi _ _ (by decide)]
        rfl)
    (by intros; exact Instr.noConfusion) (by decide) (by decide)
theorem Laws.Encoding.fenceFull (g : BitVec 4) (c : BitVec 3) : Laws.Encoding.Statement (.fenceFull g c) :=
  encoding_some (w := 0x11#8 ++ g ++ 0#17 ++ c) (op := 0x11) rfl
    (by unfold fld; repeat rw [fld_append_hi _ _ (by decide)]
        rfl)
    (by intros; exact Instr.noConfusion) (by decide) (by decide)
theorem Laws.Encoding.fenceAcq (g : BitVec 4) (c : BitVec 3) : Laws.Encoding.Statement (.fenceAcq g c) :=
  encoding_some (w := 0x11#8 ++ g ++ 1024#17 ++ c) (op := 0x11) rfl
    (by unfold fld; repeat rw [fld_append_hi _ _ (by decide)]
        rfl)
    (by intros; exact Instr.noConfusion) (by decide) (by decide)
theorem Laws.Encoding.fenceRel (g : BitVec 4) (c : BitVec 3) : Laws.Encoding.Statement (.fenceRel g c) :=
  encoding_some (w := 0x11#8 ++ g ++ 2048#17 ++ c) (op := 0x11) rfl
    (by unfold fld; repeat rw [fld_append_hi _ _ (by decide)]
        rfl)
    (by intros; exact Instr.noConfusion) (by decide) (by decide)
theorem Laws.Encoding.timeDom (g : BitVec 4) (d : BitVec 5) : Laws.Encoding.Statement (.timeDom g d) :=
  encoding_some (w := 0x12#8 ++ g ++ d ++ 0#15) (op := 0x12) rfl
    (by unfold fld; repeat rw [fld_append_hi _ _ (by decide)]
        rfl)
    (by intros; exact Instr.noConfusion) (by decide) (by decide)
theorem Laws.Encoding.timeCyc (g : BitVec 4) (d : BitVec 5) : Laws.Encoding.Statement (.timeCyc g d) :=
  encoding_some (w := 0x12#8 ++ g ++ d ++ 1#15) (op := 0x12) rfl
    (by unfold fld; repeat rw [fld_append_hi _ _ (by decide)]
        rfl)
    (by intros; exact Instr.noConfusion) (by decide) (by decide)
theorem Laws.Encoding.rdsr (g : BitVec 4) (d : BitVec 5) (sr : BitVec 12) : Laws.Encoding.Statement (.rdsr g d sr) :=
  encoding_some (w := 0x13#8 ++ g ++ d ++ sr ++ 0#3) (op := 0x13) rfl
    (by unfold fld; repeat rw [fld_append_hi _ _ (by decide)]
        rfl)
    (by intros; exact Instr.noConfusion) (by decide) (by decide)
theorem Laws.Encoding.wrsr (g : BitVec 4) (d : BitVec 5) (sr : BitVec 12) : Laws.Encoding.Statement (.wrsr g d sr) :=
  encoding_some (w := 0x14#8 ++ g ++ d ++ sr ++ 0#3) (op := 0x14) rfl
    (by unfold fld; repeat rw [fld_append_hi _ _ (by decide)]
        rfl)
    (by intros; exact Instr.noConfusion) (by decide) (by decide)
theorem Laws.Encoding.launch (g : BitVec 4) (d : BitVec 5) (s : BitVec 5) (t : BitVec 5) : Laws.Encoding.Statement (.launch g d s t) :=
  encoding_some (w := 0x15#8 ++ g ++ d ++ s ++ t ++ 0#5) (op := 0x15) rfl
    (by unfold fld; repeat rw [fld_append_hi _ _ (by decide)]
        rfl)
    (by intros; exact Instr.noConfusion) (by decide) (by decide)
theorem Laws.Encoding.drain (g : BitVec 4) : Laws.Encoding.Statement (.drain g) :=
  encoding_some (w := 0x16#8 ++ g ++ 0#20) (op := 0x16) rfl
    (by unfold fld; repeat rw [fld_append_hi _ _ (by decide)]
        rfl)
    (by intros; exact Instr.noConfusion) (by decide) (by decide)
theorem Laws.Encoding.add (g : BitVec 4) (d : BitVec 5) (s : BitVec 5) (t : BitVec 5) : Laws.Encoding.Statement (.add g d s t) :=
  encoding_some (w := 0x20#8 ++ g ++ d ++ s ++ t ++ 0#5) (op := 0x20) rfl
    (by unfold fld; repeat rw [fld_append_hi _ _ (by decide)]
        rfl)
    (by intros; exact Instr.noConfusion) (by decide) (by decide)
theorem Laws.Encoding.addW (g : BitVec 4) (d : BitVec 5) (s : BitVec 5) (t : BitVec 5) : Laws.Encoding.Statement (.addW g d s t) :=
  encoding_some (w := 0x20#8 ++ g ++ d ++ s ++ t ++ 1#5) (op := 0x20) rfl
    (by unfold fld; repeat rw [fld_append_hi _ _ (by decide)]
        rfl)
    (by intros; exact Instr.noConfusion) (by decide) (by decide)
theorem Laws.Encoding.sub (g : BitVec 4) (d : BitVec 5) (s : BitVec 5) (t : BitVec 5) : Laws.Encoding.Statement (.sub g d s t) :=
  encoding_some (w := 0x21#8 ++ g ++ d ++ s ++ t ++ 0#5) (op := 0x21) rfl
    (by unfold fld; repeat rw [fld_append_hi _ _ (by decide)]
        rfl)
    (by intros; exact Instr.noConfusion) (by decide) (by decide)
theorem Laws.Encoding.subW (g : BitVec 4) (d : BitVec 5) (s : BitVec 5) (t : BitVec 5) : Laws.Encoding.Statement (.subW g d s t) :=
  encoding_some (w := 0x21#8 ++ g ++ d ++ s ++ t ++ 1#5) (op := 0x21) rfl
    (by unfold fld; repeat rw [fld_append_hi _ _ (by decide)]
        rfl)
    (by intros; exact Instr.noConfusion) (by decide) (by decide)
theorem Laws.Encoding.mul (g : BitVec 4) (d : BitVec 5) (s : BitVec 5) (t : BitVec 5) : Laws.Encoding.Statement (.mul g d s t) :=
  encoding_some (w := 0x22#8 ++ g ++ d ++ s ++ t ++ 0#5) (op := 0x22) rfl
    (by unfold fld; repeat rw [fld_append_hi _ _ (by decide)]
        rfl)
    (by intros; exact Instr.noConfusion) (by decide) (by decide)
theorem Laws.Encoding.mulW (g : BitVec 4) (d : BitVec 5) (s : BitVec 5) (t : BitVec 5) : Laws.Encoding.Statement (.mulW g d s t) :=
  encoding_some (w := 0x22#8 ++ g ++ d ++ s ++ t ++ 1#5) (op := 0x22) rfl
    (by unfold fld; repeat rw [fld_append_hi _ _ (by decide)]
        rfl)
    (by intros; exact Instr.noConfusion) (by decide) (by decide)
theorem Laws.Encoding.mulh (g : BitVec 4) (d : BitVec 5) (s : BitVec 5) (t : BitVec 5) : Laws.Encoding.Statement (.mulh g d s t) :=
  encoding_some (w := 0x23#8 ++ g ++ d ++ s ++ t ++ 0#5) (op := 0x23) rfl
    (by unfold fld; repeat rw [fld_append_hi _ _ (by decide)]
        rfl)
    (by intros; exact Instr.noConfusion) (by decide) (by decide)
theorem Laws.Encoding.mulhu (g : BitVec 4) (d : BitVec 5) (s : BitVec 5) (t : BitVec 5) : Laws.Encoding.Statement (.mulhu g d s t) :=
  encoding_some (w := 0x24#8 ++ g ++ d ++ s ++ t ++ 0#5) (op := 0x24) rfl
    (by unfold fld; repeat rw [fld_append_hi _ _ (by decide)]
        rfl)
    (by intros; exact Instr.noConfusion) (by decide) (by decide)
theorem Laws.Encoding.div (g : BitVec 4) (d : BitVec 5) (s : BitVec 5) (t : BitVec 5) : Laws.Encoding.Statement (.div g d s t) :=
  encoding_some (w := 0x25#8 ++ g ++ d ++ s ++ t ++ 0#5) (op := 0x25) rfl
    (by unfold fld; repeat rw [fld_append_hi _ _ (by decide)]
        rfl)
    (by intros; exact Instr.noConfusion) (by decide) (by decide)
theorem Laws.Encoding.divW (g : BitVec 4) (d : BitVec 5) (s : BitVec 5) (t : BitVec 5) : Laws.Encoding.Statement (.divW g d s t) :=
  encoding_some (w := 0x25#8 ++ g ++ d ++ s ++ t ++ 1#5) (op := 0x25) rfl
    (by unfold fld; repeat rw [fld_append_hi _ _ (by decide)]
        rfl)
    (by intros; exact Instr.noConfusion) (by decide) (by decide)
theorem Laws.Encoding.divu (g : BitVec 4) (d : BitVec 5) (s : BitVec 5) (t : BitVec 5) : Laws.Encoding.Statement (.divu g d s t) :=
  encoding_some (w := 0x26#8 ++ g ++ d ++ s ++ t ++ 0#5) (op := 0x26) rfl
    (by unfold fld; repeat rw [fld_append_hi _ _ (by decide)]
        rfl)
    (by intros; exact Instr.noConfusion) (by decide) (by decide)
theorem Laws.Encoding.divuW (g : BitVec 4) (d : BitVec 5) (s : BitVec 5) (t : BitVec 5) : Laws.Encoding.Statement (.divuW g d s t) :=
  encoding_some (w := 0x26#8 ++ g ++ d ++ s ++ t ++ 1#5) (op := 0x26) rfl
    (by unfold fld; repeat rw [fld_append_hi _ _ (by decide)]
        rfl)
    (by intros; exact Instr.noConfusion) (by decide) (by decide)
theorem Laws.Encoding.rem (g : BitVec 4) (d : BitVec 5) (s : BitVec 5) (t : BitVec 5) : Laws.Encoding.Statement (.rem g d s t) :=
  encoding_some (w := 0x27#8 ++ g ++ d ++ s ++ t ++ 0#5) (op := 0x27) rfl
    (by unfold fld; repeat rw [fld_append_hi _ _ (by decide)]
        rfl)
    (by intros; exact Instr.noConfusion) (by decide) (by decide)
theorem Laws.Encoding.remW (g : BitVec 4) (d : BitVec 5) (s : BitVec 5) (t : BitVec 5) : Laws.Encoding.Statement (.remW g d s t) :=
  encoding_some (w := 0x27#8 ++ g ++ d ++ s ++ t ++ 1#5) (op := 0x27) rfl
    (by unfold fld; repeat rw [fld_append_hi _ _ (by decide)]
        rfl)
    (by intros; exact Instr.noConfusion) (by decide) (by decide)
theorem Laws.Encoding.remu (g : BitVec 4) (d : BitVec 5) (s : BitVec 5) (t : BitVec 5) : Laws.Encoding.Statement (.remu g d s t) :=
  encoding_some (w := 0x28#8 ++ g ++ d ++ s ++ t ++ 0#5) (op := 0x28) rfl
    (by unfold fld; repeat rw [fld_append_hi _ _ (by decide)]
        rfl)
    (by intros; exact Instr.noConfusion) (by decide) (by decide)
theorem Laws.Encoding.remuW (g : BitVec 4) (d : BitVec 5) (s : BitVec 5) (t : BitVec 5) : Laws.Encoding.Statement (.remuW g d s t) :=
  encoding_some (w := 0x28#8 ++ g ++ d ++ s ++ t ++ 1#5) (op := 0x28) rfl
    (by unfold fld; repeat rw [fld_append_hi _ _ (by decide)]
        rfl)
    (by intros; exact Instr.noConfusion) (by decide) (by decide)
theorem Laws.Encoding.and (g : BitVec 4) (d : BitVec 5) (s : BitVec 5) (t : BitVec 5) : Laws.Encoding.Statement (.and g d s t) :=
  encoding_some (w := 0x29#8 ++ g ++ d ++ s ++ t ++ 0#5) (op := 0x29) rfl
    (by unfold fld; repeat rw [fld_append_hi _ _ (by decide)]
        rfl)
    (by intros; exact Instr.noConfusion) (by decide) (by decide)
theorem Laws.Encoding.or (g : BitVec 4) (d : BitVec 5) (s : BitVec 5) (t : BitVec 5) : Laws.Encoding.Statement (.or g d s t) :=
  encoding_some (w := 0x2a#8 ++ g ++ d ++ s ++ t ++ 0#5) (op := 0x2a) rfl
    (by unfold fld; repeat rw [fld_append_hi _ _ (by decide)]
        rfl)
    (by intros; exact Instr.noConfusion) (by decide) (by decide)
theorem Laws.Encoding.xor (g : BitVec 4) (d : BitVec 5) (s : BitVec 5) (t : BitVec 5) : Laws.Encoding.Statement (.xor g d s t) :=
  encoding_some (w := 0x2b#8 ++ g ++ d ++ s ++ t ++ 0#5) (op := 0x2b) rfl
    (by unfold fld; repeat rw [fld_append_hi _ _ (by decide)]
        rfl)
    (by intros; exact Instr.noConfusion) (by decide) (by decide)
theorem Laws.Encoding.shl (g : BitVec 4) (d : BitVec 5) (s : BitVec 5) (t : BitVec 5) : Laws.Encoding.Statement (.shl g d s t) :=
  encoding_some (w := 0x2c#8 ++ g ++ d ++ s ++ t ++ 0#5) (op := 0x2c) rfl
    (by unfold fld; repeat rw [fld_append_hi _ _ (by decide)]
        rfl)
    (by intros; exact Instr.noConfusion) (by decide) (by decide)
theorem Laws.Encoding.shlW (g : BitVec 4) (d : BitVec 5) (s : BitVec 5) (t : BitVec 5) : Laws.Encoding.Statement (.shlW g d s t) :=
  encoding_some (w := 0x2c#8 ++ g ++ d ++ s ++ t ++ 1#5) (op := 0x2c) rfl
    (by unfold fld; repeat rw [fld_append_hi _ _ (by decide)]
        rfl)
    (by intros; exact Instr.noConfusion) (by decide) (by decide)
theorem Laws.Encoding.shr (g : BitVec 4) (d : BitVec 5) (s : BitVec 5) (t : BitVec 5) : Laws.Encoding.Statement (.shr g d s t) :=
  encoding_some (w := 0x2d#8 ++ g ++ d ++ s ++ t ++ 0#5) (op := 0x2d) rfl
    (by unfold fld; repeat rw [fld_append_hi _ _ (by decide)]
        rfl)
    (by intros; exact Instr.noConfusion) (by decide) (by decide)
theorem Laws.Encoding.shrW (g : BitVec 4) (d : BitVec 5) (s : BitVec 5) (t : BitVec 5) : Laws.Encoding.Statement (.shrW g d s t) :=
  encoding_some (w := 0x2d#8 ++ g ++ d ++ s ++ t ++ 1#5) (op := 0x2d) rfl
    (by unfold fld; repeat rw [fld_append_hi _ _ (by decide)]
        rfl)
    (by intros; exact Instr.noConfusion) (by decide) (by decide)
theorem Laws.Encoding.sra (g : BitVec 4) (d : BitVec 5) (s : BitVec 5) (t : BitVec 5) : Laws.Encoding.Statement (.sra g d s t) :=
  encoding_some (w := 0x2e#8 ++ g ++ d ++ s ++ t ++ 0#5) (op := 0x2e) rfl
    (by unfold fld; repeat rw [fld_append_hi _ _ (by decide)]
        rfl)
    (by intros; exact Instr.noConfusion) (by decide) (by decide)
theorem Laws.Encoding.sraW (g : BitVec 4) (d : BitVec 5) (s : BitVec 5) (t : BitVec 5) : Laws.Encoding.Statement (.sraW g d s t) :=
  encoding_some (w := 0x2e#8 ++ g ++ d ++ s ++ t ++ 1#5) (op := 0x2e) rfl
    (by unfold fld; repeat rw [fld_append_hi _ _ (by decide)]
        rfl)
    (by intros; exact Instr.noConfusion) (by decide) (by decide)
theorem Laws.Encoding.rotr (g : BitVec 4) (d : BitVec 5) (s : BitVec 5) (t : BitVec 5) : Laws.Encoding.Statement (.rotr g d s t) :=
  encoding_some (w := 0x2f#8 ++ g ++ d ++ s ++ t ++ 0#5) (op := 0x2f) rfl
    (by unfold fld; repeat rw [fld_append_hi _ _ (by decide)]
        rfl)
    (by intros; exact Instr.noConfusion) (by decide) (by decide)
theorem Laws.Encoding.rotrW (g : BitVec 4) (d : BitVec 5) (s : BitVec 5) (t : BitVec 5) : Laws.Encoding.Statement (.rotrW g d s t) :=
  encoding_some (w := 0x2f#8 ++ g ++ d ++ s ++ t ++ 1#5) (op := 0x2f) rfl
    (by unfold fld; repeat rw [fld_append_hi _ _ (by decide)]
        rfl)
    (by intros; exact Instr.noConfusion) (by decide) (by decide)
theorem Laws.Encoding.clz (g : BitVec 4) (d : BitVec 5) (s : BitVec 5) : Laws.Encoding.Statement (.clz g d s) :=
  encoding_some (w := 0x30#8 ++ g ++ d ++ s ++ 0#10) (op := 0x30) rfl
    (by unfold fld; repeat rw [fld_append_hi _ _ (by decide)]
        rfl)
    (by intros; exact Instr.noConfusion) (by decide) (by decide)
theorem Laws.Encoding.ctz (g : BitVec 4) (d : BitVec 5) (s : BitVec 5) : Laws.Encoding.Statement (.ctz g d s) :=
  encoding_some (w := 0x31#8 ++ g ++ d ++ s ++ 0#10) (op := 0x31) rfl
    (by unfold fld; repeat rw [fld_append_hi _ _ (by decide)]
        rfl)
    (by intros; exact Instr.noConfusion) (by decide) (by decide)
theorem Laws.Encoding.popc (g : BitVec 4) (d : BitVec 5) (s : BitVec 5) : Laws.Encoding.Statement (.popc g d s) :=
  encoding_some (w := 0x32#8 ++ g ++ d ++ s ++ 0#10) (op := 0x32) rfl
    (by unfold fld; repeat rw [fld_append_hi _ _ (by decide)]
        rfl)
    (by intros; exact Instr.noConfusion) (by decide) (by decide)
theorem Laws.Encoding.min (g : BitVec 4) (d : BitVec 5) (s : BitVec 5) (t : BitVec 5) : Laws.Encoding.Statement (.min g d s t) :=
  encoding_some (w := 0x33#8 ++ g ++ d ++ s ++ t ++ 0#5) (op := 0x33) rfl
    (by unfold fld; repeat rw [fld_append_hi _ _ (by decide)]
        rfl)
    (by intros; exact Instr.noConfusion) (by decide) (by decide)
theorem Laws.Encoding.max (g : BitVec 4) (d : BitVec 5) (s : BitVec 5) (t : BitVec 5) : Laws.Encoding.Statement (.max g d s t) :=
  encoding_some (w := 0x34#8 ++ g ++ d ++ s ++ t ++ 0#5) (op := 0x34) rfl
    (by unfold fld; repeat rw [fld_append_hi _ _ (by decide)]
        rfl)
    (by intros; exact Instr.noConfusion) (by decide) (by decide)
theorem Laws.Encoding.minu (g : BitVec 4) (d : BitVec 5) (s : BitVec 5) (t : BitVec 5) : Laws.Encoding.Statement (.minu g d s t) :=
  encoding_some (w := 0x35#8 ++ g ++ d ++ s ++ t ++ 0#5) (op := 0x35) rfl
    (by unfold fld; repeat rw [fld_append_hi _ _ (by decide)]
        rfl)
    (by intros; exact Instr.noConfusion) (by decide) (by decide)
theorem Laws.Encoding.maxu (g : BitVec 4) (d : BitVec 5) (s : BitVec 5) (t : BitVec 5) : Laws.Encoding.Statement (.maxu g d s t) :=
  encoding_some (w := 0x36#8 ++ g ++ d ++ s ++ t ++ 0#5) (op := 0x36) rfl
    (by unfold fld; repeat rw [fld_append_hi _ _ (by decide)]
        rfl)
    (by intros; exact Instr.noConfusion) (by decide) (by decide)
theorem Laws.Encoding.sextB (g : BitVec 4) (d : BitVec 5) (s : BitVec 5) : Laws.Encoding.Statement (.sextB g d s) :=
  encoding_some (w := 0x37#8 ++ g ++ d ++ s ++ 0#10) (op := 0x37) rfl
    (by unfold fld; repeat rw [fld_append_hi _ _ (by decide)]
        rfl)
    (by intros; exact Instr.noConfusion) (by decide) (by decide)
theorem Laws.Encoding.sextH (g : BitVec 4) (d : BitVec 5) (s : BitVec 5) : Laws.Encoding.Statement (.sextH g d s) :=
  encoding_some (w := 0x37#8 ++ g ++ d ++ s ++ 1#10) (op := 0x37) rfl
    (by unfold fld; repeat rw [fld_append_hi _ _ (by decide)]
        rfl)
    (by intros; exact Instr.noConfusion) (by decide) (by decide)
theorem Laws.Encoding.sextW (g : BitVec 4) (d : BitVec 5) (s : BitVec 5) : Laws.Encoding.Statement (.sextW g d s) :=
  encoding_some (w := 0x37#8 ++ g ++ d ++ s ++ 2#10) (op := 0x37) rfl
    (by unfold fld; repeat rw [fld_append_hi _ _ (by decide)]
        rfl)
    (by intros; exact Instr.noConfusion) (by decide) (by decide)
theorem Laws.Encoding.zextB (g : BitVec 4) (d : BitVec 5) (s : BitVec 5) : Laws.Encoding.Statement (.zextB g d s) :=
  encoding_some (w := 0x38#8 ++ g ++ d ++ s ++ 0#10) (op := 0x38) rfl
    (by unfold fld; repeat rw [fld_append_hi _ _ (by decide)]
        rfl)
    (by intros; exact Instr.noConfusion) (by decide) (by decide)
theorem Laws.Encoding.zextH (g : BitVec 4) (d : BitVec 5) (s : BitVec 5) : Laws.Encoding.Statement (.zextH g d s) :=
  encoding_some (w := 0x38#8 ++ g ++ d ++ s ++ 1#10) (op := 0x38) rfl
    (by unfold fld; repeat rw [fld_append_hi _ _ (by decide)]
        rfl)
    (by intros; exact Instr.noConfusion) (by decide) (by decide)
theorem Laws.Encoding.zextW (g : BitVec 4) (d : BitVec 5) (s : BitVec 5) : Laws.Encoding.Statement (.zextW g d s) :=
  encoding_some (w := 0x38#8 ++ g ++ d ++ s ++ 2#10) (op := 0x38) rfl
    (by unfold fld; repeat rw [fld_append_hi _ _ (by decide)]
        rfl)
    (by intros; exact Instr.noConfusion) (by decide) (by decide)
theorem Laws.Encoding.sel (g : BitVec 4) (d : BitVec 5) (s : BitVec 5) (t : BitVec 5) (p : BitVec 4) : Laws.Encoding.Statement (.sel g d s t p) :=
  encoding_some (w := 0x39#8 ++ g ++ d ++ s ++ t ++ 0#1 ++ p) (op := 0x39) rfl
    (by unfold fld; repeat rw [fld_append_hi _ _ (by decide)]
        rfl)
    (by intros; exact Instr.noConfusion) (by decide) (by decide)
theorem Laws.Encoding.cmpEq (g : BitVec 4) (d : BitVec 3) (s : BitVec 5) (t : BitVec 5) : Laws.Encoding.Statement (.cmpEq g d s t) :=
  encoding_some (w := 0x3a#8 ++ g ++ 0#2 ++ d ++ s ++ t ++ 0#5) (op := 0x3a) rfl
    (by unfold fld; repeat rw [fld_append_hi _ _ (by decide)]
        rfl)
    (by intros; exact Instr.noConfusion) (by decide) (by decide)
theorem Laws.Encoding.cmpNe (g : BitVec 4) (d : BitVec 3) (s : BitVec 5) (t : BitVec 5) : Laws.Encoding.Statement (.cmpNe g d s t) :=
  encoding_some (w := 0x3a#8 ++ g ++ 0#2 ++ d ++ s ++ t ++ 1#5) (op := 0x3a) rfl
    (by unfold fld; repeat rw [fld_append_hi _ _ (by decide)]
        rfl)
    (by intros; exact Instr.noConfusion) (by decide) (by decide)
theorem Laws.Encoding.cmpLt (g : BitVec 4) (d : BitVec 3) (s : BitVec 5) (t : BitVec 5) : Laws.Encoding.Statement (.cmpLt g d s t) :=
  encoding_some (w := 0x3a#8 ++ g ++ 0#2 ++ d ++ s ++ t ++ 2#5) (op := 0x3a) rfl
    (by unfold fld; repeat rw [fld_append_hi _ _ (by decide)]
        rfl)
    (by intros; exact Instr.noConfusion) (by decide) (by decide)
theorem Laws.Encoding.cmpLe (g : BitVec 4) (d : BitVec 3) (s : BitVec 5) (t : BitVec 5) : Laws.Encoding.Statement (.cmpLe g d s t) :=
  encoding_some (w := 0x3a#8 ++ g ++ 0#2 ++ d ++ s ++ t ++ 3#5) (op := 0x3a) rfl
    (by unfold fld; repeat rw [fld_append_hi _ _ (by decide)]
        rfl)
    (by intros; exact Instr.noConfusion) (by decide) (by decide)
theorem Laws.Encoding.cmpLtu (g : BitVec 4) (d : BitVec 3) (s : BitVec 5) (t : BitVec 5) : Laws.Encoding.Statement (.cmpLtu g d s t) :=
  encoding_some (w := 0x3a#8 ++ g ++ 0#2 ++ d ++ s ++ t ++ 4#5) (op := 0x3a) rfl
    (by unfold fld; repeat rw [fld_append_hi _ _ (by decide)]
        rfl)
    (by intros; exact Instr.noConfusion) (by decide) (by decide)
theorem Laws.Encoding.cmpLeu (g : BitVec 4) (d : BitVec 3) (s : BitVec 5) (t : BitVec 5) : Laws.Encoding.Statement (.cmpLeu g d s t) :=
  encoding_some (w := 0x3a#8 ++ g ++ 0#2 ++ d ++ s ++ t ++ 5#5) (op := 0x3a) rfl
    (by unfold fld; repeat rw [fld_append_hi _ _ (by decide)]
        rfl)
    (by intros; exact Instr.noConfusion) (by decide) (by decide)
theorem Laws.Encoding.addi (g : BitVec 4) (d : BitVec 5) (s : BitVec 5) (imm : BitVec 15) : Laws.Encoding.Statement (.addi g d s imm) :=
  encoding_some (w := 0x40#8 ++ g ++ d ++ s ++ 0#1 ++ (imm.extractLsb' 0 9)) (op := 0x40) rfl
    (by unfold fld; repeat rw [fld_append_hi _ _ (by decide)]
        rfl)
    (by intros; exact Instr.noConfusion) (by decide) (by decide)
theorem Laws.Encoding.addiW (g : BitVec 4) (d : BitVec 5) (s : BitVec 5) (imm : BitVec 15) : Laws.Encoding.Statement (.addiW g d s imm) :=
  encoding_some (w := 0x40#8 ++ g ++ d ++ s ++ 1#1 ++ (imm.extractLsb' 0 9)) (op := 0x40) rfl
    (by unfold fld; repeat rw [fld_append_hi _ _ (by decide)]
        rfl)
    (by intros; exact Instr.noConfusion) (by decide) (by decide)
theorem Laws.Encoding.andi (g : BitVec 4) (d : BitVec 5) (s : BitVec 5) (imm : BitVec 15) : Laws.Encoding.Statement (.andi g d s imm) :=
  encoding_some (w := 0x41#8 ++ g ++ d ++ s ++ 0#1 ++ (imm.extractLsb' 0 9)) (op := 0x41) rfl
    (by unfold fld; repeat rw [fld_append_hi _ _ (by decide)]
        rfl)
    (by intros; exact Instr.noConfusion) (by decide) (by decide)
theorem Laws.Encoding.ori (g : BitVec 4) (d : BitVec 5) (s : BitVec 5) (imm : BitVec 15) : Laws.Encoding.Statement (.ori g d s imm) :=
  encoding_some (w := 0x42#8 ++ g ++ d ++ s ++ 0#1 ++ (imm.extractLsb' 0 9)) (op := 0x42) rfl
    (by unfold fld; repeat rw [fld_append_hi _ _ (by decide)]
        rfl)
    (by intros; exact Instr.noConfusion) (by decide) (by decide)
theorem Laws.Encoding.xori (g : BitVec 4) (d : BitVec 5) (s : BitVec 5) (imm : BitVec 15) : Laws.Encoding.Statement (.xori g d s imm) :=
  encoding_some (w := 0x43#8 ++ g ++ d ++ s ++ 0#1 ++ (imm.extractLsb' 0 9)) (op := 0x43) rfl
    (by unfold fld; repeat rw [fld_append_hi _ _ (by decide)]
        rfl)
    (by intros; exact Instr.noConfusion) (by decide) (by decide)
theorem Laws.Encoding.shli (g : BitVec 4) (d : BitVec 5) (s : BitVec 5) (imm : BitVec 6) : Laws.Encoding.Statement (.shli g d s imm) :=
  encoding_some (w := 0x44#8 ++ g ++ d ++ s ++ 0#4 ++ imm) (op := 0x44) rfl
    (by unfold fld; repeat rw [fld_append_hi _ _ (by decide)]
        rfl)
    (by intros; exact Instr.noConfusion) (by decide) (by decide)
theorem Laws.Encoding.shliW (g : BitVec 4) (d : BitVec 5) (s : BitVec 5) (imm : BitVec 5) : Laws.Encoding.Statement (.shliW g d s imm) :=
  encoding_some (w := 0x44#8 ++ g ++ d ++ s ++ 16#5 ++ imm) (op := 0x44) rfl
    (by unfold fld; repeat rw [fld_append_hi _ _ (by decide)]
        rfl)
    (by intros; exact Instr.noConfusion) (by decide) (by decide)
theorem Laws.Encoding.shri (g : BitVec 4) (d : BitVec 5) (s : BitVec 5) (imm : BitVec 6) : Laws.Encoding.Statement (.shri g d s imm) :=
  encoding_some (w := 0x45#8 ++ g ++ d ++ s ++ 0#4 ++ imm) (op := 0x45) rfl
    (by unfold fld; repeat rw [fld_append_hi _ _ (by decide)]
        rfl)
    (by intros; exact Instr.noConfusion) (by decide) (by decide)
theorem Laws.Encoding.shriW (g : BitVec 4) (d : BitVec 5) (s : BitVec 5) (imm : BitVec 5) : Laws.Encoding.Statement (.shriW g d s imm) :=
  encoding_some (w := 0x45#8 ++ g ++ d ++ s ++ 16#5 ++ imm) (op := 0x45) rfl
    (by unfold fld; repeat rw [fld_append_hi _ _ (by decide)]
        rfl)
    (by intros; exact Instr.noConfusion) (by decide) (by decide)
theorem Laws.Encoding.srai (g : BitVec 4) (d : BitVec 5) (s : BitVec 5) (imm : BitVec 6) : Laws.Encoding.Statement (.srai g d s imm) :=
  encoding_some (w := 0x46#8 ++ g ++ d ++ s ++ 0#4 ++ imm) (op := 0x46) rfl
    (by unfold fld; repeat rw [fld_append_hi _ _ (by decide)]
        rfl)
    (by intros; exact Instr.noConfusion) (by decide) (by decide)
theorem Laws.Encoding.sraiW (g : BitVec 4) (d : BitVec 5) (s : BitVec 5) (imm : BitVec 5) : Laws.Encoding.Statement (.sraiW g d s imm) :=
  encoding_some (w := 0x46#8 ++ g ++ d ++ s ++ 16#5 ++ imm) (op := 0x46) rfl
    (by unfold fld; repeat rw [fld_append_hi _ _ (by decide)]
        rfl)
    (by intros; exact Instr.noConfusion) (by decide) (by decide)
theorem Laws.Encoding.cmpiEq (g : BitVec 4) (d : BitVec 3) (s : BitVec 5) (imm : BitVec 13) : Laws.Encoding.Statement (.cmpiEq g d s imm) :=
  encoding_some (w := 0x47#8 ++ g ++ 0#1 ++ d ++ 0#4 ++ s ++ (imm.extractLsb' 0 7)) (op := 0x47) rfl
    (by unfold fld; repeat rw [fld_append_hi _ _ (by decide)]
        rfl)
    (by intros; exact Instr.noConfusion) (by decide) (by decide)
theorem Laws.Encoding.cmpiNe (g : BitVec 4) (d : BitVec 3) (s : BitVec 5) (imm : BitVec 13) : Laws.Encoding.Statement (.cmpiNe g d s imm) :=
  encoding_some (w := 0x47#8 ++ g ++ 0#1 ++ d ++ 1#4 ++ s ++ (imm.extractLsb' 0 7)) (op := 0x47) rfl
    (by unfold fld; repeat rw [fld_append_hi _ _ (by decide)]
        rfl)
    (by intros; exact Instr.noConfusion) (by decide) (by decide)
theorem Laws.Encoding.cmpiLt (g : BitVec 4) (d : BitVec 3) (s : BitVec 5) (imm : BitVec 13) : Laws.Encoding.Statement (.cmpiLt g d s imm) :=
  encoding_some (w := 0x47#8 ++ g ++ 0#1 ++ d ++ 2#4 ++ s ++ (imm.extractLsb' 0 7)) (op := 0x47) rfl
    (by unfold fld; repeat rw [fld_append_hi _ _ (by decide)]
        rfl)
    (by intros; exact Instr.noConfusion) (by decide) (by decide)
theorem Laws.Encoding.cmpiLe (g : BitVec 4) (d : BitVec 3) (s : BitVec 5) (imm : BitVec 13) : Laws.Encoding.Statement (.cmpiLe g d s imm) :=
  encoding_some (w := 0x47#8 ++ g ++ 0#1 ++ d ++ 3#4 ++ s ++ (imm.extractLsb' 0 7)) (op := 0x47) rfl
    (by unfold fld; repeat rw [fld_append_hi _ _ (by decide)]
        rfl)
    (by intros; exact Instr.noConfusion) (by decide) (by decide)
theorem Laws.Encoding.cmpiLtu (g : BitVec 4) (d : BitVec 3) (s : BitVec 5) (imm : BitVec 13) : Laws.Encoding.Statement (.cmpiLtu g d s imm) :=
  encoding_some (w := 0x47#8 ++ g ++ 0#1 ++ d ++ 4#4 ++ s ++ (imm.extractLsb' 0 7)) (op := 0x47) rfl
    (by unfold fld; repeat rw [fld_append_hi _ _ (by decide)]
        rfl)
    (by intros; exact Instr.noConfusion) (by decide) (by decide)
theorem Laws.Encoding.cmpiLeu (g : BitVec 4) (d : BitVec 3) (s : BitVec 5) (imm : BitVec 13) : Laws.Encoding.Statement (.cmpiLeu g d s imm) :=
  encoding_some (w := 0x47#8 ++ g ++ 0#1 ++ d ++ 5#4 ++ s ++ (imm.extractLsb' 0 7)) (op := 0x47) rfl
    (by unfold fld; repeat rw [fld_append_hi _ _ (by decide)]
        rfl)
    (by intros; exact Instr.noConfusion) (by decide) (by decide)
theorem Laws.Encoding.cmpiGt (g : BitVec 4) (d : BitVec 3) (s : BitVec 5) (imm : BitVec 13) : Laws.Encoding.Statement (.cmpiGt g d s imm) :=
  encoding_some (w := 0x47#8 ++ g ++ 0#1 ++ d ++ 6#4 ++ s ++ (imm.extractLsb' 0 7)) (op := 0x47) rfl
    (by unfold fld; repeat rw [fld_append_hi _ _ (by decide)]
        rfl)
    (by intros; exact Instr.noConfusion) (by decide) (by decide)
theorem Laws.Encoding.cmpiGe (g : BitVec 4) (d : BitVec 3) (s : BitVec 5) (imm : BitVec 13) : Laws.Encoding.Statement (.cmpiGe g d s imm) :=
  encoding_some (w := 0x47#8 ++ g ++ 0#1 ++ d ++ 7#4 ++ s ++ (imm.extractLsb' 0 7)) (op := 0x47) rfl
    (by unfold fld; repeat rw [fld_append_hi _ _ (by decide)]
        rfl)
    (by intros; exact Instr.noConfusion) (by decide) (by decide)
theorem Laws.Encoding.cmpiGtu (g : BitVec 4) (d : BitVec 3) (s : BitVec 5) (imm : BitVec 13) : Laws.Encoding.Statement (.cmpiGtu g d s imm) :=
  encoding_some (w := 0x47#8 ++ g ++ 0#1 ++ d ++ 8#4 ++ s ++ (imm.extractLsb' 0 7)) (op := 0x47) rfl
    (by unfold fld; repeat rw [fld_append_hi _ _ (by decide)]
        rfl)
    (by intros; exact Instr.noConfusion) (by decide) (by decide)
theorem Laws.Encoding.cmpiGeu (g : BitVec 4) (d : BitVec 3) (s : BitVec 5) (imm : BitVec 13) : Laws.Encoding.Statement (.cmpiGeu g d s imm) :=
  encoding_some (w := 0x47#8 ++ g ++ 0#1 ++ d ++ 9#4 ++ s ++ (imm.extractLsb' 0 7)) (op := 0x47) rfl
    (by unfold fld; repeat rw [fld_append_hi _ _ (by decide)]
        rfl)
    (by intros; exact Instr.noConfusion) (by decide) (by decide)
theorem Laws.Encoding.movi (g : BitVec 4) (d : BitVec 5) (imm : BitVec 21) : Laws.Encoding.Statement (.movi g d imm) :=
  encoding_some (w := 0x48#8 ++ g ++ d ++ (imm.extractLsb' 0 15)) (op := 0x48) rfl
    (by unfold fld; repeat rw [fld_append_hi _ _ (by decide)]
        rfl)
    (by intros; exact Instr.noConfusion) (by decide) (by decide)
theorem Laws.Encoding.movhi (g : BitVec 4) (d : BitVec 5) (imm : BitVec 21) : Laws.Encoding.Statement (.movhi g d imm) :=
  encoding_some (w := 0x49#8 ++ g ++ d ++ (imm.extractLsb' 0 15)) (op := 0x49) rfl
    (by unfold fld; repeat rw [fld_append_hi _ _ (by decide)]
        rfl)
    (by intros; exact Instr.noConfusion) (by decide) (by decide)
theorem Laws.Encoding.pand (g : BitVec 4) (d : BitVec 3) (s : BitVec 4) (t : BitVec 4) : Laws.Encoding.Statement (.pand g d s t) :=
  encoding_some (w := 0x50#8 ++ g ++ 0#2 ++ d ++ 0#1 ++ s ++ 0#1 ++ t ++ 0#5) (op := 0x50) rfl
    (by unfold fld; repeat rw [fld_append_hi _ _ (by decide)]
        rfl)
    (by intros; exact Instr.noConfusion) (by decide) (by decide)
theorem Laws.Encoding.por (g : BitVec 4) (d : BitVec 3) (s : BitVec 4) (t : BitVec 4) : Laws.Encoding.Statement (.por g d s t) :=
  encoding_some (w := 0x51#8 ++ g ++ 0#2 ++ d ++ 0#1 ++ s ++ 0#1 ++ t ++ 0#5) (op := 0x51) rfl
    (by unfold fld; repeat rw [fld_append_hi _ _ (by decide)]
        rfl)
    (by intros; exact Instr.noConfusion) (by decide) (by decide)
theorem Laws.Encoding.pnot (g : BitVec 4) (d : BitVec 3) (s : BitVec 4) : Laws.Encoding.Statement (.pnot g d s) :=
  encoding_some (w := 0x52#8 ++ g ++ 0#2 ++ d ++ 0#1 ++ s ++ 0#10) (op := 0x52) rfl
    (by unfold fld; repeat rw [fld_append_hi _ _ (by decide)]
        rfl)
    (by intros; exact Instr.noConfusion) (by decide) (by decide)
theorem Laws.Encoding.pxor (g : BitVec 4) (d : BitVec 3) (s : BitVec 4) (t : BitVec 4) : Laws.Encoding.Statement (.pxor g d s t) :=
  encoding_some (w := 0x53#8 ++ g ++ 0#2 ++ d ++ 0#1 ++ s ++ 0#1 ++ t ++ 0#5) (op := 0x53) rfl
    (by unfold fld; repeat rw [fld_append_hi _ _ (by decide)]
        rfl)
    (by intros; exact Instr.noConfusion) (by decide) (by decide)
theorem Laws.Encoding.xab (g : BitVec 4) (d : BitVec 5) (s : BitVec 5) : Laws.Encoding.Statement (.xab g d s) :=
  encoding_some (w := 0x54#8 ++ g ++ d ++ s ++ 0#10) (op := 0x54) rfl
    (by unfold fld; repeat rw [fld_append_hi _ _ (by decide)]
        rfl)
    (by intros; exact Instr.noConfusion) (by decide) (by decide)
theorem Laws.Encoding.xba (g : BitVec 4) (d : BitVec 5) (s : BitVec 5) : Laws.Encoding.Statement (.xba g d s) :=
  encoding_some (w := 0x55#8 ++ g ++ d ++ s ++ 0#10) (op := 0x55) rfl
    (by unfold fld; repeat rw [fld_append_hi _ _ (by decide)]
        rfl)
    (by intros; exact Instr.noConfusion) (by decide) (by decide)
theorem Laws.Encoding.xbaH (g : BitVec 4) (d : BitVec 5) (h : BitVec 6) : Laws.Encoding.Statement (.xbaH g d h) :=
  encoding_some (w := 0x55#8 ++ g ++ d ++ (h.extractLsb' 0 5) ++ 0#4 ++ (h.extractLsb' 5 1) ++ 1#5) (op := 0x55) rfl
    (by unfold fld; repeat rw [fld_append_hi _ _ (by decide)]
        rfl)
    (by intros; exact Instr.noConfusion) (by decide) (by decide)
theorem Laws.Encoding.fadd (g : BitVec 4) (d : BitVec 5) (s : BitVec 5) (t : BitVec 5) (rm : BitVec 2) : Laws.Encoding.Statement (.fadd g d s t rm) :=
  encoding_some (w := 0x60#8 ++ g ++ d ++ s ++ t ++ 0#3 ++ rm) (op := 0x60) rfl
    (by unfold fld; repeat rw [fld_append_hi _ _ (by decide)]
        rfl)
    (by intros; exact Instr.noConfusion) (by decide) (by decide)
theorem Laws.Encoding.fsub (g : BitVec 4) (d : BitVec 5) (s : BitVec 5) (t : BitVec 5) (rm : BitVec 2) : Laws.Encoding.Statement (.fsub g d s t rm) :=
  encoding_some (w := 0x61#8 ++ g ++ d ++ s ++ t ++ 0#3 ++ rm) (op := 0x61) rfl
    (by unfold fld; repeat rw [fld_append_hi _ _ (by decide)]
        rfl)
    (by intros; exact Instr.noConfusion) (by decide) (by decide)
theorem Laws.Encoding.fmul (g : BitVec 4) (d : BitVec 5) (s : BitVec 5) (t : BitVec 5) (rm : BitVec 2) : Laws.Encoding.Statement (.fmul g d s t rm) :=
  encoding_some (w := 0x62#8 ++ g ++ d ++ s ++ t ++ 0#3 ++ rm) (op := 0x62) rfl
    (by unfold fld; repeat rw [fld_append_hi _ _ (by decide)]
        rfl)
    (by intros; exact Instr.noConfusion) (by decide) (by decide)
theorem Laws.Encoding.ffma (g : BitVec 4) (d : BitVec 5) (s : BitVec 5) (t : BitVec 5) (rm : BitVec 2) : Laws.Encoding.Statement (.ffma g d s t rm) :=
  encoding_some (w := 0x63#8 ++ g ++ d ++ s ++ t ++ 0#3 ++ rm) (op := 0x63) rfl
    (by unfold fld; repeat rw [fld_append_hi _ _ (by decide)]
        rfl)
    (by intros; exact Instr.noConfusion) (by decide) (by decide)
theorem Laws.Encoding.fdiv (g : BitVec 4) (d : BitVec 5) (s : BitVec 5) (t : BitVec 5) (rm : BitVec 2) : Laws.Encoding.Statement (.fdiv g d s t rm) :=
  encoding_some (w := 0x64#8 ++ g ++ d ++ s ++ t ++ 0#3 ++ rm) (op := 0x64) rfl
    (by unfold fld; repeat rw [fld_append_hi _ _ (by decide)]
        rfl)
    (by intros; exact Instr.noConfusion) (by decide) (by decide)
theorem Laws.Encoding.fsqrt (g : BitVec 4) (d : BitVec 5) (s : BitVec 5) (rm : BitVec 2) : Laws.Encoding.Statement (.fsqrt g d s rm) :=
  encoding_some (w := 0x65#8 ++ g ++ d ++ s ++ 0#8 ++ rm) (op := 0x65) rfl
    (by unfold fld; repeat rw [fld_append_hi _ _ (by decide)]
        rfl)
    (by intros; exact Instr.noConfusion) (by decide) (by decide)
theorem Laws.Encoding.fmin (g : BitVec 4) (d : BitVec 5) (s : BitVec 5) (t : BitVec 5) : Laws.Encoding.Statement (.fmin g d s t) :=
  encoding_some (w := 0x66#8 ++ g ++ d ++ s ++ t ++ 0#5) (op := 0x66) rfl
    (by unfold fld; repeat rw [fld_append_hi _ _ (by decide)]
        rfl)
    (by intros; exact Instr.noConfusion) (by decide) (by decide)
theorem Laws.Encoding.fmax (g : BitVec 4) (d : BitVec 5) (s : BitVec 5) (t : BitVec 5) : Laws.Encoding.Statement (.fmax g d s t) :=
  encoding_some (w := 0x67#8 ++ g ++ d ++ s ++ t ++ 0#5) (op := 0x67) rfl
    (by unfold fld; repeat rw [fld_append_hi _ _ (by decide)]
        rfl)
    (by intros; exact Instr.noConfusion) (by decide) (by decide)
theorem Laws.Encoding.fcmpEq (g : BitVec 4) (d : BitVec 3) (s : BitVec 5) (t : BitVec 5) : Laws.Encoding.Statement (.fcmpEq g d s t) :=
  encoding_some (w := 0x68#8 ++ g ++ 0#2 ++ d ++ s ++ t ++ 0#5) (op := 0x68) rfl
    (by unfold fld; repeat rw [fld_append_hi _ _ (by decide)]
        rfl)
    (by intros; exact Instr.noConfusion) (by decide) (by decide)
theorem Laws.Encoding.fcmpLt (g : BitVec 4) (d : BitVec 3) (s : BitVec 5) (t : BitVec 5) : Laws.Encoding.Statement (.fcmpLt g d s t) :=
  encoding_some (w := 0x68#8 ++ g ++ 0#2 ++ d ++ s ++ t ++ 1#5) (op := 0x68) rfl
    (by unfold fld; repeat rw [fld_append_hi _ _ (by decide)]
        rfl)
    (by intros; exact Instr.noConfusion) (by decide) (by decide)
theorem Laws.Encoding.fcmpLe (g : BitVec 4) (d : BitVec 3) (s : BitVec 5) (t : BitVec 5) : Laws.Encoding.Statement (.fcmpLe g d s t) :=
  encoding_some (w := 0x68#8 ++ g ++ 0#2 ++ d ++ s ++ t ++ 2#5) (op := 0x68) rfl
    (by unfold fld; repeat rw [fld_append_hi _ _ (by decide)]
        rfl)
    (by intros; exact Instr.noConfusion) (by decide) (by decide)
theorem Laws.Encoding.fcmpUn (g : BitVec 4) (d : BitVec 3) (s : BitVec 5) (t : BitVec 5) : Laws.Encoding.Statement (.fcmpUn g d s t) :=
  encoding_some (w := 0x68#8 ++ g ++ 0#2 ++ d ++ s ++ t ++ 3#5) (op := 0x68) rfl
    (by unfold fld; repeat rw [fld_append_hi _ _ (by decide)]
        rfl)
    (by intros; exact Instr.noConfusion) (by decide) (by decide)
theorem Laws.Encoding.fcmpNe (g : BitVec 4) (d : BitVec 3) (s : BitVec 5) (t : BitVec 5) : Laws.Encoding.Statement (.fcmpNe g d s t) :=
  encoding_some (w := 0x68#8 ++ g ++ 0#2 ++ d ++ s ++ t ++ 4#5) (op := 0x68) rfl
    (by unfold fld; repeat rw [fld_append_hi _ _ (by decide)]
        rfl)
    (by intros; exact Instr.noConfusion) (by decide) (by decide)
theorem Laws.Encoding.fcvtF32S64 (g : BitVec 4) (d : BitVec 5) (s : BitVec 5) (rm : BitVec 2) (sat : Bool) : Laws.Encoding.Statement (.fcvtF32S64 g d s rm sat) :=
  encoding_some (w := 0x69#8 ++ g ++ d ++ s ++ 0#8 ++ rm) (op := 0x69) rfl
    (by unfold fld; repeat rw [fld_append_hi _ _ (by decide)]
        rfl)
    (by intros; exact Instr.noConfusion) (by decide) (by decide)
theorem Laws.Encoding.fcvtF32Z64 (g : BitVec 4) (d : BitVec 5) (s : BitVec 5) (rm : BitVec 2) (sat : Bool) : Laws.Encoding.Statement (.fcvtF32Z64 g d s rm sat) :=
  encoding_some (w := 0x69#8 ++ g ++ d ++ s ++ 1#8 ++ rm) (op := 0x69) rfl
    (by unfold fld; repeat rw [fld_append_hi _ _ (by decide)]
        rfl)
    (by intros; exact Instr.noConfusion) (by decide) (by decide)
theorem Laws.Encoding.fcvtS64F32 (g : BitVec 4) (d : BitVec 5) (s : BitVec 5) (rm : BitVec 2) (sat : Bool) : Laws.Encoding.Statement (.fcvtS64F32 g d s rm sat) :=
  encoding_some (w := 0x69#8 ++ g ++ d ++ s ++ 2#8 ++ rm) (op := 0x69) rfl
    (by unfold fld; repeat rw [fld_append_hi _ _ (by decide)]
        rfl)
    (by intros; exact Instr.noConfusion) (by decide) (by decide)
theorem Laws.Encoding.fcvtZ64F32 (g : BitVec 4) (d : BitVec 5) (s : BitVec 5) (rm : BitVec 2) (sat : Bool) : Laws.Encoding.Statement (.fcvtZ64F32 g d s rm sat) :=
  encoding_some (w := 0x69#8 ++ g ++ d ++ s ++ 3#8 ++ rm) (op := 0x69) rfl
    (by unfold fld; repeat rw [fld_append_hi _ _ (by decide)]
        rfl)
    (by intros; exact Instr.noConfusion) (by decide) (by decide)
theorem Laws.Encoding.fcvtF32Bf16 (g : BitVec 4) (d : BitVec 5) (s : BitVec 5) (rm : BitVec 2) (sat : Bool) : Laws.Encoding.Statement (.fcvtF32Bf16 g d s rm sat) :=
  encoding_some (w := 0x69#8 ++ g ++ d ++ s ++ 4#8 ++ rm) (op := 0x69) rfl
    (by unfold fld; repeat rw [fld_append_hi _ _ (by decide)]
        rfl)
    (by intros; exact Instr.noConfusion) (by decide) (by decide)
theorem Laws.Encoding.fcvtBf16F32 (g : BitVec 4) (d : BitVec 5) (s : BitVec 5) (rm : BitVec 2) (sat : Bool) : Laws.Encoding.Statement (.fcvtBf16F32 g d s rm sat) :=
  encoding_some (w := 0x69#8 ++ g ++ d ++ s ++ 5#8 ++ rm) (op := 0x69) rfl
    (by unfold fld; repeat rw [fld_append_hi _ _ (by decide)]
        rfl)
    (by intros; exact Instr.noConfusion) (by decide) (by decide)
theorem Laws.Encoding.fcvtF32F16 (g : BitVec 4) (d : BitVec 5) (s : BitVec 5) (rm : BitVec 2) (sat : Bool) : Laws.Encoding.Statement (.fcvtF32F16 g d s rm sat) :=
  encoding_some (w := 0x69#8 ++ g ++ d ++ s ++ 6#8 ++ rm) (op := 0x69) rfl
    (by unfold fld; repeat rw [fld_append_hi _ _ (by decide)]
        rfl)
    (by intros; exact Instr.noConfusion) (by decide) (by decide)
theorem Laws.Encoding.fcvtF16F32 (g : BitVec 4) (d : BitVec 5) (s : BitVec 5) (rm : BitVec 2) (sat : Bool) : Laws.Encoding.Statement (.fcvtF16F32 g d s rm sat) :=
  encoding_some (w := 0x69#8 ++ g ++ d ++ s ++ 7#8 ++ rm) (op := 0x69) rfl
    (by unfold fld; repeat rw [fld_append_hi _ _ (by decide)]
        rfl)
    (by intros; exact Instr.noConfusion) (by decide) (by decide)
theorem Laws.Encoding.ldsD (g : BitVec 4) (d : BitVec 5) (s : BitVec 5) (off : BitVec 12) : Laws.Encoding.Statement (.ldsD g d s off) :=
  encoding_some (w := 0x70#8 ++ g ++ d ++ s ++ 0#4 ++ (off.extractLsb' 0 6)) (op := 0x70) rfl
    (by unfold fld; repeat rw [fld_append_hi _ _ (by decide)]
        rfl)
    (by intros; exact Instr.noConfusion) (by decide) (by decide)
theorem Laws.Encoding.ldsW (g : BitVec 4) (d : BitVec 5) (s : BitVec 5) (off : BitVec 12) : Laws.Encoding.Statement (.ldsW g d s off) :=
  encoding_some (w := 0x70#8 ++ g ++ d ++ s ++ 1#4 ++ (off.extractLsb' 0 6)) (op := 0x70) rfl
    (by unfold fld; repeat rw [fld_append_hi _ _ (by decide)]
        rfl)
    (by intros; exact Instr.noConfusion) (by decide) (by decide)
theorem Laws.Encoding.ldsWu (g : BitVec 4) (d : BitVec 5) (s : BitVec 5) (off : BitVec 12) : Laws.Encoding.Statement (.ldsWu g d s off) :=
  encoding_some (w := 0x70#8 ++ g ++ d ++ s ++ 2#4 ++ (off.extractLsb' 0 6)) (op := 0x70) rfl
    (by unfold fld; repeat rw [fld_append_hi _ _ (by decide)]
        rfl)
    (by intros; exact Instr.noConfusion) (by decide) (by decide)
theorem Laws.Encoding.ldsH (g : BitVec 4) (d : BitVec 5) (s : BitVec 5) (off : BitVec 12) : Laws.Encoding.Statement (.ldsH g d s off) :=
  encoding_some (w := 0x70#8 ++ g ++ d ++ s ++ 3#4 ++ (off.extractLsb' 0 6)) (op := 0x70) rfl
    (by unfold fld; repeat rw [fld_append_hi _ _ (by decide)]
        rfl)
    (by intros; exact Instr.noConfusion) (by decide) (by decide)
theorem Laws.Encoding.ldsHu (g : BitVec 4) (d : BitVec 5) (s : BitVec 5) (off : BitVec 12) : Laws.Encoding.Statement (.ldsHu g d s off) :=
  encoding_some (w := 0x70#8 ++ g ++ d ++ s ++ 4#4 ++ (off.extractLsb' 0 6)) (op := 0x70) rfl
    (by unfold fld; repeat rw [fld_append_hi _ _ (by decide)]
        rfl)
    (by intros; exact Instr.noConfusion) (by decide) (by decide)
theorem Laws.Encoding.ldsB (g : BitVec 4) (d : BitVec 5) (s : BitVec 5) (off : BitVec 12) : Laws.Encoding.Statement (.ldsB g d s off) :=
  encoding_some (w := 0x70#8 ++ g ++ d ++ s ++ 5#4 ++ (off.extractLsb' 0 6)) (op := 0x70) rfl
    (by unfold fld; repeat rw [fld_append_hi _ _ (by decide)]
        rfl)
    (by intros; exact Instr.noConfusion) (by decide) (by decide)
theorem Laws.Encoding.ldsBu (g : BitVec 4) (d : BitVec 5) (s : BitVec 5) (off : BitVec 12) : Laws.Encoding.Statement (.ldsBu g d s off) :=
  encoding_some (w := 0x70#8 ++ g ++ d ++ s ++ 6#4 ++ (off.extractLsb' 0 6)) (op := 0x70) rfl
    (by unfold fld; repeat rw [fld_append_hi _ _ (by decide)]
        rfl)
    (by intros; exact Instr.noConfusion) (by decide) (by decide)
theorem Laws.Encoding.ldsFw (g : BitVec 4) (d : BitVec 5) (s : BitVec 5) (off : BitVec 12) : Laws.Encoding.Statement (.ldsFw g d s off) :=
  encoding_some (w := 0x70#8 ++ g ++ d ++ s ++ 7#4 ++ (off.extractLsb' 0 6)) (op := 0x70) rfl
    (by unfold fld; repeat rw [fld_append_hi _ _ (by decide)]
        rfl)
    (by intros; exact Instr.noConfusion) (by decide) (by decide)
theorem Laws.Encoding.ldsFc (g : BitVec 4) (d : BitVec 5) (s : BitVec 5) (off : BitVec 12) : Laws.Encoding.Statement (.ldsFc g d s off) :=
  encoding_some (w := 0x70#8 ++ g ++ d ++ s ++ 8#4 ++ (off.extractLsb' 0 6)) (op := 0x70) rfl
    (by unfold fld; repeat rw [fld_append_hi _ _ (by decide)]
        rfl)
    (by intros; exact Instr.noConfusion) (by decide) (by decide)
theorem Laws.Encoding.ldsXD (g : BitVec 4) (d : BitVec 5) (s : BitVec 5) (t : BitVec 5) : Laws.Encoding.Statement (.ldsXD g d s t) :=
  encoding_some (w := 0x71#8 ++ g ++ d ++ s ++ t ++ 0#5) (op := 0x71) rfl
    (by unfold fld; repeat rw [fld_append_hi _ _ (by decide)]
        rfl)
    (by intros; exact Instr.noConfusion) (by decide) (by decide)
theorem Laws.Encoding.ldsXW (g : BitVec 4) (d : BitVec 5) (s : BitVec 5) (t : BitVec 5) : Laws.Encoding.Statement (.ldsXW g d s t) :=
  encoding_some (w := 0x71#8 ++ g ++ d ++ s ++ t ++ 1#5) (op := 0x71) rfl
    (by unfold fld; repeat rw [fld_append_hi _ _ (by decide)]
        rfl)
    (by intros; exact Instr.noConfusion) (by decide) (by decide)
theorem Laws.Encoding.ldsXWu (g : BitVec 4) (d : BitVec 5) (s : BitVec 5) (t : BitVec 5) : Laws.Encoding.Statement (.ldsXWu g d s t) :=
  encoding_some (w := 0x71#8 ++ g ++ d ++ s ++ t ++ 2#5) (op := 0x71) rfl
    (by unfold fld; repeat rw [fld_append_hi _ _ (by decide)]
        rfl)
    (by intros; exact Instr.noConfusion) (by decide) (by decide)
theorem Laws.Encoding.ldsXH (g : BitVec 4) (d : BitVec 5) (s : BitVec 5) (t : BitVec 5) : Laws.Encoding.Statement (.ldsXH g d s t) :=
  encoding_some (w := 0x71#8 ++ g ++ d ++ s ++ t ++ 3#5) (op := 0x71) rfl
    (by unfold fld; repeat rw [fld_append_hi _ _ (by decide)]
        rfl)
    (by intros; exact Instr.noConfusion) (by decide) (by decide)
theorem Laws.Encoding.ldsXHu (g : BitVec 4) (d : BitVec 5) (s : BitVec 5) (t : BitVec 5) : Laws.Encoding.Statement (.ldsXHu g d s t) :=
  encoding_some (w := 0x71#8 ++ g ++ d ++ s ++ t ++ 4#5) (op := 0x71) rfl
    (by unfold fld; repeat rw [fld_append_hi _ _ (by decide)]
        rfl)
    (by intros; exact Instr.noConfusion) (by decide) (by decide)
theorem Laws.Encoding.ldsXB (g : BitVec 4) (d : BitVec 5) (s : BitVec 5) (t : BitVec 5) : Laws.Encoding.Statement (.ldsXB g d s t) :=
  encoding_some (w := 0x71#8 ++ g ++ d ++ s ++ t ++ 5#5) (op := 0x71) rfl
    (by unfold fld; repeat rw [fld_append_hi _ _ (by decide)]
        rfl)
    (by intros; exact Instr.noConfusion) (by decide) (by decide)
theorem Laws.Encoding.ldsXBu (g : BitVec 4) (d : BitVec 5) (s : BitVec 5) (t : BitVec 5) : Laws.Encoding.Statement (.ldsXBu g d s t) :=
  encoding_some (w := 0x71#8 ++ g ++ d ++ s ++ t ++ 6#5) (op := 0x71) rfl
    (by unfold fld; repeat rw [fld_append_hi _ _ (by decide)]
        rfl)
    (by intros; exact Instr.noConfusion) (by decide) (by decide)
theorem Laws.Encoding.stsD (g : BitVec 4) (d : BitVec 5) (s : BitVec 5) (off : BitVec 12) : Laws.Encoding.Statement (.stsD g d s off) :=
  encoding_some (w := 0x72#8 ++ g ++ d ++ s ++ 0#4 ++ (off.extractLsb' 0 6)) (op := 0x72) rfl
    (by unfold fld; repeat rw [fld_append_hi _ _ (by decide)]
        rfl)
    (by intros; exact Instr.noConfusion) (by decide) (by decide)
theorem Laws.Encoding.stsW (g : BitVec 4) (d : BitVec 5) (s : BitVec 5) (off : BitVec 12) : Laws.Encoding.Statement (.stsW g d s off) :=
  encoding_some (w := 0x72#8 ++ g ++ d ++ s ++ 1#4 ++ (off.extractLsb' 0 6)) (op := 0x72) rfl
    (by unfold fld; repeat rw [fld_append_hi _ _ (by decide)]
        rfl)
    (by intros; exact Instr.noConfusion) (by decide) (by decide)
theorem Laws.Encoding.stsH (g : BitVec 4) (d : BitVec 5) (s : BitVec 5) (off : BitVec 12) : Laws.Encoding.Statement (.stsH g d s off) :=
  encoding_some (w := 0x72#8 ++ g ++ d ++ s ++ 2#4 ++ (off.extractLsb' 0 6)) (op := 0x72) rfl
    (by unfold fld; repeat rw [fld_append_hi _ _ (by decide)]
        rfl)
    (by intros; exact Instr.noConfusion) (by decide) (by decide)
theorem Laws.Encoding.stsB (g : BitVec 4) (d : BitVec 5) (s : BitVec 5) (off : BitVec 12) : Laws.Encoding.Statement (.stsB g d s off) :=
  encoding_some (w := 0x72#8 ++ g ++ d ++ s ++ 3#4 ++ (off.extractLsb' 0 6)) (op := 0x72) rfl
    (by unfold fld; repeat rw [fld_append_hi _ _ (by decide)]
        rfl)
    (by intros; exact Instr.noConfusion) (by decide) (by decide)
theorem Laws.Encoding.stsFs (g : BitVec 4) (d : BitVec 5) (s : BitVec 5) (off : BitVec 12) : Laws.Encoding.Statement (.stsFs g d s off) :=
  encoding_some (w := 0x72#8 ++ g ++ d ++ s ++ 4#4 ++ (off.extractLsb' 0 6)) (op := 0x72) rfl
    (by unfold fld; repeat rw [fld_append_hi _ _ (by decide)]
        rfl)
    (by intros; exact Instr.noConfusion) (by decide) (by decide)
theorem Laws.Encoding.stsFe (g : BitVec 4) (d : BitVec 5) (s : BitVec 5) (off : BitVec 12) : Laws.Encoding.Statement (.stsFe g d s off) :=
  encoding_some (w := 0x72#8 ++ g ++ d ++ s ++ 5#4 ++ (off.extractLsb' 0 6)) (op := 0x72) rfl
    (by unfold fld; repeat rw [fld_append_hi _ _ (by decide)]
        rfl)
    (by intros; exact Instr.noConfusion) (by decide) (by decide)
theorem Laws.Encoding.stsXD (g : BitVec 4) (d : BitVec 5) (s : BitVec 5) (t : BitVec 5) : Laws.Encoding.Statement (.stsXD g d s t) :=
  encoding_some (w := 0x73#8 ++ g ++ d ++ s ++ t ++ 0#5) (op := 0x73) rfl
    (by unfold fld; repeat rw [fld_append_hi _ _ (by decide)]
        rfl)
    (by intros; exact Instr.noConfusion) (by decide) (by decide)
theorem Laws.Encoding.stsXW (g : BitVec 4) (d : BitVec 5) (s : BitVec 5) (t : BitVec 5) : Laws.Encoding.Statement (.stsXW g d s t) :=
  encoding_some (w := 0x73#8 ++ g ++ d ++ s ++ t ++ 1#5) (op := 0x73) rfl
    (by unfold fld; repeat rw [fld_append_hi _ _ (by decide)]
        rfl)
    (by intros; exact Instr.noConfusion) (by decide) (by decide)
theorem Laws.Encoding.stsXH (g : BitVec 4) (d : BitVec 5) (s : BitVec 5) (t : BitVec 5) : Laws.Encoding.Statement (.stsXH g d s t) :=
  encoding_some (w := 0x73#8 ++ g ++ d ++ s ++ t ++ 2#5) (op := 0x73) rfl
    (by unfold fld; repeat rw [fld_append_hi _ _ (by decide)]
        rfl)
    (by intros; exact Instr.noConfusion) (by decide) (by decide)
theorem Laws.Encoding.stsXB (g : BitVec 4) (d : BitVec 5) (s : BitVec 5) (t : BitVec 5) : Laws.Encoding.Statement (.stsXB g d s t) :=
  encoding_some (w := 0x73#8 ++ g ++ d ++ s ++ t ++ 3#5) (op := 0x73) rfl
    (by unfold fld; repeat rw [fld_append_hi _ _ (by decide)]
        rfl)
    (by intros; exact Instr.noConfusion) (by decide) (by decide)
theorem Laws.Encoding.ldmD (g : BitVec 4) (d : BitVec 5) (s : BitVec 5) (off : BitVec 12) : Laws.Encoding.Statement (.ldmD g d s off) :=
  encoding_some (w := 0x74#8 ++ g ++ d ++ s ++ 0#4 ++ (off.extractLsb' 0 6)) (op := 0x74) rfl
    (by unfold fld; repeat rw [fld_append_hi _ _ (by decide)]
        rfl)
    (by intros; exact Instr.noConfusion) (by decide) (by decide)
theorem Laws.Encoding.ldmW (g : BitVec 4) (d : BitVec 5) (s : BitVec 5) (off : BitVec 12) : Laws.Encoding.Statement (.ldmW g d s off) :=
  encoding_some (w := 0x74#8 ++ g ++ d ++ s ++ 1#4 ++ (off.extractLsb' 0 6)) (op := 0x74) rfl
    (by unfold fld; repeat rw [fld_append_hi _ _ (by decide)]
        rfl)
    (by intros; exact Instr.noConfusion) (by decide) (by decide)
theorem Laws.Encoding.ldmWu (g : BitVec 4) (d : BitVec 5) (s : BitVec 5) (off : BitVec 12) : Laws.Encoding.Statement (.ldmWu g d s off) :=
  encoding_some (w := 0x74#8 ++ g ++ d ++ s ++ 2#4 ++ (off.extractLsb' 0 6)) (op := 0x74) rfl
    (by unfold fld; repeat rw [fld_append_hi _ _ (by decide)]
        rfl)
    (by intros; exact Instr.noConfusion) (by decide) (by decide)
theorem Laws.Encoding.ldmH (g : BitVec 4) (d : BitVec 5) (s : BitVec 5) (off : BitVec 12) : Laws.Encoding.Statement (.ldmH g d s off) :=
  encoding_some (w := 0x74#8 ++ g ++ d ++ s ++ 3#4 ++ (off.extractLsb' 0 6)) (op := 0x74) rfl
    (by unfold fld; repeat rw [fld_append_hi _ _ (by decide)]
        rfl)
    (by intros; exact Instr.noConfusion) (by decide) (by decide)
theorem Laws.Encoding.ldmHu (g : BitVec 4) (d : BitVec 5) (s : BitVec 5) (off : BitVec 12) : Laws.Encoding.Statement (.ldmHu g d s off) :=
  encoding_some (w := 0x74#8 ++ g ++ d ++ s ++ 4#4 ++ (off.extractLsb' 0 6)) (op := 0x74) rfl
    (by unfold fld; repeat rw [fld_append_hi _ _ (by decide)]
        rfl)
    (by intros; exact Instr.noConfusion) (by decide) (by decide)
theorem Laws.Encoding.ldmB (g : BitVec 4) (d : BitVec 5) (s : BitVec 5) (off : BitVec 12) : Laws.Encoding.Statement (.ldmB g d s off) :=
  encoding_some (w := 0x74#8 ++ g ++ d ++ s ++ 5#4 ++ (off.extractLsb' 0 6)) (op := 0x74) rfl
    (by unfold fld; repeat rw [fld_append_hi _ _ (by decide)]
        rfl)
    (by intros; exact Instr.noConfusion) (by decide) (by decide)
theorem Laws.Encoding.ldmBu (g : BitVec 4) (d : BitVec 5) (s : BitVec 5) (off : BitVec 12) : Laws.Encoding.Statement (.ldmBu g d s off) :=
  encoding_some (w := 0x74#8 ++ g ++ d ++ s ++ 6#4 ++ (off.extractLsb' 0 6)) (op := 0x74) rfl
    (by unfold fld; repeat rw [fld_append_hi _ _ (by decide)]
        rfl)
    (by intros; exact Instr.noConfusion) (by decide) (by decide)
theorem Laws.Encoding.ldmXD (g : BitVec 4) (d : BitVec 5) (s : BitVec 5) (t : BitVec 5) : Laws.Encoding.Statement (.ldmXD g d s t) :=
  encoding_some (w := 0x75#8 ++ g ++ d ++ s ++ t ++ 0#5) (op := 0x75) rfl
    (by unfold fld; repeat rw [fld_append_hi _ _ (by decide)]
        rfl)
    (by intros; exact Instr.noConfusion) (by decide) (by decide)
theorem Laws.Encoding.ldmXW (g : BitVec 4) (d : BitVec 5) (s : BitVec 5) (t : BitVec 5) : Laws.Encoding.Statement (.ldmXW g d s t) :=
  encoding_some (w := 0x75#8 ++ g ++ d ++ s ++ t ++ 1#5) (op := 0x75) rfl
    (by unfold fld; repeat rw [fld_append_hi _ _ (by decide)]
        rfl)
    (by intros; exact Instr.noConfusion) (by decide) (by decide)
theorem Laws.Encoding.ldmXWu (g : BitVec 4) (d : BitVec 5) (s : BitVec 5) (t : BitVec 5) : Laws.Encoding.Statement (.ldmXWu g d s t) :=
  encoding_some (w := 0x75#8 ++ g ++ d ++ s ++ t ++ 2#5) (op := 0x75) rfl
    (by unfold fld; repeat rw [fld_append_hi _ _ (by decide)]
        rfl)
    (by intros; exact Instr.noConfusion) (by decide) (by decide)
theorem Laws.Encoding.ldmXH (g : BitVec 4) (d : BitVec 5) (s : BitVec 5) (t : BitVec 5) : Laws.Encoding.Statement (.ldmXH g d s t) :=
  encoding_some (w := 0x75#8 ++ g ++ d ++ s ++ t ++ 3#5) (op := 0x75) rfl
    (by unfold fld; repeat rw [fld_append_hi _ _ (by decide)]
        rfl)
    (by intros; exact Instr.noConfusion) (by decide) (by decide)
theorem Laws.Encoding.ldmXHu (g : BitVec 4) (d : BitVec 5) (s : BitVec 5) (t : BitVec 5) : Laws.Encoding.Statement (.ldmXHu g d s t) :=
  encoding_some (w := 0x75#8 ++ g ++ d ++ s ++ t ++ 4#5) (op := 0x75) rfl
    (by unfold fld; repeat rw [fld_append_hi _ _ (by decide)]
        rfl)
    (by intros; exact Instr.noConfusion) (by decide) (by decide)
theorem Laws.Encoding.ldmXB (g : BitVec 4) (d : BitVec 5) (s : BitVec 5) (t : BitVec 5) : Laws.Encoding.Statement (.ldmXB g d s t) :=
  encoding_some (w := 0x75#8 ++ g ++ d ++ s ++ t ++ 5#5) (op := 0x75) rfl
    (by unfold fld; repeat rw [fld_append_hi _ _ (by decide)]
        rfl)
    (by intros; exact Instr.noConfusion) (by decide) (by decide)
theorem Laws.Encoding.ldmXBu (g : BitVec 4) (d : BitVec 5) (s : BitVec 5) (t : BitVec 5) : Laws.Encoding.Statement (.ldmXBu g d s t) :=
  encoding_some (w := 0x75#8 ++ g ++ d ++ s ++ t ++ 6#5) (op := 0x75) rfl
    (by unfold fld; repeat rw [fld_append_hi _ _ (by decide)]
        rfl)
    (by intros; exact Instr.noConfusion) (by decide) (by decide)
theorem Laws.Encoding.stmD (g : BitVec 4) (d : BitVec 5) (s : BitVec 5) (off : BitVec 12) : Laws.Encoding.Statement (.stmD g d s off) :=
  encoding_some (w := 0x76#8 ++ g ++ d ++ s ++ 0#4 ++ (off.extractLsb' 0 6)) (op := 0x76) rfl
    (by unfold fld; repeat rw [fld_append_hi _ _ (by decide)]
        rfl)
    (by intros; exact Instr.noConfusion) (by decide) (by decide)
theorem Laws.Encoding.stmW (g : BitVec 4) (d : BitVec 5) (s : BitVec 5) (off : BitVec 12) : Laws.Encoding.Statement (.stmW g d s off) :=
  encoding_some (w := 0x76#8 ++ g ++ d ++ s ++ 1#4 ++ (off.extractLsb' 0 6)) (op := 0x76) rfl
    (by unfold fld; repeat rw [fld_append_hi _ _ (by decide)]
        rfl)
    (by intros; exact Instr.noConfusion) (by decide) (by decide)
theorem Laws.Encoding.stmH (g : BitVec 4) (d : BitVec 5) (s : BitVec 5) (off : BitVec 12) : Laws.Encoding.Statement (.stmH g d s off) :=
  encoding_some (w := 0x76#8 ++ g ++ d ++ s ++ 2#4 ++ (off.extractLsb' 0 6)) (op := 0x76) rfl
    (by unfold fld; repeat rw [fld_append_hi _ _ (by decide)]
        rfl)
    (by intros; exact Instr.noConfusion) (by decide) (by decide)
theorem Laws.Encoding.stmB (g : BitVec 4) (d : BitVec 5) (s : BitVec 5) (off : BitVec 12) : Laws.Encoding.Statement (.stmB g d s off) :=
  encoding_some (w := 0x76#8 ++ g ++ d ++ s ++ 3#4 ++ (off.extractLsb' 0 6)) (op := 0x76) rfl
    (by unfold fld; repeat rw [fld_append_hi _ _ (by decide)]
        rfl)
    (by intros; exact Instr.noConfusion) (by decide) (by decide)
theorem Laws.Encoding.stmXD (g : BitVec 4) (d : BitVec 5) (s : BitVec 5) (t : BitVec 5) : Laws.Encoding.Statement (.stmXD g d s t) :=
  encoding_some (w := 0x77#8 ++ g ++ d ++ s ++ t ++ 0#5) (op := 0x77) rfl
    (by unfold fld; repeat rw [fld_append_hi _ _ (by decide)]
        rfl)
    (by intros; exact Instr.noConfusion) (by decide) (by decide)
theorem Laws.Encoding.stmXW (g : BitVec 4) (d : BitVec 5) (s : BitVec 5) (t : BitVec 5) : Laws.Encoding.Statement (.stmXW g d s t) :=
  encoding_some (w := 0x77#8 ++ g ++ d ++ s ++ t ++ 1#5) (op := 0x77) rfl
    (by unfold fld; repeat rw [fld_append_hi _ _ (by decide)]
        rfl)
    (by intros; exact Instr.noConfusion) (by decide) (by decide)
theorem Laws.Encoding.stmXH (g : BitVec 4) (d : BitVec 5) (s : BitVec 5) (t : BitVec 5) : Laws.Encoding.Statement (.stmXH g d s t) :=
  encoding_some (w := 0x77#8 ++ g ++ d ++ s ++ t ++ 2#5) (op := 0x77) rfl
    (by unfold fld; repeat rw [fld_append_hi _ _ (by decide)]
        rfl)
    (by intros; exact Instr.noConfusion) (by decide) (by decide)
theorem Laws.Encoding.stmXB (g : BitVec 4) (d : BitVec 5) (s : BitVec 5) (t : BitVec 5) : Laws.Encoding.Statement (.stmXB g d s t) :=
  encoding_some (w := 0x77#8 ++ g ++ d ++ s ++ t ++ 3#5) (op := 0x77) rfl
    (by unfold fld; repeat rw [fld_append_hi _ _ (by decide)]
        rfl)
    (by intros; exact Instr.noConfusion) (by decide) (by decide)
theorem Laws.Encoding.atomAdd (g : BitVec 4) (d : BitVec 5) (s : BitVec 5) (t : BitVec 5) : Laws.Encoding.Statement (.atomAdd g d s t) :=
  encoding_some (w := 0x78#8 ++ g ++ d ++ s ++ t ++ 0#5) (op := 0x78) rfl
    (by unfold fld; repeat rw [fld_append_hi _ _ (by decide)]
        rfl)
    (by intros; exact Instr.noConfusion) (by decide) (by decide)
theorem Laws.Encoding.atomAddW (g : BitVec 4) (d : BitVec 5) (s : BitVec 5) (t : BitVec 5) : Laws.Encoding.Statement (.atomAddW g d s t) :=
  encoding_some (w := 0x78#8 ++ g ++ d ++ s ++ t ++ 1#5) (op := 0x78) rfl
    (by unfold fld; repeat rw [fld_append_hi _ _ (by decide)]
        rfl)
    (by intros; exact Instr.noConfusion) (by decide) (by decide)
theorem Laws.Encoding.atomAnd (g : BitVec 4) (d : BitVec 5) (s : BitVec 5) (t : BitVec 5) : Laws.Encoding.Statement (.atomAnd g d s t) :=
  encoding_some (w := 0x78#8 ++ g ++ d ++ s ++ t ++ 2#5) (op := 0x78) rfl
    (by unfold fld; repeat rw [fld_append_hi _ _ (by decide)]
        rfl)
    (by intros; exact Instr.noConfusion) (by decide) (by decide)
theorem Laws.Encoding.atomAndW (g : BitVec 4) (d : BitVec 5) (s : BitVec 5) (t : BitVec 5) : Laws.Encoding.Statement (.atomAndW g d s t) :=
  encoding_some (w := 0x78#8 ++ g ++ d ++ s ++ t ++ 3#5) (op := 0x78) rfl
    (by unfold fld; repeat rw [fld_append_hi _ _ (by decide)]
        rfl)
    (by intros; exact Instr.noConfusion) (by decide) (by decide)
theorem Laws.Encoding.atomOr (g : BitVec 4) (d : BitVec 5) (s : BitVec 5) (t : BitVec 5) : Laws.Encoding.Statement (.atomOr g d s t) :=
  encoding_some (w := 0x78#8 ++ g ++ d ++ s ++ t ++ 4#5) (op := 0x78) rfl
    (by unfold fld; repeat rw [fld_append_hi _ _ (by decide)]
        rfl)
    (by intros; exact Instr.noConfusion) (by decide) (by decide)
theorem Laws.Encoding.atomOrW (g : BitVec 4) (d : BitVec 5) (s : BitVec 5) (t : BitVec 5) : Laws.Encoding.Statement (.atomOrW g d s t) :=
  encoding_some (w := 0x78#8 ++ g ++ d ++ s ++ t ++ 5#5) (op := 0x78) rfl
    (by unfold fld; repeat rw [fld_append_hi _ _ (by decide)]
        rfl)
    (by intros; exact Instr.noConfusion) (by decide) (by decide)
theorem Laws.Encoding.atomXor (g : BitVec 4) (d : BitVec 5) (s : BitVec 5) (t : BitVec 5) : Laws.Encoding.Statement (.atomXor g d s t) :=
  encoding_some (w := 0x78#8 ++ g ++ d ++ s ++ t ++ 6#5) (op := 0x78) rfl
    (by unfold fld; repeat rw [fld_append_hi _ _ (by decide)]
        rfl)
    (by intros; exact Instr.noConfusion) (by decide) (by decide)
theorem Laws.Encoding.atomXorW (g : BitVec 4) (d : BitVec 5) (s : BitVec 5) (t : BitVec 5) : Laws.Encoding.Statement (.atomXorW g d s t) :=
  encoding_some (w := 0x78#8 ++ g ++ d ++ s ++ t ++ 7#5) (op := 0x78) rfl
    (by unfold fld; repeat rw [fld_append_hi _ _ (by decide)]
        rfl)
    (by intros; exact Instr.noConfusion) (by decide) (by decide)
theorem Laws.Encoding.atomMin (g : BitVec 4) (d : BitVec 5) (s : BitVec 5) (t : BitVec 5) : Laws.Encoding.Statement (.atomMin g d s t) :=
  encoding_some (w := 0x78#8 ++ g ++ d ++ s ++ t ++ 8#5) (op := 0x78) rfl
    (by unfold fld; repeat rw [fld_append_hi _ _ (by decide)]
        rfl)
    (by intros; exact Instr.noConfusion) (by decide) (by decide)
theorem Laws.Encoding.atomMinW (g : BitVec 4) (d : BitVec 5) (s : BitVec 5) (t : BitVec 5) : Laws.Encoding.Statement (.atomMinW g d s t) :=
  encoding_some (w := 0x78#8 ++ g ++ d ++ s ++ t ++ 9#5) (op := 0x78) rfl
    (by unfold fld; repeat rw [fld_append_hi _ _ (by decide)]
        rfl)
    (by intros; exact Instr.noConfusion) (by decide) (by decide)
theorem Laws.Encoding.atomMax (g : BitVec 4) (d : BitVec 5) (s : BitVec 5) (t : BitVec 5) : Laws.Encoding.Statement (.atomMax g d s t) :=
  encoding_some (w := 0x78#8 ++ g ++ d ++ s ++ t ++ 10#5) (op := 0x78) rfl
    (by unfold fld; repeat rw [fld_append_hi _ _ (by decide)]
        rfl)
    (by intros; exact Instr.noConfusion) (by decide) (by decide)
theorem Laws.Encoding.atomMaxW (g : BitVec 4) (d : BitVec 5) (s : BitVec 5) (t : BitVec 5) : Laws.Encoding.Statement (.atomMaxW g d s t) :=
  encoding_some (w := 0x78#8 ++ g ++ d ++ s ++ t ++ 11#5) (op := 0x78) rfl
    (by unfold fld; repeat rw [fld_append_hi _ _ (by decide)]
        rfl)
    (by intros; exact Instr.noConfusion) (by decide) (by decide)
theorem Laws.Encoding.atomMinu (g : BitVec 4) (d : BitVec 5) (s : BitVec 5) (t : BitVec 5) : Laws.Encoding.Statement (.atomMinu g d s t) :=
  encoding_some (w := 0x78#8 ++ g ++ d ++ s ++ t ++ 12#5) (op := 0x78) rfl
    (by unfold fld; repeat rw [fld_append_hi _ _ (by decide)]
        rfl)
    (by intros; exact Instr.noConfusion) (by decide) (by decide)
theorem Laws.Encoding.atomMinuW (g : BitVec 4) (d : BitVec 5) (s : BitVec 5) (t : BitVec 5) : Laws.Encoding.Statement (.atomMinuW g d s t) :=
  encoding_some (w := 0x78#8 ++ g ++ d ++ s ++ t ++ 13#5) (op := 0x78) rfl
    (by unfold fld; repeat rw [fld_append_hi _ _ (by decide)]
        rfl)
    (by intros; exact Instr.noConfusion) (by decide) (by decide)
theorem Laws.Encoding.atomMaxu (g : BitVec 4) (d : BitVec 5) (s : BitVec 5) (t : BitVec 5) : Laws.Encoding.Statement (.atomMaxu g d s t) :=
  encoding_some (w := 0x78#8 ++ g ++ d ++ s ++ t ++ 14#5) (op := 0x78) rfl
    (by unfold fld; repeat rw [fld_append_hi _ _ (by decide)]
        rfl)
    (by intros; exact Instr.noConfusion) (by decide) (by decide)
theorem Laws.Encoding.atomMaxuW (g : BitVec 4) (d : BitVec 5) (s : BitVec 5) (t : BitVec 5) : Laws.Encoding.Statement (.atomMaxuW g d s t) :=
  encoding_some (w := 0x78#8 ++ g ++ d ++ s ++ t ++ 15#5) (op := 0x78) rfl
    (by unfold fld; repeat rw [fld_append_hi _ _ (by decide)]
        rfl)
    (by intros; exact Instr.noConfusion) (by decide) (by decide)
theorem Laws.Encoding.atomSwap (g : BitVec 4) (d : BitVec 5) (s : BitVec 5) (t : BitVec 5) : Laws.Encoding.Statement (.atomSwap g d s t) :=
  encoding_some (w := 0x78#8 ++ g ++ d ++ s ++ t ++ 16#5) (op := 0x78) rfl
    (by unfold fld; repeat rw [fld_append_hi _ _ (by decide)]
        rfl)
    (by intros; exact Instr.noConfusion) (by decide) (by decide)
theorem Laws.Encoding.atomSwapW (g : BitVec 4) (d : BitVec 5) (s : BitVec 5) (t : BitVec 5) : Laws.Encoding.Statement (.atomSwapW g d s t) :=
  encoding_some (w := 0x78#8 ++ g ++ d ++ s ++ t ++ 17#5) (op := 0x78) rfl
    (by unfold fld; repeat rw [fld_append_hi _ _ (by decide)]
        rfl)
    (by intros; exact Instr.noConfusion) (by decide) (by decide)
theorem Laws.Encoding.atomCas (g : BitVec 4) (d : BitVec 5) (s : BitVec 5) (t : BitVec 5) : Laws.Encoding.Statement (.atomCas g d s t) :=
  encoding_some (w := 0x78#8 ++ g ++ d ++ s ++ t ++ 18#5) (op := 0x78) rfl
    (by unfold fld; repeat rw [fld_append_hi _ _ (by decide)]
        rfl)
    (by intros; exact Instr.noConfusion) (by decide) (by decide)
theorem Laws.Encoding.atomCasW (g : BitVec 4) (d : BitVec 5) (s : BitVec 5) (t : BitVec 5) : Laws.Encoding.Statement (.atomCasW g d s t) :=
  encoding_some (w := 0x78#8 ++ g ++ d ++ s ++ t ++ 19#5) (op := 0x78) rfl
    (by unfold fld; repeat rw [fld_append_hi _ _ (by decide)]
        rfl)
    (by intros; exact Instr.noConfusion) (by decide) (by decide)
theorem Laws.Encoding.caddD (g : BitVec 4) (s : BitVec 5) (t : BitVec 5) : Laws.Encoding.Statement (.caddD g s t) :=
  encoding_some (w := 0x79#8 ++ g ++ 0#5 ++ s ++ t ++ 0#5) (op := 0x79) rfl
    (by unfold fld; repeat rw [fld_append_hi _ _ (by decide)]
        rfl)
    (by intros; exact Instr.noConfusion) (by decide) (by decide)
theorem Laws.Encoding.caddW (g : BitVec 4) (s : BitVec 5) (t : BitVec 5) : Laws.Encoding.Statement (.caddW g s t) :=
  encoding_some (w := 0x79#8 ++ g ++ 0#5 ++ s ++ t ++ 1#5) (op := 0x79) rfl
    (by unfold fld; repeat rw [fld_append_hi _ _ (by decide)]
        rfl)
    (by intros; exact Instr.noConfusion) (by decide) (by decide)
theorem Laws.Encoding.lease (g : BitVec 4) (s : BitVec 5) (t : BitVec 5) : Laws.Encoding.Statement (.lease g s t) :=
  encoding_some (w := 0x7a#8 ++ g ++ 0#5 ++ s ++ t ++ 0#5) (op := 0x7a) rfl
    (by unfold fld; repeat rw [fld_append_hi _ _ (by decide)]
        rfl)
    (by intros; exact Instr.noConfusion) (by decide) (by decide)
theorem Laws.Encoding.unlease (g : BitVec 4) (d : BitVec 5) (s : BitVec 5) : Laws.Encoding.Statement (.unlease g d s) :=
  encoding_some (w := 0x7b#8 ++ g ++ d ++ s ++ 0#10) (op := 0x7b) rfl
    (by unfold fld; repeat rw [fld_append_hi _ _ (by decide)]
        rfl)
    (by intros; exact Instr.noConfusion) (by decide) (by decide)
theorem Laws.Encoding.snap (g : BitVec 4) (d : BitVec 5) (s : BitVec 5) (t : BitVec 5) : Laws.Encoding.Statement (.snap g d s t) :=
  encoding_some (w := 0x7c#8 ++ g ++ d ++ s ++ t ++ 0#5) (op := 0x7c) rfl
    (by unfold fld; repeat rw [fld_append_hi _ _ (by decide)]
        rfl)
    (by intros; exact Instr.noConfusion) (by decide) (by decide)
theorem Laws.Encoding.accept (g : BitVec 4) (s : BitVec 5) : Laws.Encoding.Statement (.accept g s) :=
  encoding_some (w := 0x7d#8 ++ g ++ 0#5 ++ s ++ 0#10) (op := 0x7d) rfl
    (by unfold fld; repeat rw [fld_append_hi _ _ (by decide)]
        rfl)
    (by intros; exact Instr.noConfusion) (by decide) (by decide)
theorem Laws.Encoding.reject (g : BitVec 4) (s : BitVec 5) : Laws.Encoding.Statement (.reject g s) :=
  encoding_some (w := 0x7e#8 ++ g ++ 0#5 ++ s ++ 0#10) (op := 0x7e) rfl
    (by unfold fld; repeat rw [fld_append_hi _ _ (by decide)]
        rfl)
    (by intros; exact Instr.noConfusion) (by decide) (by decide)
theorem Laws.Encoding.ldh (g : BitVec 4) (h : BitVec 6) (s : BitVec 5) (off : BitVec 6) : Laws.Encoding.Statement (.ldh g h s off) :=
  encoding_some (w := 0x80#8 ++ g ++ h ++ 0#6 ++ s ++ 0#3) (op := 0x80) rfl
    (by unfold fld; repeat rw [fld_append_hi _ _ (by decide)]
        rfl)
    (by intros; exact Instr.noConfusion) (by decide) (by decide)
theorem Laws.Encoding.ldhd (g : BitVec 4) (h : BitVec 6) (s : BitVec 5) (off : BitVec 6) : Laws.Encoding.Statement (.ldhd g h s off) :=
  encoding_some (w := 0x81#8 ++ g ++ h ++ 0#6 ++ s ++ 0#3) (op := 0x81) rfl
    (by unfold fld; repeat rw [fld_append_hi _ _ (by decide)]
        rfl)
    (by intros; exact Instr.noConfusion) (by decide) (by decide)
theorem Laws.Encoding.sth (g : BitVec 4) (h : BitVec 6) (s : BitVec 5) (off : BitVec 6) : Laws.Encoding.Statement (.sth g h s off) :=
  encoding_some (w := 0x82#8 ++ g ++ h ++ 0#6 ++ s ++ 0#3) (op := 0x82) rfl
    (by unfold fld; repeat rw [fld_append_hi _ _ (by decide)]
        rfl)
    (by intros; exact Instr.noConfusion) (by decide) (by decide)
theorem Laws.Encoding.dup (g : BitVec 4) (h : BitVec 6) (j : BitVec 6) : Laws.Encoding.Statement (.dup g h j) :=
  encoding_some (w := 0x90#8 ++ g ++ h ++ j ++ 0#8) (op := 0x90) rfl
    (by unfold fld; repeat rw [fld_append_hi _ _ (by decide)]
        rfl)
    (by intros; exact Instr.noConfusion) (by decide) (by decide)
theorem Laws.Encoding.drop (g : BitVec 4) (h : BitVec 6) : Laws.Encoding.Statement (.drop g h) :=
  encoding_some (w := 0x91#8 ++ g ++ h ++ 0#14) (op := 0x91) rfl
    (by unfold fld; repeat rw [fld_append_hi _ _ (by decide)]
        rfl)
    (by intros; exact Instr.noConfusion) (by decide) (by decide)
theorem Laws.Encoding.tnew (g : BitVec 4) (h : BitVec 6) (j : BitVec 6) (s : BitVec 5) : Laws.Encoding.Statement (.tnew g h j s) :=
  encoding_some (w := 0x92#8 ++ g ++ h ++ j ++ s ++ 0#3) (op := 0x92) rfl
    (by unfold fld; repeat rw [fld_append_hi _ _ (by decide)]
        rfl)
    (by intros; exact Instr.noConfusion) (by decide) (by decide)
theorem Laws.Encoding.tdesc (g : BitVec 4) (h : BitVec 6) (s : BitVec 5) (t : BitVec 5) : Laws.Encoding.Statement (.tdesc g h s t) :=
  encoding_some (w := 0x93#8 ++ g ++ h ++ s ++ t ++ 0#4) (op := 0x93) rfl
    (by unfold fld; repeat rw [fld_append_hi _ _ (by decide)]
        rfl)
    (by intros; exact Instr.noConfusion) (by decide) (by decide)
theorem Laws.Encoding.tget (g : BitVec 4) (h : BitVec 6) (s : BitVec 5) (t : BitVec 5) : Laws.Encoding.Statement (.tget g h s t) :=
  encoding_some (w := 0x94#8 ++ g ++ h ++ s ++ t ++ 0#4) (op := 0x94) rfl
    (by unfold fld; repeat rw [fld_append_hi _ _ (by decide)]
        rfl)
    (by intros; exact Instr.noConfusion) (by decide) (by decide)
theorem Laws.Encoding.tset (g : BitVec 4) (h : BitVec 6) (s : BitVec 5) (t : BitVec 5) : Laws.Encoding.Statement (.tset g h s t) :=
  encoding_some (w := 0x95#8 ++ g ++ h ++ s ++ t ++ 0#4) (op := 0x95) rfl
    (by unfold fld; repeat rw [fld_append_hi _ _ (by decide)]
        rfl)
    (by intros; exact Instr.noConfusion) (by decide) (by decide)
theorem Laws.Encoding.tsetv (g : BitVec 4) (h : BitVec 6) (s : BitVec 5) (t : BitVec 5) : Laws.Encoding.Statement (.tsetv g h s t) :=
  encoding_some (w := 0x96#8 ++ g ++ h ++ s ++ t ++ 0#4) (op := 0x96) rfl
    (by unfold fld; repeat rw [fld_append_hi _ _ (by decide)]
        rfl)
    (by intros; exact Instr.noConfusion) (by decide) (by decide)
theorem Laws.Encoding.tseal (g : BitVec 4) (h : BitVec 6) (s : BitVec 5) : Laws.Encoding.Statement (.tseal g h s) :=
  encoding_some (w := 0x97#8 ++ g ++ h ++ 0#6 ++ s ++ 0#3) (op := 0x97) rfl
    (by unfold fld; repeat rw [fld_append_hi _ _ (by decide)]
        rfl)
    (by intros; exact Instr.noConfusion) (by decide) (by decide)
theorem Laws.Encoding.topen (g : BitVec 4) (h : BitVec 6) : Laws.Encoding.Statement (.topen g h) :=
  encoding_some (w := 0x98#8 ++ g ++ h ++ 0#14) (op := 0x98) rfl
    (by unfold fld; repeat rw [fld_append_hi _ _ (by decide)]
        rfl)
    (by intros; exact Instr.noConfusion) (by decide) (by decide)
theorem Laws.Encoding.tmove (g : BitVec 4) (h : BitVec 6) (s : BitVec 5) : Laws.Encoding.Statement (.tmove g h s) :=
  encoding_some (w := 0x99#8 ++ g ++ h ++ s ++ 0#9) (op := 0x99) rfl
    (by unfold fld; repeat rw [fld_append_hi _ _ (by decide)]
        rfl)
    (by intros; exact Instr.noConfusion) (by decide) (by decide)
theorem Laws.Encoding.tuniq (g : BitVec 4) (h : BitVec 6) (s : BitVec 5) : Laws.Encoding.Statement (.tuniq g h s) :=
  encoding_some (w := 0x9a#8 ++ g ++ h ++ s ++ 0#9) (op := 0x9a) rfl
    (by unfold fld; repeat rw [fld_append_hi _ _ (by decide)]
        rfl)
    (by intros; exact Instr.noConfusion) (by decide) (by decide)
theorem Laws.Encoding.kvfind (g : BitVec 4) (h : BitVec 6) (s : BitVec 5) (t : BitVec 5) : Laws.Encoding.Statement (.kvfind g h s t) :=
  encoding_some (w := 0x9b#8 ++ g ++ h ++ s ++ t ++ 0#4) (op := 0x9b) rfl
    (by unfold fld; repeat rw [fld_append_hi _ _ (by decide)]
        rfl)
    (by intros; exact Instr.noConfusion) (by decide) (by decide)
theorem Laws.Encoding.spload (g : BitVec 4) (s : BitVec 5) (t : BitVec 5) : Laws.Encoding.Statement (.spload g s t) :=
  encoding_some (w := 0xa0#8 ++ g ++ 0#5 ++ s ++ t ++ 0#5) (op := 0xa0) rfl
    (by unfold fld; repeat rw [fld_append_hi _ _ (by decide)]
        rfl)
    (by intros; exact Instr.noConfusion) (by decide) (by decide)
theorem Laws.Encoding.spinv (g : BitVec 4) (d : BitVec 5) (s : BitVec 5) (t : BitVec 5) : Laws.Encoding.Statement (.spinv g d s t) :=
  encoding_some (w := 0xa1#8 ++ g ++ d ++ s ++ t ++ 0#5) (op := 0xa1) rfl
    (by unfold fld; repeat rw [fld_append_hi _ _ (by decide)]
        rfl)
    (by intros; exact Instr.noConfusion) (by decide) (by decide)
theorem Laws.Encoding.quiesce (g : BitVec 4) (d : BitVec 5) (s : BitVec 5) : Laws.Encoding.Statement (.quiesce g d s) :=
  encoding_some (w := 0xa2#8 ++ g ++ d ++ s ++ 0#10) (op := 0xa2) rfl
    (by unfold fld; repeat rw [fld_append_hi _ _ (by decide)]
        rfl)
    (by intros; exact Instr.noConfusion) (by decide) (by decide)
theorem Laws.Encoding.ctxsave (g : BitVec 4) (s : BitVec 5) (t : BitVec 5) : Laws.Encoding.Statement (.ctxsave g s t) :=
  encoding_some (w := 0xa3#8 ++ g ++ 0#5 ++ s ++ t ++ 0#5) (op := 0xa3) rfl
    (by unfold fld; repeat rw [fld_append_hi _ _ (by decide)]
        rfl)
    (by intros; exact Instr.noConfusion) (by decide) (by decide)
theorem Laws.Encoding.ctxload (g : BitVec 4) (s : BitVec 5) (t : BitVec 5) : Laws.Encoding.Statement (.ctxload g s t) :=
  encoding_some (w := 0xa4#8 ++ g ++ 0#5 ++ s ++ t ++ 0#5) (op := 0xa4) rfl
    (by unfold fld; repeat rw [fld_append_hi _ _ (by decide)]
        rfl)
    (by intros; exact Instr.noConfusion) (by decide) (by decide)
theorem Laws.Encoding.rejoin (g : BitVec 4) : Laws.Encoding.Statement (.rejoin g) :=
  encoding_some (w := 0xa5#8 ++ g ++ 0#20) (op := 0xa5) rfl
    (by unfold fld; repeat rw [fld_append_hi _ _ (by decide)]
        rfl)
    (by intros; exact Instr.noConfusion) (by decide) (by decide)
theorem Laws.Encoding.mfmt (g : BitVec 4) (s : BitVec 5) : Laws.Encoding.Statement (.mfmt g s) :=
  encoding_some (w := 0xb0#8 ++ g ++ 0#12 ++ s ++ 0#3) (op := 0xb0) rfl
    (by unfold fld; repeat rw [fld_append_hi _ _ (by decide)]
        rfl)
    (by intros; exact Instr.noConfusion) (by decide) (by decide)
theorem Laws.Encoding.mma (g : BitVec 4) (ha : BitVec 6) (hb : BitVec 6) (s : BitVec 5) : Laws.Encoding.Statement (.mma g ha hb s) :=
  encoding_some (w := 0xb1#8 ++ g ++ ha ++ hb ++ s ++ 0#3) (op := 0xb1) rfl
    (by unfold fld; repeat rw [fld_append_hi _ _ (by decide)]
        rfl)
    (by intros; exact Instr.noConfusion) (by decide) (by decide)
theorem Laws.Encoding.mmac (g : BitVec 4) (ha : BitVec 6) (hb : BitVec 6) (s : BitVec 5) : Laws.Encoding.Statement (.mmac g ha hb s) :=
  encoding_some (w := 0xb2#8 ++ g ++ ha ++ hb ++ s ++ 0#3) (op := 0xb2) rfl
    (by unfold fld; repeat rw [fld_append_hi _ _ (by decide)]
        rfl)
    (by intros; exact Instr.noConfusion) (by decide) (by decide)
theorem Laws.Encoding.gmma (g : BitVec 4) (ha : BitVec 6) (hb : BitVec 6) (s : BitVec 5) (hx : BitVec 6) : Laws.Encoding.Statement (.gmma g ha hb s hx) :=
  encoding_some (w := 0xb3#8 ++ g ++ ha ++ hb ++ s ++ 0#3) (op := 0xb3) rfl
    (by unfold fld; repeat rw [fld_append_hi _ _ (by decide)]
        rfl)
    (by intros; exact Instr.noConfusion) (by decide) (by decide)
theorem Laws.Encoding.gmmaMc (g : BitVec 4) (ha : BitVec 6) (hb : BitVec 6) (s : BitVec 5) (hx : BitVec 6) : Laws.Encoding.Statement (.gmmaMc g ha hb s hx) :=
  encoding_some (w := 0xb3#8 ++ g ++ ha ++ hb ++ s ++ 1#3) (op := 0xb3) rfl
    (by unfold fld; repeat rw [fld_append_hi _ _ (by decide)]
        rfl)
    (by intros; exact Instr.noConfusion) (by decide) (by decide)
theorem Laws.Encoding.vaddVv (g : BitVec 4) (d : BitVec 5) (s : BitVec 5) (t : BitVec 5) (rm : BitVec 2) (quiet : Bool) : Laws.Encoding.Statement (.vaddVv g d s t rm quiet) :=
  encoding_some (w := 0xc0#8 ++ g ++ d ++ s ++ t ++ 0#3 ++ rm) (op := 0xc0) rfl
    (by unfold fld; repeat rw [fld_append_hi _ _ (by decide)]
        rfl)
    (by intros; exact Instr.noConfusion) (by decide) (by decide)
theorem Laws.Encoding.vaddVs (g : BitVec 4) (d : BitVec 5) (s : BitVec 5) (t : BitVec 5) (rm : BitVec 2) (quiet : Bool) : Laws.Encoding.Statement (.vaddVs g d s t rm quiet) :=
  encoding_some (w := 0xc0#8 ++ g ++ d ++ s ++ t ++ 1#3 ++ rm) (op := 0xc0) rfl
    (by unfold fld; repeat rw [fld_append_hi _ _ (by decide)]
        rfl)
    (by intros; exact Instr.noConfusion) (by decide) (by decide)
theorem Laws.Encoding.vsubVv (g : BitVec 4) (d : BitVec 5) (s : BitVec 5) (t : BitVec 5) (rm : BitVec 2) (quiet : Bool) : Laws.Encoding.Statement (.vsubVv g d s t rm quiet) :=
  encoding_some (w := 0xc1#8 ++ g ++ d ++ s ++ t ++ 0#3 ++ rm) (op := 0xc1) rfl
    (by unfold fld; repeat rw [fld_append_hi _ _ (by decide)]
        rfl)
    (by intros; exact Instr.noConfusion) (by decide) (by decide)
theorem Laws.Encoding.vsubVs (g : BitVec 4) (d : BitVec 5) (s : BitVec 5) (t : BitVec 5) (rm : BitVec 2) (quiet : Bool) : Laws.Encoding.Statement (.vsubVs g d s t rm quiet) :=
  encoding_some (w := 0xc1#8 ++ g ++ d ++ s ++ t ++ 1#3 ++ rm) (op := 0xc1) rfl
    (by unfold fld; repeat rw [fld_append_hi _ _ (by decide)]
        rfl)
    (by intros; exact Instr.noConfusion) (by decide) (by decide)
theorem Laws.Encoding.vmulVv (g : BitVec 4) (d : BitVec 5) (s : BitVec 5) (t : BitVec 5) (rm : BitVec 2) (quiet : Bool) : Laws.Encoding.Statement (.vmulVv g d s t rm quiet) :=
  encoding_some (w := 0xc2#8 ++ g ++ d ++ s ++ t ++ 0#3 ++ rm) (op := 0xc2) rfl
    (by unfold fld; repeat rw [fld_append_hi _ _ (by decide)]
        rfl)
    (by intros; exact Instr.noConfusion) (by decide) (by decide)
theorem Laws.Encoding.vmulVs (g : BitVec 4) (d : BitVec 5) (s : BitVec 5) (t : BitVec 5) (rm : BitVec 2) (quiet : Bool) : Laws.Encoding.Statement (.vmulVs g d s t rm quiet) :=
  encoding_some (w := 0xc2#8 ++ g ++ d ++ s ++ t ++ 1#3 ++ rm) (op := 0xc2) rfl
    (by unfold fld; repeat rw [fld_append_hi _ _ (by decide)]
        rfl)
    (by intros; exact Instr.noConfusion) (by decide) (by decide)
theorem Laws.Encoding.vfmaVv (g : BitVec 4) (d : BitVec 5) (s : BitVec 5) (t : BitVec 5) (rm : BitVec 2) (quiet : Bool) : Laws.Encoding.Statement (.vfmaVv g d s t rm quiet) :=
  encoding_some (w := 0xc3#8 ++ g ++ d ++ s ++ t ++ 0#3 ++ rm) (op := 0xc3) rfl
    (by unfold fld; repeat rw [fld_append_hi _ _ (by decide)]
        rfl)
    (by intros; exact Instr.noConfusion) (by decide) (by decide)
theorem Laws.Encoding.vfmaVs (g : BitVec 4) (d : BitVec 5) (s : BitVec 5) (t : BitVec 5) (rm : BitVec 2) (quiet : Bool) : Laws.Encoding.Statement (.vfmaVs g d s t rm quiet) :=
  encoding_some (w := 0xc3#8 ++ g ++ d ++ s ++ t ++ 1#3 ++ rm) (op := 0xc3) rfl
    (by unfold fld; repeat rw [fld_append_hi _ _ (by decide)]
        rfl)
    (by intros; exact Instr.noConfusion) (by decide) (by decide)
theorem Laws.Encoding.vfmaVn (g : BitVec 4) (d : BitVec 5) (s : BitVec 5) (t : BitVec 5) (rm : BitVec 2) (quiet : Bool) : Laws.Encoding.Statement (.vfmaVn g d s t rm quiet) :=
  encoding_some (w := 0xc3#8 ++ g ++ d ++ s ++ t ++ 2#3 ++ rm) (op := 0xc3) rfl
    (by unfold fld; repeat rw [fld_append_hi _ _ (by decide)]
        rfl)
    (by intros; exact Instr.noConfusion) (by decide) (by decide)
theorem Laws.Encoding.vmaxVv (g : BitVec 4) (d : BitVec 5) (s : BitVec 5) (t : BitVec 5) (quiet : Bool) : Laws.Encoding.Statement (.vmaxVv g d s t quiet) :=
  encoding_some (w := 0xc4#8 ++ g ++ d ++ s ++ t ++ 0#5) (op := 0xc4) rfl
    (by unfold fld; repeat rw [fld_append_hi _ _ (by decide)]
        rfl)
    (by intros; exact Instr.noConfusion) (by decide) (by decide)
theorem Laws.Encoding.vmaxVs (g : BitVec 4) (d : BitVec 5) (s : BitVec 5) (t : BitVec 5) (quiet : Bool) : Laws.Encoding.Statement (.vmaxVs g d s t quiet) :=
  encoding_some (w := 0xc4#8 ++ g ++ d ++ s ++ t ++ 1#5) (op := 0xc4) rfl
    (by unfold fld; repeat rw [fld_append_hi _ _ (by decide)]
        rfl)
    (by intros; exact Instr.noConfusion) (by decide) (by decide)
theorem Laws.Encoding.vminVv (g : BitVec 4) (d : BitVec 5) (s : BitVec 5) (t : BitVec 5) (quiet : Bool) : Laws.Encoding.Statement (.vminVv g d s t quiet) :=
  encoding_some (w := 0xc5#8 ++ g ++ d ++ s ++ t ++ 0#5) (op := 0xc5) rfl
    (by unfold fld; repeat rw [fld_append_hi _ _ (by decide)]
        rfl)
    (by intros; exact Instr.noConfusion) (by decide) (by decide)
theorem Laws.Encoding.vminVs (g : BitVec 4) (d : BitVec 5) (s : BitVec 5) (t : BitVec 5) (quiet : Bool) : Laws.Encoding.Statement (.vminVs g d s t quiet) :=
  encoding_some (w := 0xc5#8 ++ g ++ d ++ s ++ t ++ 1#5) (op := 0xc5) rfl
    (by unfold fld; repeat rw [fld_append_hi _ _ (by decide)]
        rfl)
    (by intros; exact Instr.noConfusion) (by decide) (by decide)
theorem Laws.Encoding.vabs (g : BitVec 4) (d : BitVec 5) (s : BitVec 5) (quiet : Bool) : Laws.Encoding.Statement (.vabs g d s quiet) :=
  encoding_some (w := 0xc6#8 ++ g ++ d ++ s ++ 0#10) (op := 0xc6) rfl
    (by unfold fld; repeat rw [fld_append_hi _ _ (by decide)]
        rfl)
    (by intros; exact Instr.noConfusion) (by decide) (by decide)
theorem Laws.Encoding.vneg (g : BitVec 4) (d : BitVec 5) (s : BitVec 5) (quiet : Bool) : Laws.Encoding.Statement (.vneg g d s quiet) :=
  encoding_some (w := 0xc7#8 ++ g ++ d ++ s ++ 0#10) (op := 0xc7) rfl
    (by unfold fld; repeat rw [fld_append_hi _ _ (by decide)]
        rfl)
    (by intros; exact Instr.noConfusion) (by decide) (by decide)
theorem Laws.Encoding.vclmpVs (g : BitVec 4) (d : BitVec 5) (s : BitVec 5) (t : BitVec 5) (quiet : Bool) : Laws.Encoding.Statement (.vclmpVs g d s t quiet) :=
  encoding_some (w := 0xc8#8 ++ g ++ d ++ s ++ t ++ 0#5) (op := 0xc8) rfl
    (by unfold fld; repeat rw [fld_append_hi _ _ (by decide)]
        rfl)
    (by intros; exact Instr.noConfusion) (by decide) (by decide)
theorem Laws.Encoding.vclmpVv (g : BitVec 4) (d : BitVec 5) (s : BitVec 5) (t : BitVec 5) (quiet : Bool) : Laws.Encoding.Statement (.vclmpVv g d s t quiet) :=
  encoding_some (w := 0xc8#8 ++ g ++ d ++ s ++ t ++ 1#5) (op := 0xc8) rfl
    (by unfold fld; repeat rw [fld_append_hi _ _ (by decide)]
        rfl)
    (by intros; exact Instr.noConfusion) (by decide) (by decide)
theorem Laws.Encoding.vcvt (g : BitVec 4) (d : BitVec 5) (s : BitVec 5) (rm : BitVec 2) (sat : Bool) (quiet : Bool) : Laws.Encoding.Statement (.vcvt g d s rm sat quiet) :=
  encoding_some (w := 0xc9#8 ++ g ++ d ++ s ++ 0#8 ++ rm) (op := 0xc9) rfl
    (by unfold fld; repeat rw [fld_append_hi _ _ (by decide)]
        rfl)
    (by intros; exact Instr.noConfusion) (by decide) (by decide)
theorem Laws.Encoding.vcvtS (g : BitVec 4) (d : BitVec 5) (s : BitVec 5) (t : BitVec 5) (rm : BitVec 2) (sat : Bool) (quiet : Bool) : Laws.Encoding.Statement (.vcvtS g d s t rm sat quiet) :=
  encoding_some (w := 0xca#8 ++ g ++ d ++ s ++ t ++ 0#3 ++ rm) (op := 0xca) rfl
    (by unfold fld; repeat rw [fld_append_hi _ _ (by decide)]
        rfl)
    (by intros; exact Instr.noConfusion) (by decide) (by decide)
theorem Laws.Encoding.vexp (g : BitVec 4) (d : BitVec 5) (s : BitVec 5) (quiet : Bool) : Laws.Encoding.Statement (.vexp g d s quiet) :=
  encoding_some (w := 0xcb#8 ++ g ++ d ++ s ++ 0#10) (op := 0xcb) rfl
    (by unfold fld; repeat rw [fld_append_hi _ _ (by decide)]
        rfl)
    (by intros; exact Instr.noConfusion) (by decide) (by decide)
theorem Laws.Encoding.vexpB2 (g : BitVec 4) (d : BitVec 5) (s : BitVec 5) (quiet : Bool) : Laws.Encoding.Statement (.vexpB2 g d s quiet) :=
  encoding_some (w := 0xcb#8 ++ g ++ d ++ s ++ 1#10) (op := 0xcb) rfl
    (by unfold fld; repeat rw [fld_append_hi _ _ (by decide)]
        rfl)
    (by intros; exact Instr.noConfusion) (by decide) (by decide)
theorem Laws.Encoding.vrcp (g : BitVec 4) (d : BitVec 5) (s : BitVec 5) (quiet : Bool) : Laws.Encoding.Statement (.vrcp g d s quiet) :=
  encoding_some (w := 0xcc#8 ++ g ++ d ++ s ++ 0#10) (op := 0xcc) rfl
    (by unfold fld; repeat rw [fld_append_hi _ _ (by decide)]
        rfl)
    (by intros; exact Instr.noConfusion) (by decide) (by decide)
theorem Laws.Encoding.vrsq (g : BitVec 4) (d : BitVec 5) (s : BitVec 5) (quiet : Bool) : Laws.Encoding.Statement (.vrsq g d s quiet) :=
  encoding_some (w := 0xcd#8 ++ g ++ d ++ s ++ 0#10) (op := 0xcd) rfl
    (by unfold fld; repeat rw [fld_append_hi _ _ (by decide)]
        rfl)
    (by intros; exact Instr.noConfusion) (by decide) (by decide)
theorem Laws.Encoding.vsumF (g : BitVec 4) (d : BitVec 5) (s : BitVec 5) (quiet : Bool) : Laws.Encoding.Statement (.vsumF g d s quiet) :=
  encoding_some (w := 0xce#8 ++ g ++ d ++ s ++ 0#10) (op := 0xce) rfl
    (by unfold fld; repeat rw [fld_append_hi _ _ (by decide)]
        rfl)
    (by intros; exact Instr.noConfusion) (by decide) (by decide)
theorem Laws.Encoding.vsumI (g : BitVec 4) (d : BitVec 5) (s : BitVec 5) (quiet : Bool) : Laws.Encoding.Statement (.vsumI g d s quiet) :=
  encoding_some (w := 0xce#8 ++ g ++ d ++ s ++ 1#10) (op := 0xce) rfl
    (by unfold fld; repeat rw [fld_append_hi _ _ (by decide)]
        rfl)
    (by intros; exact Instr.noConfusion) (by decide) (by decide)
theorem Laws.Encoding.vrmax (g : BitVec 4) (d : BitVec 5) (s : BitVec 5) (quiet : Bool) : Laws.Encoding.Statement (.vrmax g d s quiet) :=
  encoding_some (w := 0xcf#8 ++ g ++ d ++ s ++ 0#10) (op := 0xcf) rfl
    (by unfold fld; repeat rw [fld_append_hi _ _ (by decide)]
        rfl)
    (by intros; exact Instr.noConfusion) (by decide) (by decide)
theorem Laws.Encoding.vsel (g : BitVec 4) (d : BitVec 5) (s : BitVec 5) (t : BitVec 5) (quiet : Bool) : Laws.Encoding.Statement (.vsel g d s t quiet) :=
  encoding_some (w := 0xd0#8 ++ g ++ d ++ s ++ t ++ 0#5) (op := 0xd0) rfl
    (by unfold fld; repeat rw [fld_append_hi _ _ (by decide)]
        rfl)
    (by intros; exact Instr.noConfusion) (by decide) (by decide)
theorem Laws.Encoding.vcmpEqVv (g : BitVec 4) (d : BitVec 5) (s : BitVec 5) (t : BitVec 5) (quiet : Bool) : Laws.Encoding.Statement (.vcmpEqVv g d s t quiet) :=
  encoding_some (w := 0xd1#8 ++ g ++ d ++ s ++ t ++ 0#5) (op := 0xd1) rfl
    (by unfold fld; repeat rw [fld_append_hi _ _ (by decide)]
        rfl)
    (by intros; exact Instr.noConfusion) (by decide) (by decide)
theorem Laws.Encoding.vcmpEqVs (g : BitVec 4) (d : BitVec 5) (s : BitVec 5) (t : BitVec 5) (quiet : Bool) : Laws.Encoding.Statement (.vcmpEqVs g d s t quiet) :=
  encoding_some (w := 0xd1#8 ++ g ++ d ++ s ++ t ++ 1#5) (op := 0xd1) rfl
    (by unfold fld; repeat rw [fld_append_hi _ _ (by decide)]
        rfl)
    (by intros; exact Instr.noConfusion) (by decide) (by decide)
theorem Laws.Encoding.vcmpNeVv (g : BitVec 4) (d : BitVec 5) (s : BitVec 5) (t : BitVec 5) (quiet : Bool) : Laws.Encoding.Statement (.vcmpNeVv g d s t quiet) :=
  encoding_some (w := 0xd1#8 ++ g ++ d ++ s ++ t ++ 2#5) (op := 0xd1) rfl
    (by unfold fld; repeat rw [fld_append_hi _ _ (by decide)]
        rfl)
    (by intros; exact Instr.noConfusion) (by decide) (by decide)
theorem Laws.Encoding.vcmpNeVs (g : BitVec 4) (d : BitVec 5) (s : BitVec 5) (t : BitVec 5) (quiet : Bool) : Laws.Encoding.Statement (.vcmpNeVs g d s t quiet) :=
  encoding_some (w := 0xd1#8 ++ g ++ d ++ s ++ t ++ 3#5) (op := 0xd1) rfl
    (by unfold fld; repeat rw [fld_append_hi _ _ (by decide)]
        rfl)
    (by intros; exact Instr.noConfusion) (by decide) (by decide)
theorem Laws.Encoding.vcmpLtVv (g : BitVec 4) (d : BitVec 5) (s : BitVec 5) (t : BitVec 5) (quiet : Bool) : Laws.Encoding.Statement (.vcmpLtVv g d s t quiet) :=
  encoding_some (w := 0xd1#8 ++ g ++ d ++ s ++ t ++ 4#5) (op := 0xd1) rfl
    (by unfold fld; repeat rw [fld_append_hi _ _ (by decide)]
        rfl)
    (by intros; exact Instr.noConfusion) (by decide) (by decide)
theorem Laws.Encoding.vcmpLtVs (g : BitVec 4) (d : BitVec 5) (s : BitVec 5) (t : BitVec 5) (quiet : Bool) : Laws.Encoding.Statement (.vcmpLtVs g d s t quiet) :=
  encoding_some (w := 0xd1#8 ++ g ++ d ++ s ++ t ++ 5#5) (op := 0xd1) rfl
    (by unfold fld; repeat rw [fld_append_hi _ _ (by decide)]
        rfl)
    (by intros; exact Instr.noConfusion) (by decide) (by decide)
theorem Laws.Encoding.vcmpLeVv (g : BitVec 4) (d : BitVec 5) (s : BitVec 5) (t : BitVec 5) (quiet : Bool) : Laws.Encoding.Statement (.vcmpLeVv g d s t quiet) :=
  encoding_some (w := 0xd1#8 ++ g ++ d ++ s ++ t ++ 6#5) (op := 0xd1) rfl
    (by unfold fld; repeat rw [fld_append_hi _ _ (by decide)]
        rfl)
    (by intros; exact Instr.noConfusion) (by decide) (by decide)
theorem Laws.Encoding.vcmpLeVs (g : BitVec 4) (d : BitVec 5) (s : BitVec 5) (t : BitVec 5) (quiet : Bool) : Laws.Encoding.Statement (.vcmpLeVs g d s t quiet) :=
  encoding_some (w := 0xd1#8 ++ g ++ d ++ s ++ t ++ 7#5) (op := 0xd1) rfl
    (by unfold fld; repeat rw [fld_append_hi _ _ (by decide)]
        rfl)
    (by intros; exact Instr.noConfusion) (by decide) (by decide)
theorem Laws.Encoding.vcmpGtVv (g : BitVec 4) (d : BitVec 5) (s : BitVec 5) (t : BitVec 5) (quiet : Bool) : Laws.Encoding.Statement (.vcmpGtVv g d s t quiet) :=
  encoding_some (w := 0xd1#8 ++ g ++ d ++ s ++ t ++ 8#5) (op := 0xd1) rfl
    (by unfold fld; repeat rw [fld_append_hi _ _ (by decide)]
        rfl)
    (by intros; exact Instr.noConfusion) (by decide) (by decide)
theorem Laws.Encoding.vcmpGtVs (g : BitVec 4) (d : BitVec 5) (s : BitVec 5) (t : BitVec 5) (quiet : Bool) : Laws.Encoding.Statement (.vcmpGtVs g d s t quiet) :=
  encoding_some (w := 0xd1#8 ++ g ++ d ++ s ++ t ++ 9#5) (op := 0xd1) rfl
    (by unfold fld; repeat rw [fld_append_hi _ _ (by decide)]
        rfl)
    (by intros; exact Instr.noConfusion) (by decide) (by decide)
theorem Laws.Encoding.vcmpGeVv (g : BitVec 4) (d : BitVec 5) (s : BitVec 5) (t : BitVec 5) (quiet : Bool) : Laws.Encoding.Statement (.vcmpGeVv g d s t quiet) :=
  encoding_some (w := 0xd1#8 ++ g ++ d ++ s ++ t ++ 10#5) (op := 0xd1) rfl
    (by unfold fld; repeat rw [fld_append_hi _ _ (by decide)]
        rfl)
    (by intros; exact Instr.noConfusion) (by decide) (by decide)
theorem Laws.Encoding.vcmpGeVs (g : BitVec 4) (d : BitVec 5) (s : BitVec 5) (t : BitVec 5) (quiet : Bool) : Laws.Encoding.Statement (.vcmpGeVs g d s t quiet) :=
  encoding_some (w := 0xd1#8 ++ g ++ d ++ s ++ t ++ 11#5) (op := 0xd1) rfl
    (by unfold fld; repeat rw [fld_append_hi _ _ (by decide)]
        rfl)
    (by intros; exact Instr.noConfusion) (by decide) (by decide)
theorem Laws.Encoding.vtopkMax (g : BitVec 4) (d : BitVec 5) (s : BitVec 5) (t : BitVec 5) (quiet : Bool) : Laws.Encoding.Statement (.vtopkMax g d s t quiet) :=
  encoding_some (w := 0xd2#8 ++ g ++ d ++ s ++ t ++ 0#5) (op := 0xd2) rfl
    (by unfold fld; repeat rw [fld_append_hi _ _ (by decide)]
        rfl)
    (by intros; exact Instr.noConfusion) (by decide) (by decide)
theorem Laws.Encoding.vtopkMin (g : BitVec 4) (d : BitVec 5) (s : BitVec 5) (t : BitVec 5) (quiet : Bool) : Laws.Encoding.Statement (.vtopkMin g d s t quiet) :=
  encoding_some (w := 0xd2#8 ++ g ++ d ++ s ++ t ++ 1#5) (op := 0xd2) rfl
    (by unfold fld; repeat rw [fld_append_hi _ _ (by decide)]
        rfl)
    (by intros; exact Instr.noConfusion) (by decide) (by decide)
theorem Laws.Encoding.vgath (g : BitVec 4) (d : BitVec 5) (s : BitVec 5) (t : BitVec 5) (quiet : Bool) : Laws.Encoding.Statement (.vgath g d s t quiet) :=
  encoding_some (w := 0xd3#8 ++ g ++ d ++ s ++ t ++ 0#5) (op := 0xd3) rfl
    (by unfold fld; repeat rw [fld_append_hi _ _ (by decide)]
        rfl)
    (by intros; exact Instr.noConfusion) (by decide) (by decide)
theorem Laws.Encoding.vscat (g : BitVec 4) (d : BitVec 5) (s : BitVec 5) (t : BitVec 5) (quiet : Bool) : Laws.Encoding.Statement (.vscat g d s t quiet) :=
  encoding_some (w := 0xd4#8 ++ g ++ d ++ s ++ t ++ 0#5) (op := 0xd4) rfl
    (by unfold fld; repeat rw [fld_append_hi _ _ (by decide)]
        rfl)
    (by intros; exact Instr.noConfusion) (by decide) (by decide)
theorem Laws.Encoding.viota (g : BitVec 4) (d : BitVec 5) (s : BitVec 5) (t : BitVec 5) (quiet : Bool) : Laws.Encoding.Statement (.viota g d s t quiet) :=
  encoding_some (w := 0xd5#8 ++ g ++ d ++ s ++ t ++ 0#5) (op := 0xd5) rfl
    (by unfold fld; repeat rw [fld_append_hi _ _ (by decide)]
        rfl)
    (by intros; exact Instr.noConfusion) (by decide) (by decide)
theorem Laws.Encoding.vfill (g : BitVec 4) (d : BitVec 5) (s : BitVec 5) (quiet : Bool) : Laws.Encoding.Statement (.vfill g d s quiet) :=
  encoding_some (w := 0xd6#8 ++ g ++ d ++ s ++ 0#10) (op := 0xd6) rfl
    (by unfold fld; repeat rw [fld_append_hi _ _ (by decide)]
        rfl)
    (by intros; exact Instr.noConfusion) (by decide) (by decide)
theorem Laws.Encoding.vbfly (g : BitVec 4) (d : BitVec 5) (s : BitVec 5) (t : BitVec 5) (quiet : Bool) : Laws.Encoding.Statement (.vbfly g d s t quiet) :=
  encoding_some (w := 0xd7#8 ++ g ++ d ++ s ++ t ++ 0#5) (op := 0xd7) rfl
    (by unfold fld; repeat rw [fld_append_hi _ _ (by decide)]
        rfl)
    (by intros; exact Instr.noConfusion) (by decide) (by decide)
theorem Laws.Encoding.vbflyCj (g : BitVec 4) (d : BitVec 5) (s : BitVec 5) (t : BitVec 5) (quiet : Bool) : Laws.Encoding.Statement (.vbflyCj g d s t quiet) :=
  encoding_some (w := 0xd7#8 ++ g ++ d ++ s ++ t ++ 1#5) (op := 0xd7) rfl
    (by unfold fld; repeat rw [fld_append_hi _ _ (by decide)]
        rfl)
    (by intros; exact Instr.noConfusion) (by decide) (by decide)
theorem Laws.Encoding.vtwid (g : BitVec 4) (d : BitVec 5) (s : BitVec 5) (t : BitVec 5) (quiet : Bool) : Laws.Encoding.Statement (.vtwid g d s t quiet) :=
  encoding_some (w := 0xd8#8 ++ g ++ d ++ s ++ t ++ 0#5) (op := 0xd8) rfl
    (by unfold fld; repeat rw [fld_append_hi _ _ (by decide)]
        rfl)
    (by intros; exact Instr.noConfusion) (by decide) (by decide)
theorem Laws.Encoding.vcmul (g : BitVec 4) (d : BitVec 5) (s : BitVec 5) (t : BitVec 5) (rm : BitVec 2) (quiet : Bool) : Laws.Encoding.Statement (.vcmul g d s t rm quiet) :=
  encoding_some (w := 0xd9#8 ++ g ++ d ++ s ++ t ++ 0#3 ++ rm) (op := 0xd9) rfl
    (by unfold fld; repeat rw [fld_append_hi _ _ (by decide)]
        rfl)
    (by intros; exact Instr.noConfusion) (by decide) (by decide)
theorem Laws.Encoding.vcmulCj (g : BitVec 4) (d : BitVec 5) (s : BitVec 5) (t : BitVec 5) (rm : BitVec 2) (quiet : Bool) : Laws.Encoding.Statement (.vcmulCj g d s t rm quiet) :=
  encoding_some (w := 0xd9#8 ++ g ++ d ++ s ++ t ++ 1#3 ++ rm) (op := 0xd9) rfl
    (by unfold fld; repeat rw [fld_append_hi _ _ (by decide)]
        rfl)
    (by intros; exact Instr.noConfusion) (by decide) (by decide)
theorem Laws.Encoding.viaddVv (g : BitVec 4) (d : BitVec 5) (s : BitVec 5) (t : BitVec 5) (quiet : Bool) : Laws.Encoding.Statement (.viaddVv g d s t quiet) :=
  encoding_some (w := 0xda#8 ++ g ++ d ++ s ++ t ++ 0#5) (op := 0xda) rfl
    (by unfold fld; repeat rw [fld_append_hi _ _ (by decide)]
        rfl)
    (by intros; exact Instr.noConfusion) (by decide) (by decide)
theorem Laws.Encoding.viaddVs (g : BitVec 4) (d : BitVec 5) (s : BitVec 5) (t : BitVec 5) (quiet : Bool) : Laws.Encoding.Statement (.viaddVs g d s t quiet) :=
  encoding_some (w := 0xda#8 ++ g ++ d ++ s ++ t ++ 1#5) (op := 0xda) rfl
    (by unfold fld; repeat rw [fld_append_hi _ _ (by decide)]
        rfl)
    (by intros; exact Instr.noConfusion) (by decide) (by decide)
theorem Laws.Encoding.viaddVvSat (g : BitVec 4) (d : BitVec 5) (s : BitVec 5) (t : BitVec 5) (quiet : Bool) : Laws.Encoding.Statement (.viaddVvSat g d s t quiet) :=
  encoding_some (w := 0xda#8 ++ g ++ d ++ s ++ t ++ 2#5) (op := 0xda) rfl
    (by unfold fld; repeat rw [fld_append_hi _ _ (by decide)]
        rfl)
    (by intros; exact Instr.noConfusion) (by decide) (by decide)
theorem Laws.Encoding.viaddVsSat (g : BitVec 4) (d : BitVec 5) (s : BitVec 5) (t : BitVec 5) (quiet : Bool) : Laws.Encoding.Statement (.viaddVsSat g d s t quiet) :=
  encoding_some (w := 0xda#8 ++ g ++ d ++ s ++ t ++ 3#5) (op := 0xda) rfl
    (by unfold fld; repeat rw [fld_append_hi _ _ (by decide)]
        rfl)
    (by intros; exact Instr.noConfusion) (by decide) (by decide)
theorem Laws.Encoding.vimulVv (g : BitVec 4) (d : BitVec 5) (s : BitVec 5) (t : BitVec 5) (quiet : Bool) : Laws.Encoding.Statement (.vimulVv g d s t quiet) :=
  encoding_some (w := 0xdb#8 ++ g ++ d ++ s ++ t ++ 0#5) (op := 0xdb) rfl
    (by unfold fld; repeat rw [fld_append_hi _ _ (by decide)]
        rfl)
    (by intros; exact Instr.noConfusion) (by decide) (by decide)
theorem Laws.Encoding.vimulVs (g : BitVec 4) (d : BitVec 5) (s : BitVec 5) (t : BitVec 5) (quiet : Bool) : Laws.Encoding.Statement (.vimulVs g d s t quiet) :=
  encoding_some (w := 0xdb#8 ++ g ++ d ++ s ++ t ++ 1#5) (op := 0xdb) rfl
    (by unfold fld; repeat rw [fld_append_hi _ _ (by decide)]
        rfl)
    (by intros; exact Instr.noConfusion) (by decide) (by decide)
theorem Laws.Encoding.vandVv (g : BitVec 4) (d : BitVec 5) (s : BitVec 5) (t : BitVec 5) (quiet : Bool) : Laws.Encoding.Statement (.vandVv g d s t quiet) :=
  encoding_some (w := 0xdc#8 ++ g ++ d ++ s ++ t ++ 0#5) (op := 0xdc) rfl
    (by unfold fld; repeat rw [fld_append_hi _ _ (by decide)]
        rfl)
    (by intros; exact Instr.noConfusion) (by decide) (by decide)
theorem Laws.Encoding.vandVs (g : BitVec 4) (d : BitVec 5) (s : BitVec 5) (t : BitVec 5) (quiet : Bool) : Laws.Encoding.Statement (.vandVs g d s t quiet) :=
  encoding_some (w := 0xdc#8 ++ g ++ d ++ s ++ t ++ 1#5) (op := 0xdc) rfl
    (by unfold fld; repeat rw [fld_append_hi _ _ (by decide)]
        rfl)
    (by intros; exact Instr.noConfusion) (by decide) (by decide)
theorem Laws.Encoding.vorVv (g : BitVec 4) (d : BitVec 5) (s : BitVec 5) (t : BitVec 5) (quiet : Bool) : Laws.Encoding.Statement (.vorVv g d s t quiet) :=
  encoding_some (w := 0xdd#8 ++ g ++ d ++ s ++ t ++ 0#5) (op := 0xdd) rfl
    (by unfold fld; repeat rw [fld_append_hi _ _ (by decide)]
        rfl)
    (by intros; exact Instr.noConfusion) (by decide) (by decide)
theorem Laws.Encoding.vorVs (g : BitVec 4) (d : BitVec 5) (s : BitVec 5) (t : BitVec 5) (quiet : Bool) : Laws.Encoding.Statement (.vorVs g d s t quiet) :=
  encoding_some (w := 0xdd#8 ++ g ++ d ++ s ++ t ++ 1#5) (op := 0xdd) rfl
    (by unfold fld; repeat rw [fld_append_hi _ _ (by decide)]
        rfl)
    (by intros; exact Instr.noConfusion) (by decide) (by decide)
theorem Laws.Encoding.vxorVv (g : BitVec 4) (d : BitVec 5) (s : BitVec 5) (t : BitVec 5) (quiet : Bool) : Laws.Encoding.Statement (.vxorVv g d s t quiet) :=
  encoding_some (w := 0xde#8 ++ g ++ d ++ s ++ t ++ 0#5) (op := 0xde) rfl
    (by unfold fld; repeat rw [fld_append_hi _ _ (by decide)]
        rfl)
    (by intros; exact Instr.noConfusion) (by decide) (by decide)
theorem Laws.Encoding.vxorVs (g : BitVec 4) (d : BitVec 5) (s : BitVec 5) (t : BitVec 5) (quiet : Bool) : Laws.Encoding.Statement (.vxorVs g d s t quiet) :=
  encoding_some (w := 0xde#8 ++ g ++ d ++ s ++ t ++ 1#5) (op := 0xde) rfl
    (by unfold fld; repeat rw [fld_append_hi _ _ (by decide)]
        rfl)
    (by intros; exact Instr.noConfusion) (by decide) (by decide)
theorem Laws.Encoding.vshlVv (g : BitVec 4) (d : BitVec 5) (s : BitVec 5) (t : BitVec 5) (quiet : Bool) : Laws.Encoding.Statement (.vshlVv g d s t quiet) :=
  encoding_some (w := 0xdf#8 ++ g ++ d ++ s ++ t ++ 0#5) (op := 0xdf) rfl
    (by unfold fld; repeat rw [fld_append_hi _ _ (by decide)]
        rfl)
    (by intros; exact Instr.noConfusion) (by decide) (by decide)
theorem Laws.Encoding.vshlVs (g : BitVec 4) (d : BitVec 5) (s : BitVec 5) (t : BitVec 5) (quiet : Bool) : Laws.Encoding.Statement (.vshlVs g d s t quiet) :=
  encoding_some (w := 0xdf#8 ++ g ++ d ++ s ++ t ++ 1#5) (op := 0xdf) rfl
    (by unfold fld; repeat rw [fld_append_hi _ _ (by decide)]
        rfl)
    (by intros; exact Instr.noConfusion) (by decide) (by decide)
theorem Laws.Encoding.vshrVv (g : BitVec 4) (d : BitVec 5) (s : BitVec 5) (t : BitVec 5) (quiet : Bool) : Laws.Encoding.Statement (.vshrVv g d s t quiet) :=
  encoding_some (w := 0xe0#8 ++ g ++ d ++ s ++ t ++ 0#5) (op := 0xe0) rfl
    (by unfold fld; repeat rw [fld_append_hi _ _ (by decide)]
        rfl)
    (by intros; exact Instr.noConfusion) (by decide) (by decide)
theorem Laws.Encoding.vshrVs (g : BitVec 4) (d : BitVec 5) (s : BitVec 5) (t : BitVec 5) (quiet : Bool) : Laws.Encoding.Statement (.vshrVs g d s t quiet) :=
  encoding_some (w := 0xe0#8 ++ g ++ d ++ s ++ t ++ 1#5) (op := 0xe0) rfl
    (by unfold fld; repeat rw [fld_append_hi _ _ (by decide)]
        rfl)
    (by intros; exact Instr.noConfusion) (by decide) (by decide)
theorem Laws.Encoding.vshrArVv (g : BitVec 4) (d : BitVec 5) (s : BitVec 5) (t : BitVec 5) (quiet : Bool) : Laws.Encoding.Statement (.vshrArVv g d s t quiet) :=
  encoding_some (w := 0xe0#8 ++ g ++ d ++ s ++ t ++ 2#5) (op := 0xe0) rfl
    (by unfold fld; repeat rw [fld_append_hi _ _ (by decide)]
        rfl)
    (by intros; exact Instr.noConfusion) (by decide) (by decide)
theorem Laws.Encoding.vshrArVs (g : BitVec 4) (d : BitVec 5) (s : BitVec 5) (t : BitVec 5) (quiet : Bool) : Laws.Encoding.Statement (.vshrArVs g d s t quiet) :=
  encoding_some (w := 0xe0#8 ++ g ++ d ++ s ++ t ++ 3#5) (op := 0xe0) rfl
    (by unfold fld; repeat rw [fld_append_hi _ _ (by decide)]
        rfl)
    (by intros; exact Instr.noConfusion) (by decide) (by decide)
theorem Laws.Encoding.vflg (g : BitVec 4) (d : BitVec 5) (quiet : Bool) : Laws.Encoding.Statement (.vflg g d quiet) :=
  encoding_some (w := 0xe1#8 ++ g ++ d ++ 0#15) (op := 0xe1) rfl
    (by unfold fld; repeat rw [fld_append_hi _ _ (by decide)]
        rfl)
    (by intros; exact Instr.noConfusion) (by decide) (by decide)
theorem Laws.Encoding.vflgClr (g : BitVec 4) (d : BitVec 5) (quiet : Bool) : Laws.Encoding.Statement (.vflgClr g d quiet) :=
  encoding_some (w := 0xe1#8 ++ g ++ d ++ 1#15) (op := 0xe1) rfl
    (by unfold fld; repeat rw [fld_append_hi _ _ (by decide)]
        rfl)
    (by intros; exact Instr.noConfusion) (by decide) (by decide)
theorem Laws.Encoding.vmaskw (g : BitVec 4) (d : BitVec 5) (s : BitVec 5) (t : BitVec 5) (quiet : Bool) : Laws.Encoding.Statement (.vmaskw g d s t quiet) :=
  encoding_some (w := 0xe2#8 ++ g ++ d ++ s ++ t ++ 0#5) (op := 0xe2) rfl
    (by unfold fld; repeat rw [fld_append_hi _ _ (by decide)]
        rfl)
    (by intros; exact Instr.noConfusion) (by decide) (by decide)
theorem Laws.Encoding.cpyLl (g : BitVec 4) (d : BitVec 5) (s : BitVec 5) (t : BitVec 5) : Laws.Encoding.Statement (.cpyLl g d s t) :=
  encoding_some (w := 0xe8#8 ++ g ++ d ++ s ++ t ++ 0#5) (op := 0xe8) rfl
    (by unfold fld; repeat rw [fld_append_hi _ _ (by decide)]
        rfl)
    (by intros; exact Instr.noConfusion) (by decide) (by decide)
theorem Laws.Encoding.cpyLv (g : BitVec 4) (d : BitVec 5) (s : BitVec 5) (t : BitVec 5) : Laws.Encoding.Statement (.cpyLv g d s t) :=
  encoding_some (w := 0xe8#8 ++ g ++ d ++ s ++ t ++ 1#5) (op := 0xe8) rfl
    (by unfold fld; repeat rw [fld_append_hi _ _ (by decide)]
        rfl)
    (by intros; exact Instr.noConfusion) (by decide) (by decide)
theorem Laws.Encoding.cpyLn (g : BitVec 4) (d : BitVec 5) (s : BitVec 5) (t : BitVec 5) (hx : BitVec 6) : Laws.Encoding.Statement (.cpyLn g d s t hx) :=
  encoding_some (w := 0xe8#8 ++ g ++ d ++ s ++ t ++ 2#5) (op := 0xe8) rfl
    (by unfold fld; repeat rw [fld_append_hi _ _ (by decide)]
        rfl)
    (by intros; exact Instr.noConfusion) (by decide) (by decide)
theorem Laws.Encoding.cpyVl (g : BitVec 4) (d : BitVec 5) (s : BitVec 5) (t : BitVec 5) : Laws.Encoding.Statement (.cpyVl g d s t) :=
  encoding_some (w := 0xe8#8 ++ g ++ d ++ s ++ t ++ 3#5) (op := 0xe8) rfl
    (by unfold fld; repeat rw [fld_append_hi _ _ (by decide)]
        rfl)
    (by intros; exact Instr.noConfusion) (by decide) (by decide)
theorem Laws.Encoding.cpyVv (g : BitVec 4) (d : BitVec 5) (s : BitVec 5) (t : BitVec 5) : Laws.Encoding.Statement (.cpyVv g d s t) :=
  encoding_some (w := 0xe8#8 ++ g ++ d ++ s ++ t ++ 4#5) (op := 0xe8) rfl
    (by unfold fld; repeat rw [fld_append_hi _ _ (by decide)]
        rfl)
    (by intros; exact Instr.noConfusion) (by decide) (by decide)
theorem Laws.Encoding.cpyVn (g : BitVec 4) (d : BitVec 5) (s : BitVec 5) (t : BitVec 5) (hx : BitVec 6) : Laws.Encoding.Statement (.cpyVn g d s t hx) :=
  encoding_some (w := 0xe8#8 ++ g ++ d ++ s ++ t ++ 5#5) (op := 0xe8) rfl
    (by unfold fld; repeat rw [fld_append_hi _ _ (by decide)]
        rfl)
    (by intros; exact Instr.noConfusion) (by decide) (by decide)
theorem Laws.Encoding.cpyHl (g : BitVec 4) (d : BitVec 5) (s : BitVec 5) (t : BitVec 5) (hx : BitVec 6) : Laws.Encoding.Statement (.cpyHl g d s t hx) :=
  encoding_some (w := 0xe8#8 ++ g ++ d ++ s ++ t ++ 6#5) (op := 0xe8) rfl
    (by unfold fld; repeat rw [fld_append_hi _ _ (by decide)]
        rfl)
    (by intros; exact Instr.noConfusion) (by decide) (by decide)
theorem Laws.Encoding.cpyHv (g : BitVec 4) (d : BitVec 5) (s : BitVec 5) (t : BitVec 5) (hx : BitVec 6) : Laws.Encoding.Statement (.cpyHv g d s t hx) :=
  encoding_some (w := 0xe8#8 ++ g ++ d ++ s ++ t ++ 7#5) (op := 0xe8) rfl
    (by unfold fld; repeat rw [fld_append_hi _ _ (by decide)]
        rfl)
    (by intros; exact Instr.noConfusion) (by decide) (by decide)
theorem Laws.Encoding.cpyHn (g : BitVec 4) (d : BitVec 5) (s : BitVec 5) (t : BitVec 5) (hx : BitVec 6) : Laws.Encoding.Statement (.cpyHn g d s t hx) :=
  encoding_some (w := 0xe8#8 ++ g ++ d ++ s ++ t ++ 8#5) (op := 0xe8) rfl
    (by unfold fld; repeat rw [fld_append_hi _ _ (by decide)]
        rfl)
    (by intros; exact Instr.noConfusion) (by decide) (by decide)
theorem Laws.Encoding.cpyrL (g : BitVec 4) (d : BitVec 5) (s : BitVec 5) (t : BitVec 5) : Laws.Encoding.Statement (.cpyrL g d s t) :=
  encoding_some (w := 0xe9#8 ++ g ++ d ++ s ++ t ++ 0#5) (op := 0xe9) rfl
    (by unfold fld; repeat rw [fld_append_hi _ _ (by decide)]
        rfl)
    (by intros; exact Instr.noConfusion) (by decide) (by decide)
theorem Laws.Encoding.cpyrV (g : BitVec 4) (d : BitVec 5) (s : BitVec 5) (t : BitVec 5) : Laws.Encoding.Statement (.cpyrV g d s t) :=
  encoding_some (w := 0xe9#8 ++ g ++ d ++ s ++ t ++ 1#5) (op := 0xe9) rfl
    (by unfold fld; repeat rw [fld_append_hi _ _ (by decide)]
        rfl)
    (by intros; exact Instr.noConfusion) (by decide) (by decide)
theorem Laws.Encoding.cpyrH (g : BitVec 4) (d : BitVec 5) (s : BitVec 5) (t : BitVec 5) (hx : BitVec 6) : Laws.Encoding.Statement (.cpyrH g d s t hx) :=
  encoding_some (w := 0xe9#8 ++ g ++ d ++ s ++ t ++ 2#5) (op := 0xe9) rfl
    (by unfold fld; repeat rw [fld_append_hi _ _ (by decide)]
        rfl)
    (by intros; exact Instr.noConfusion) (by decide) (by decide)
theorem Laws.Encoding.migr (g : BitVec 4) (s : BitVec 5) (t : BitVec 5) (hx : BitVec 6) : Laws.Encoding.Statement (.migr g s t hx) :=
  encoding_some (w := 0xea#8 ++ g ++ 0#5 ++ s ++ t ++ 0#5) (op := 0xea) rfl
    (by unfold fld; repeat rw [fld_append_hi _ _ (by decide)]
        rfl)
    (by intros; exact Instr.noConfusion) (by decide) (by decide)
theorem Laws.Encoding.stallCountElapse (core : Nat) (ctx : Nat) : Laws.Encoding.Statement (.stallCountElapse core ctx) := encoding_none rfl
theorem Laws.Encoding.variableResultArrival (core : Nat) (ctx : Nat) (isH : Bool) (n : Nat) (v : Word) : Laws.Encoding.Statement (.variableResultArrival core ctx isH n v) := encoding_none rfl
theorem Laws.Encoding.trapTake (core : Nat) (ctx : Nat) : Laws.Encoding.Statement (.trapTake core ctx) := encoding_none rfl
theorem Laws.Encoding.taskEnd (core : Nat) (ctx : Nat) : Laws.Encoding.Statement (.taskEnd core ctx) := encoding_none rfl
theorem Laws.Encoding.preemptRequest (core : Nat) (ctx : Nat) : Laws.Encoding.Statement (.preemptRequest core ctx) := encoding_none rfl
theorem Laws.Encoding.quiesceMarkerReturn (core : Nat) (ctx : Nat) (eng : Nat) : Laws.Encoding.Statement (.quiesceMarkerReturn core ctx eng) := encoding_none rfl
theorem Laws.Encoding.matrixCommandTake (core : Nat) : Laws.Encoding.Statement (.matrixCommandTake core) := encoding_none rfl
theorem Laws.Encoding.matrixBlockComplete (core : Nat) : Laws.Encoding.Statement (.matrixBlockComplete core) := encoding_none rfl
theorem Laws.Encoding.tileFetchBlockArrival (core : Nat) : Laws.Encoding.Statement (.tileFetchBlockArrival core) := encoding_none rfl
theorem Laws.Encoding.freezeTimeout (core : Nat) : Laws.Encoding.Statement (.freezeTimeout core) := encoding_none rfl
theorem Laws.Encoding.feTimeoutEngine (core : Nat) (serial : Nat) : Laws.Encoding.Statement (.feTimeoutEngine core serial) := encoding_none rfl
theorem Laws.Encoding.feTimeoutScalar (core : Nat) (ctx : Nat) : Laws.Encoding.Statement (.feTimeoutScalar core ctx) := encoding_none rfl
theorem Laws.Encoding.vectorCommandStart (core : Nat) : Laws.Encoding.Statement (.vectorCommandStart core) := encoding_none rfl
theorem Laws.Encoding.vectorCommandComplete (core : Nat) : Laws.Encoding.Statement (.vectorCommandComplete core) := encoding_none rfl
theorem Laws.Encoding.sfuCommandStart (core : Nat) : Laws.Encoding.Statement (.sfuCommandStart core) := encoding_none rfl
theorem Laws.Encoding.sfuCommandComplete (core : Nat) : Laws.Encoding.Statement (.sfuCommandComplete core) := encoding_none rfl
theorem Laws.Encoding.copyCommandStart (core : Nat) : Laws.Encoding.Statement (.copyCommandStart core) := encoding_none rfl
theorem Laws.Encoding.copyChunkStart (core : Nat) (serial : Nat) : Laws.Encoding.Statement (.copyChunkStart core serial) := encoding_none rfl
theorem Laws.Encoding.copyChunkComplete (core : Nat) (serial : Nat) (bytes : List Byte) : Laws.Encoding.Statement (.copyChunkComplete core serial bytes) := encoding_none rfl
theorem Laws.Encoding.cpyrArrival (peer : Nat) (src : Nat) (serial : Nat) (core : Nat) (ctx : Nat) (whole : CopyRange) (off : Nat) (q : Nat) (bytes : List Byte) : Laws.Encoding.Statement (.cpyrArrival peer src serial core ctx whole off q bytes) := encoding_none rfl
theorem Laws.Encoding.copyDestRefusal (core : Nat) (serial : Nat) : Laws.Encoding.Statement (.copyDestRefusal core serial) := encoding_none rfl
theorem Laws.Encoding.tmoveStorageSwitch (core : Nat) (serial : Nat) : Laws.Encoding.Statement (.tmoveStorageSwitch core serial) := encoding_none rfl
theorem Laws.Encoding.oldBlocksReturn (index : Nat) : Laws.Encoding.Statement (.oldBlocksReturn index) := encoding_none rfl
theorem Laws.Encoding.migrArrival (core : Nat) (serial : Nat) : Laws.Encoding.Statement (.migrArrival core serial) := encoding_none rfl
theorem Laws.Encoding.dropRelease (core : Nat) (ctx : Nat) : Laws.Encoding.Statement (.dropRelease core ctx) := encoding_none rfl
theorem Laws.Encoding.dropArrival (tile : BitVec 40) (e : BitVec 5) (peer : Nat) (core : Nat) (ctx : Nat) : Laws.Encoding.Statement (.dropArrival tile e peer core ctx) := encoding_none rfl
theorem Laws.Encoding.dropAck (core : Nat) (ctx : Nat) (tile : BitVec 40) : Laws.Encoding.Statement (.dropAck core ctx tile) := encoding_none rfl
theorem Laws.Encoding.refillRequest (tile : BitVec 40) (peer : Nat) (core : Nat) (ctx : Nat) : Laws.Encoding.Statement (.refillRequest tile peer core ctx) := encoding_none rfl
theorem Laws.Encoding.refillReply (core : Nat) (ctx : Nat) (tile : BitVec 40) : Laws.Encoding.Statement (.refillReply core ctx tile) := encoding_none rfl
theorem Laws.Encoding.uniquenessQuery (tile : BitVec 40) (e : BitVec 5) (peer : Nat) (core : Nat) (ctx : Nat) : Laws.Encoding.Statement (.uniquenessQuery tile e peer core ctx) := encoding_none rfl
theorem Laws.Encoding.uniquenessAnswer (core : Nat) (ctx : Nat) (tile : BitVec 40) (unique : Bool) : Laws.Encoding.Statement (.uniquenessAnswer core ctx tile unique) := encoding_none rfl
theorem Laws.Encoding.descriptorRead (tile : BitVec 40) (peer : Nat) (core : Nat) (ctx : Nat) (elem : Nat) : Laws.Encoding.Statement (.descriptorRead tile peer core ctx elem) := encoding_none rfl
theorem Laws.Encoding.descriptorReply (core : Nat) (ctx : Nat) (tile : BitVec 40) (words : List Word) : Laws.Encoding.Statement (.descriptorReply core ctx tile words) := encoding_none rfl
theorem Laws.Encoding.tileAllocate (core : Nat) (ctx : Nat) (shape : Word) : Laws.Encoding.Statement (.tileAllocate core ctx shape) := encoding_none rfl
theorem Laws.Encoding.allocationReply (core : Nat) (ctx : Nat) (tile : BitVec 40) : Laws.Encoding.Statement (.allocationReply core ctx tile) := encoding_none rfl
theorem Laws.Encoding.updateCopyComplete (core : Nat) (serial : Nat) (bytes : List Byte) : Laws.Encoding.Statement (.updateCopyComplete core serial bytes) := encoding_none rfl
theorem Laws.Encoding.updateWriteComplete (core : Nat) (serial : Nat) : Laws.Encoding.Statement (.updateWriteComplete core serial) := encoding_none rfl
theorem Laws.Encoding.tsealRegionComplete (core : Nat) (serial : Nat) : Laws.Encoding.Statement (.tsealRegionComplete core serial) := encoding_none rfl
theorem Laws.Encoding.barrierArrival (core : Nat) (ctx : Nat) (unit : Nat) : Laws.Encoding.Statement (.barrierArrival core ctx unit) := encoding_none rfl
theorem Laws.Encoding.rpostArrival (peer : Nat) (src : Nat) (srcCtx : Nat) (core : Nat) (ctx : Nat) (q : Nat) (amount : Nat) (pc : Word) : Laws.Encoding.Statement (.rpostArrival peer src srcCtx core ctx q amount pc) := encoding_none rfl
theorem Laws.Encoding.rpostAck (core : Nat) (post : RpostOf) : Laws.Encoding.Statement (.rpostAck core post) := encoding_none rfl
theorem Laws.Encoding.rpostRefusal (core : Nat) (post : RpostOf) (pc : Word) : Laws.Encoding.Statement (.rpostRefusal core post pc) := encoding_none rfl
theorem Laws.Encoding.remoteAccess (peer : Nat) (src : Nat) (srcCtx : Nat) (op : Nat) (pa : Nat) (x : Word) (y : Word) (pc : Word) (n : Nat) (bytes : List Byte) : Laws.Encoding.Statement (.remoteAccess peer src srcCtx op pa x y pc n bytes) := encoding_none rfl
theorem Laws.Encoding.remoteRefusal (core : Nat) (ctx : Nat) (pc : Word) (what : RefusalOf) (cause : Nat) : Laws.Encoding.Statement (.remoteRefusal core ctx pc what cause) := encoding_none rfl
theorem Laws.Encoding.homeAccess (peer : Nat) (src : Nat) (srcCtx : Nat) (op : Nat) (pa : Nat) (x : Word) (y : Word) (pc : Word) (n : Nat) (bytes : List Byte) : Laws.Encoding.Statement (.homeAccess peer src srcCtx op pa x y pc n bytes) := encoding_none rfl
theorem Laws.Encoding.gets (agent : Nat) (line : Nat) (inc : Bool) : Laws.Encoding.Statement (.gets agent line inc) := encoding_none rfl
theorem Laws.Encoding.getm (agent : Nat) (line : Nat) (inc : Bool) : Laws.Encoding.Statement (.getm agent line inc) := encoding_none rfl
theorem Laws.Encoding.getu (agent : Nat) (line : Nat) (inc : Bool) : Laws.Encoding.Statement (.getu agent line inc) := encoding_none rfl
theorem Laws.Encoding.upg (agent : Nat) (line : Nat) (inc : Bool) : Laws.Encoding.Statement (.upg agent line inc) := encoding_none rfl
theorem Laws.Encoding.putm (agent : Nat) (line : Nat) (inc : Bool) : Laws.Encoding.Statement (.putm agent line inc) := encoding_none rfl
theorem Laws.Encoding.pute (agent : Nat) (line : Nat) (inc : Bool) : Laws.Encoding.Statement (.pute agent line inc) := encoding_none rfl
theorem Laws.Encoding.putu (agent : Nat) (line : Nat) (inc : Bool) (dest : Nat) (sums : List (Nat × Bool × Word)) : Laws.Encoding.Statement (.putu agent line inc dest sums) := encoding_none rfl
theorem Laws.Encoding.fwdGets (owner : Nat) (req : Nat) (line : Nat) : Laws.Encoding.Statement (.fwdGets owner req line) := encoding_none rfl
theorem Laws.Encoding.fwdGetm (owner : Nat) (req : Nat) (line : Nat) : Laws.Encoding.Statement (.fwdGetm owner req line) := encoding_none rfl
theorem Laws.Encoding.inv (agent : Nat) (req : Nat) (line : Nat) (course : Bool) : Laws.Encoding.Statement (.inv agent req line course) := encoding_none rfl
theorem Laws.Encoding.recall (agent : Nat) (req : Nat) (line : Nat) : Laws.Encoding.Statement (.recall agent req line) := encoding_none rfl
theorem Laws.Encoding.data (way : Way) (line : Nat) (dues : Dues) (excl : Bool) : Laws.Encoding.Statement (.data way line dues excl) := encoding_none rfl
theorem Laws.Encoding.ackcount (agent : Nat) (line : Nat) (dues : Dues) : Laws.Encoding.Statement (.ackcount agent line dues) := encoding_none rfl
theorem Laws.Encoding.invack (way : Way) (line : Nat) : Laws.Encoding.Statement (.invack way line) := encoding_none rfl
theorem Laws.Encoding.putack (agent : Nat) (line : Nat) : Laws.Encoding.Statement (.putack agent line) := encoding_none rfl
theorem Laws.Encoding.shadow (sender : Sender) (ctx : Nat) (line : Nat) : Laws.Encoding.Statement (.shadow sender ctx line) := encoding_none rfl
theorem Laws.Encoding.shadowTaken (core : Nat) (ctx : Nat) (line : Nat) (gen : Nat) : Laws.Encoding.Statement (.shadowTaken core ctx line gen) := encoding_none rfl
theorem Laws.Encoding.shadowFull (core : Nat) (ctx : Nat) (line : Nat) : Laws.Encoding.Statement (.shadowFull core ctx line) := encoding_none rfl
theorem Laws.Encoding.rejoinNotice (agent : Nat) (slice : Nat) : Laws.Encoding.Statement (.rejoinNotice agent slice) := encoding_none rfl
theorem Laws.Encoding.leaseAcquired (core : Nat) (ctx : Nat) : Laws.Encoding.Statement (.leaseAcquired core ctx) := encoding_none rfl
theorem Laws.Encoding.leaseExpire (core : Nat) (ctx : Nat) (slot : Nat) : Laws.Encoding.Statement (.leaseExpire core ctx slot) := encoding_none rfl
theorem Laws.Encoding.spinvNotice (core : Nat) (asid : Nat) (base : Nat) (len : Nat) : Laws.Encoding.Statement (.spinvNotice core asid base len) := encoding_none rfl
theorem Laws.Encoding.spinvAck (core : Nat) (ctx : Nat) : Laws.Encoding.Statement (.spinvAck core ctx) := encoding_none rfl
theorem Laws.Encoding.corePowerGate (core : Nat) : Laws.Encoding.Statement (.corePowerGate core) := encoding_none rfl
theorem Laws.Encoding.coreWake (core : Nat) : Laws.Encoding.Statement (.coreWake core) := encoding_none rfl
theorem Laws.Encoding.powerThrottle (mhz : Nat) (overCap : Bool) : Laws.Encoding.Statement (.powerThrottle mhz overCap) := encoding_none rfl
theorem Laws.Encoding.doorbell (off : Nat) (word : Word) : Laws.Encoding.Statement (.doorbell off word) := encoding_none rfl
theorem Laws.Encoding.adminDoorbell (word : Word) : Laws.Encoding.Statement (.adminDoorbell word) := encoding_none rfl
theorem Laws.Encoding.launchPacketRead (slot : Nat) : Laws.Encoding.Statement (.launchPacketRead slot) := encoding_none rfl
theorem Laws.Encoding.residencyAnswer (id : Nat) : Laws.Encoding.Statement (.residencyAnswer id) := encoding_none rfl
theorem Laws.Encoding.residencyDiscard (id : Nat) : Laws.Encoding.Statement (.residencyDiscard id) := encoding_none rfl
theorem Laws.Encoding.dispatch : Laws.Encoding.Statement (.dispatch) := encoding_none rfl
theorem Laws.Encoding.launchComplete (id : Nat) : Laws.Encoding.Statement (.launchComplete id) := encoding_none rfl
theorem Laws.Encoding.registerWrite (off : Nat) (v : Word) : Laws.Encoding.Statement (.registerWrite off v) := encoding_none rfl
theorem Laws.Encoding.announce (rank : Nat) (gid : Nat) (seq : Nat) (mask : Nat) (m : Nat) (n : Nat) (k : Nat) (fmts : Nat) (fn : Nat) : Laws.Encoding.Statement (.announce rank gid seq mask m n k fmts fn) := encoding_none rfl
theorem Laws.Encoding.gmmaAgreementTimeout (core : Nat) : Laws.Encoding.Statement (.gmmaAgreementTimeout core) := encoding_none rfl
theorem Laws.Encoding.chain (gid : Nat) (seq : Nat) (part : ChainPart) : Laws.Encoding.Statement (.chain gid seq part) := encoding_none rfl
theorem Laws.Encoding.abort (gid : Nat) (seq : Nat) (cause : Nat) (rank : Nat) (sender : Nat) : Laws.Encoding.Statement (.abort gid seq cause rank sender) := encoding_none rfl
theorem Laws.Encoding.done (gid : Nat) (seq : Nat) (result : DoneWith) : Laws.Encoding.Statement (.done gid seq result) := encoding_none rfl
theorem Laws.Encoding.gmmaMemberLost (member : Nat) : Laws.Encoding.Statement (.gmmaMemberLost member) := encoding_none rfl
theorem Laws.Encoding.linkTrain (port : Nat) (farPeer : Nat) (farPort : Nat) (keysOk : Bool) : Laws.Encoding.Statement (.linkTrain port farPeer farPort keysOk) := encoding_none rfl
theorem Laws.Encoding.flitReceive (port : Nat) (ctr : Nat) (body : FlitBody) (seq : Nat) (ack : Nat) (nak : Bool) (tagOk : Bool) : Laws.Encoding.Statement (.flitReceive port ctr body seq ack nak tagOk) := encoding_none rfl
theorem Laws.Encoding.nakReceive (port : Nat) (seq : Nat) : Laws.Encoding.Statement (.nakReceive port seq) := encoding_none rfl
theorem Laws.Encoding.linkRetrain (port : Nat) : Laws.Encoding.Statement (.linkRetrain port) := encoding_none rfl
theorem Laws.Encoding.timeSyncSend (port : Nat) : Laws.Encoding.Statement (.timeSyncSend port) := encoding_none rfl
theorem Laws.Encoding.timeSyncReceive (port : Nat) (peer : Nat) (stamp : Word) : Laws.Encoding.Statement (.timeSyncReceive port peer stamp) := encoding_none rfl
theorem Laws.Encoding.controlFlitReceive (peer : Nat) (reachable : Bool) : Laws.Encoding.Statement (.controlFlitReceive peer reachable) := encoding_none rfl
theorem Laws.Encoding.routerCombine (place : CombineAt) (wide : Bool) (reqs : List (Nat × Nat × Nat × Nat × Word)) : Laws.Encoding.Statement (.routerCombine place wide reqs) := encoding_none rfl
theorem Laws.Encoding.combinedReplySplit (what : CombineKey) (old : Word) (reqs : List (Nat × Nat × Nat × Nat × Word)) : Laws.Encoding.Statement (.combinedReplySplit what old reqs) := encoding_none rfl
theorem Laws.Encoding.hostHalfRequest (line : Nat) (half : Nat) (ask : HostAsk) : Laws.Encoding.Statement (.hostHalfRequest line half ask) := encoding_none rfl
theorem Laws.Encoding.bridgeHalfData (line : Nat) (half : Nat) (give : HalfFor) : Laws.Encoding.Statement (.bridgeHalfData line half give) := encoding_none rfl
theorem Laws.Encoding.features (word : Nat) : Laws.Encoding.Statement (.features word) := encoding_none rfl
theorem Laws.Encoding.resync (buf : Nat) : Laws.Encoding.Statement (.resync buf) := encoding_none rfl
theorem Laws.Encoding.clearSlip : Laws.Encoding.Statement (.clearSlip) := encoding_none rfl
theorem Laws.Encoding.clearErrors : Laws.Encoding.Statement (.clearErrors) := encoding_none rfl
theorem Laws.Encoding.fwLoad (buf : Nat) (len : Nat) : Laws.Encoding.Statement (.fwLoad buf len) := encoding_none rfl
theorem Laws.Encoding.spdm (msg : List Byte) : Laws.Encoding.Statement (.spdm msg) := encoding_none rfl
theorem Laws.Encoding.trace (core : Nat) (ctx : Nat) (classes : Nat) (trigger : Nat) (arg : Word) (post : Nat) : Laws.Encoding.Statement (.trace core ctx classes trigger arg post) := encoding_none rfl
theorem Laws.Encoding.traceReadout (core : Nat) (buf : Nat) : Laws.Encoding.Statement (.traceReadout core buf) := encoding_none rfl
theorem Laws.Encoding.power (watts : Nat) : Laws.Encoding.Statement (.power watts) := encoding_none rfl
theorem Laws.Encoding.fwActivate (unused : Bool) : Laws.Encoding.Statement (.fwActivate unused) := encoding_none rfl
theorem Laws.Encoding.adminUnsupported (opcode : Nat) : Laws.Encoding.Statement (.adminUnsupported opcode) := encoding_none rfl
theorem Laws.Encoding.traceTrigger (core : Nat) : Laws.Encoding.Statement (.traceTrigger core) := encoding_none rfl
theorem Laws.Encoding.traceBufferFreeze (core : Nat) : Laws.Encoding.Statement (.traceBufferFreeze core) := encoding_none rfl
theorem Laws.Encoding.powerOnReset : Laws.Encoding.Statement (.powerOnReset) := encoding_none rfl
theorem Laws.Encoding.deviceReset : Laws.Encoding.Statement (.deviceReset) := encoding_none rfl
theorem Laws.Encoding.cxlReset (clear : Bool) : Laws.Encoding.Statement (.cxlReset clear) := encoding_none rfl
theorem Laws.Encoding.functionLevelReset : Laws.Encoding.Statement (.functionLevelReset) := encoding_none rfl
theorem Laws.Encoding.doeMailboxMessage (msg : List Byte) : Laws.Encoding.Statement (.doeMailboxMessage msg) := encoding_none rfl
theorem Laws.Encoding.remoteAcknowledgement (core : Nat) (ack : AckTo) : Laws.Encoding.Statement (.remoteAcknowledgement core ack) := encoding_none rfl

end Sys2Proof
end

