-- ==== Sys2Proof/Laws/Settle.lean ====
section
/-! SUPPORT. How a meaning ends: a guarded form takes effect, traps, holds or blocks as its checks say. -/

namespace Sys2Proof.Machine

/-- The state that waits with a status. -/
def State.waiting (s : State) (t : Status) : State := { s with iss := { s.iss with status := t } }

variable {α β : Type}

@[simp] theorem Eff.bind_ok (a : α) (f : α → Eff β) : (Except.ok a >>= f : Eff β) = f a := rfl
@[simp] theorem Eff.bind_error (b : Brk) (f : α → Eff β) : ((Except.error b : Eff α) >>= f : Eff β) = .error b := rfl
@[simp] theorem Eff.map_ok (a : α) (f : α → β) : Except.map f (Except.ok a : Eff α) = .ok (f a) := rfl
@[simp] theorem Eff.map_error (b : Brk) (f : α → β) : Except.map f (Except.error b : Eff α) = .error b := rfl

@[simp] theorem trapIf_false (c : Cause) (a : Word) : trapIf false c a = .ok () := rfl
@[simp] theorem trapIf_true (c : Cause) (a : Word) : trapIf true c a = .error (.trap c a) := rfl
@[simp] theorem blockIf_false (s : State) : blockIf false s = .ok () := rfl
@[simp] theorem blockIf_true (s : State) : blockIf true s = .error (.block s) := rfl
@[simp] theorem holdIf_false (s : State) : holdIf false s = .ok () := rfl
@[simp] theorem holdIf_true (s : State) : holdIf true s = .error (.hold s) := rfl

@[simp] theorem settle_ok (s t : State) : settle s (.ok t) = .next t := rfl
@[simp] theorem settle_trap (s : State) (c : Cause) (a : Word) : settle s (.error (.trap c a)) = .next (s.trapBundle c a) := rfl
@[simp] theorem settle_hold (s t : State) : settle s (.error (.hold t)) = .next (t.waiting .held) := rfl
@[simp] theorem settle_block (s t : State) : settle s (.error (.block t)) = .next (t.waiting .blocked) := rfl

/-- Everything that settling can do: it always answers a next state. -/
theorem settle_cases (s : State) (e : Eff State) :
    (∃ t, e = .ok t ∧ settle s e = .next t) ∨
    (∃ c a, e = .error (.trap c a) ∧ settle s e = .next (s.trapBundle c a)) ∨
    (∃ t, e = .error (.hold t) ∧ settle s e = .next (t.waiting .held)) ∨
    (∃ t, e = .error (.block t) ∧ settle s e = .next (t.waiting .blocked)) := by
  rcases e with (⟨c, a⟩ | t | t) | t
  · exact .inr (.inl ⟨c, a, rfl, rfl⟩)
  · exact .inr (.inr (.inl ⟨t, rfl, rfl⟩))
  · exact .inr (.inr (.inr ⟨t, rfl, rfl⟩))
  · exact .inl ⟨t, rfl, rfl⟩

/-- A guard that reads 1 settles the form. -/
theorem guarded_on {g : BitVec 4} {s : State} (f : State → Eff State) (h : s.opP g = true) : guarded g s f = settle s (f s) := by
  simp [guarded, h]

/-- A guard that reads 0 leaves the state as it is (R91). -/
theorem guarded_off {g : BitVec 4} {s : State} (f : State → Eff State) (h : s.opP g = false) : guarded g s f = .next s := by
  simp [guarded, h]

theorem guarded_ok {g : BitVec 4} {s t : State} {f : State → Eff State} (h : s.opP g = true) (e : f s = .ok t) :
    guarded g s f = .next t := by
  rw [guarded_on f h, e]; rfl

theorem guarded_trap {g : BitVec 4} {s : State} {f : State → Eff State} {c : Cause} {a : Word} (h : s.opP g = true)
    (e : f s = .error (.trap c a)) : guarded g s f = .next (s.trapBundle c a) := by
  rw [guarded_on f h, e]; rfl

end Sys2Proof.Machine
end

