-- ==== Sys2Proof/Tests/Slice0.lean ====
section
/-! SUPPORT. Tests: ill-formed terms that WellFormed refuses, words decoded by hand from the spec's encodings, single steps with results worked
out from the spec, and for each statement of Certificates/Slice0/Obligations.lean concrete states and operands that meet its hypotheses. -/

namespace Sys2Proof.Tests

set_option maxRecDepth 100000
set_option Elab.async false

open Sys2Proof Sys2Proof.Machine Sys2Proof.Safety

/-! ### WellFormed: one ill-formed term for each check -/

theorem test_wf_predicate_p0 : (Instr.cmpEq 0 0 1 2).wf = false ∧ (Instr.cmpEq 0 1 1 2).wf = true := by decide
theorem test_wf_predicate_logic : (Instr.pnot 0 0 1).wf = false ∧ (Instr.fcmpUn 0 0 1 2).wf = false ∧ (Instr.cmpiGtu 0 0 1 5).wf = false := by decide
theorem test_wf_core : (Instr.corePowerGate 256).wf = false ∧ (Instr.corePowerGate 255).wf = true := by decide
theorem test_wf_context : (Instr.trapTake 0 4).wf = false ∧ (Instr.trapTake 0 3).wf = true := by decide
theorem test_wf_agent : (Instr.getm 258 0 false).wf = false ∧ (Instr.getm 257 0 false).wf = true := by decide
theorem test_wf_marker : (Instr.quiesceMarkerReturn 0 0 3).wf = false ∧ (Instr.quiesceMarkerReturn 0 0 2).wf = true := by decide
theorem test_wf_barrier_unit : (Instr.barrierArrival 0 0 8).wf = false ∧ (Instr.barrierArrival 0 0 7).wf = true := by decide
theorem test_wf_port : (Instr.linkRetrain 12).wf = false ∧ (Instr.linkRetrain 11).wf = true := by decide
theorem test_wf_queue_slot : (Instr.launchPacketRead 64).wf = false ∧ (Instr.launchPacketRead 63).wf = true := by decide
theorem test_wf_peer : (Instr.controlFlitReceive 16384 true).wf = false ∧ (Instr.controlFlitReceive 16383 true).wf = true := by decide
theorem test_wf_flag : (Instr.rpostArrival 1 0 0 0 0 16 1 0).wf = false ∧ (Instr.rpostArrival 1 0 0 0 0 15 1 0).wf = true := by decide
theorem test_wf_slice : (Instr.rejoinNotice 0 128).wf = false ∧ (Instr.rejoinNotice 0 127).wf = true := by decide
theorem test_wf_lease_slot : (Instr.leaseExpire 0 0 2).wf = false ∧ (Instr.leaseExpire 0 0 1).wf = true := by decide
theorem test_wf_half : (Instr.hostHalfRequest 0 2 ⟨true, false⟩).wf = false ∧ (Instr.hostHalfRequest 0 1 ⟨true, false⟩).wf = true := by decide

/-! ### Words written out from the encodings -/

/-- A word in a slot, with the bits that the header lends the slot, decodes to an instruction. -/
noncomputable def reads (slot : Nat) (l : BitVec 6) (w : BitVec 32) (i : Instr) : Bool :=
  match decodeSlot slot l w with | .ok j => i == j | .error _ => false


theorem test_decode_Header : ([
    (0, 0xC424EAE4, .hdr 4 9 14 5 3 2 4)] : List (Nat × BitVec 32 × Instr)).all (fun e => reads e.1 0 e.2.1 e.2.2) = true := by decide +kernel

theorem test_decode_Control : ([
    (1, 0x00B00000, .nop 11), (0, 0x01300017, .br 3 23), (0, 0x02AF1000, .brx 10 30 4), (0, 0x03200025, .call 2 37), (0, 0x04903400, .ret 9 13),
    (0, 0x05141C3D, .loop 1 2 56 61), (0, 0x068400C4, .loopx 8 2 1 68), (0, 0x07F00000, .lbrk 15), (0, 0x08700000, .halt 7),
    (0, 0x09E0004F, .trap 14 79), (0, 0x0A600000, .eret 6), (0, 0x0BD00000, .yield 13), (0, 0x0C5A0C6E, .waitGe 5 10 12 110),
    (0, 0x0CC23375, .waitEq 12 2 19 117), (0, 0x0C495A7C, .waitTake 4 9 26 124), (0, 0x0DB10283, .postInc 11 1 2 131),
    (0, 0x0D38298A, .postSet 3 8 9 138), (0, 0x0EAF1091, .rpost 10 15 16 145), (0, 0x0F220000, .barj 2 2), (0, 0x10920000, .barw 9 2),
    (0, 0x11100002, .fenceFull 1 2), (0, 0x11802002, .fenceAcq 8 2), (0, 0x11F04002, .fenceRel 15 2), (0, 0x127B0000, .timeDom 7 22),
    (0, 0x12EE8001, .timeCyc 14 29), (0, 0x13628620, .rdsr 6 5 196), (0, 0x14D60658, .wrsr 13 12 203), (0, 0x1559E3A0, .launch 5 19 24 29),
    (0, 0x16C00000, .drain 12)] : List (Nat × BitVec 32 × Instr)).all (fun e => reads e.1 0 e.2.1 e.2.2) = true := by decide +kernel

theorem test_decode_Integer : ([
    (2, 0x20411D80, .add 4 2 7 12), (3, 0x20B4BA61, .addW 11 9 14 19), (0, 0x21385740, .sub 3 16 21 26), (1, 0x21ABF041, .subW 10 23 28 2),
    (2, 0x222F1120, .mul 2 30 4 9), (3, 0x22932E01, .mulW 9 6 11 16), (0, 0x2316CAE0, .mulh 1 13 18 23), (1, 0x248A67C0, .mulhu 8 20 25 30),
    (2, 0x25FD84C0, .div 15 27 1 6), (3, 0x2571A1A1, .divW 7 3 8 13), (0, 0x26E53E80, .divu 14 10 15 20), (1, 0x2668DB61, .divuW 6 17 22 27),
    (2, 0x27DC7460, .rem 13 24 29 3), (3, 0x275F9541, .remW 5 31 5 10), (0, 0x28C3B220, .remu 12 7 12 17), (1, 0x28474F01, .remuW 4 14 19 24),
    (2, 0x29BAEBE0, .and 11 21 26 31), (3, 0x2A3E08E0, .or 3 28 2 7), (0, 0x2BA225C0, .xor 10 4 9 14), (1, 0x2C25C2A0, .shl 2 11 16 21),
    (2, 0x2C995F81, .shlW 9 18 23 28), (3, 0x2D1CF880, .shr 1 25 30 4), (0, 0x2D809961, .shrW 8 1 6 11), (1, 0x2EF43640, .sra 15 8 13 18),
    (2, 0x2E77D321, .sraW 7 15 20 25), (3, 0x2FEB6C20, .rotr 14 22 27 1), (0, 0x2F6E8D01, .rotrW 6 29 3 8), (1, 0x30D2A800, .clz 13 5 10),
    (2, 0x31564400, .ctz 5 12 17), (3, 0x32C9E000, .popc 12 19 24), (0, 0x334D7CA0, .min 4 26 31 5), (1, 0x34B11D80, .max 11 2 7 12),
    (2, 0x3534BA60, .minu 3 9 14 19), (3, 0x36A85740, .maxu 10 16 21 26), (0, 0x372BF000, .sextB 2 23 28), (1, 0x379F1001, .sextH 9 30 4),
    (2, 0x37132C02, .sextW 1 6 11), (3, 0x3886C800, .zextB 8 13 18), (0, 0x38FA6401, .zextH 15 20 25), (1, 0x387D8402, .zextW 7 27 1),
    (2, 0x39E1A1A4, .sel 14 3 8 13 4)] : List (Nat × BitVec 32 × Instr)).all (fun e => reads e.1 0 e.2.1 e.2.2) = true := by decide +kernel

theorem test_decode_CompareAndImmediate : ([
    (3, 0x3A613E80, .cmpEq 6 2 15 20), (0, 0x3AD15B61, .cmpNe 13 2 22 27), (1, 0x3A517462, .cmpLt 5 2 29 3), (2, 0x3AC11543, .cmpLe 12 2 5 10),
    (3, 0x3A413224, .cmpLtu 4 2 12 17), (0, 0x3AB14F05, .cmpLeu 11 2 19 24), (1, 0x403AE82F, .addi 3 21 26 47),
    (2, 0x40AE0A36, .addiW 10 28 2 54), (3, 0x4122243D, .andi 2 4 9 61), (0, 0x4295C044, .ori 9 11 16 68), (1, 0x43195C4B, .xori 1 18 23 75),
    (2, 0x448CF81A, .shli 8 25 30 26), (3, 0x44F09A0B, .shliW 15 1 6 11), (0, 0x45743428, .shri 7 8 13 40), (1, 0x45E7D219, .shriW 14 15 20 25),
    (2, 0x466B6C36, .srai 6 22 27 54), (3, 0x46DE8E08, .sraiW 13 29 3 8), (0, 0x4752057F, .cmpiEq 5 2 10 127),
    (1, 0x47C21887, .cmpiNe 12 2 17 7), (2, 0x47422C0E, .cmpiLt 4 2 24 14), (3, 0x47B23F95, .cmpiLe 11 2 31 21),
    (0, 0x4732439C, .cmpiLtu 3 2 7 28), (1, 0x47A25723, .cmpiLeu 10 2 14 35), (2, 0x47226AAA, .cmpiGt 2 2 21 42),
    (3, 0x47927E31, .cmpiGe 9 2 28 49), (0, 0x47128238, .cmpiGtu 1 2 4 56), (1, 0x478295BF, .cmpiGeu 8 2 11 63),
    (2, 0x48F682BC, .movi 15 13 700), (3, 0x497A02C3, .movhi 7 20 707)] : List (Nat × BitVec 32 × Instr)).all (fun e => reads e.1 0 e.2.1 e.2.2) = true := by decide +kernel

theorem test_decode_PredicateAndFloat : ([
    (0, 0x50E125C0, .pand 14 2 9 14), (1, 0x516104C0, .por 6 2 1 6), (2, 0x52D12000, .pnot 13 2 8), (3, 0x53513CA0, .pxor 5 2 15 5),
    (0, 0x54CC7400, .xab 12 24 29), (3, 0x554F9400, .xba 4 31 5), (2, 0x55B3B001, .xbaH 11 7 12), (1, 0x60374F02, .fadd 3 14 19 24 2),
    (1, 0x61AAEBE3, .fsub 10 21 26 31 3), (1, 0x622E08E1, .fmul 2 28 2 7 1), (1, 0x639225C2, .ffma 9 4 9 14 2),
    (1, 0x6415C2A3, .fdiv 1 11 16 21 3), (1, 0x65895C02, .fsqrt 8 18 23 2), (1, 0x66FCF880, .fmin 15 25 30 4), (1, 0x67709960, .fmax 7 1 6 11),
    (1, 0x68E13640, .fcmpEq 14 2 13 18), (1, 0x68615321, .fcmpLt 6 2 20 25), (1, 0x68D16C22, .fcmpLe 13 2 27 1),
    (1, 0x68510D03, .fcmpUn 5 2 3 8), (1, 0x68C129E4, .fcmpNe 12 2 10 15), (1, 0x69464401, .fcvtF32S64 4 12 17 1 false),
    (1, 0x69B9E006, .fcvtF32Z64 11 19 24 2 false), (1, 0x693D7C0B, .fcvtS64F32 3 26 31 3 false), (1, 0x69A11C0D, .fcvtZ64F32 10 2 7 1 false),
    (1, 0x6924B812, .fcvtF32Bf16 2 9 14 2 false), (1, 0x69985417, .fcvtBf16F32 9 16 21 3 false), (1, 0x691BF019, .fcvtF32F16 1 23 28 1 false),
    (1, 0x698F101E, .fcvtF16F32 8 30 4 2 false)] : List (Nat × BitVec 32 × Instr)).all (fun e => reads e.1 0 e.2.1 e.2.2) = true := by decide +kernel

theorem test_decode_LocalAndMortarAccess : ([
    (2, 0x70F32C21, .ldsD 15 6 11 33), (3, 0x7076C868, .ldsW 7 13 18 40), (2, 0x70EA64AF, .ldsWu 14 20 25 47), (3, 0x706D84F6, .ldsH 6 27 1 54),
    (2, 0x70D1A13D, .ldsHu 13 3 8 61), (3, 0x70553D45, .ldsB 5 10 15 5), (2, 0x70C8D98C, .ldsBu 12 17 22 12), (3, 0x704C75D3, .ldsFw 4 24 29 19),
    (2, 0x70BF961A, .ldsFc 11 31 5 26), (3, 0x7133B220, .ldsXD 3 7 12 17), (2, 0x71A74F01, .ldsXW 10 14 19 24),
    (3, 0x712AEBE2, .ldsXWu 2 21 26 31), (2, 0x719E08E3, .ldsXH 9 28 2 7), (3, 0x711225C4, .ldsXHu 1 4 9 14), (2, 0x7185C2A5, .ldsXB 8 11 16 21),
    (3, 0x71F95F86, .ldsXBu 15 18 23 28), (2, 0x727CF813, .stsD 7 25 30 19), (3, 0x72E0985A, .stsW 14 1 6 26), (2, 0x726434A1, .stsH 6 8 13 33),
    (3, 0x72D7D0E8, .stsB 13 15 20 40), (2, 0x725B6D2F, .stsFs 5 22 27 47), (3, 0x72CE8D76, .stsFe 12 29 3 54),
    (2, 0x7342A9E0, .stsXD 4 5 10 15), (3, 0x73B646C1, .stsXW 11 12 17 22), (2, 0x7339E3A2, .stsXH 3 19 24 29),
    (3, 0x73AD7CA3, .stsXB 10 26 31 5), (2, 0x74211C1A, .ldmD 2 2 7 26), (2, 0x7494B861, .ldmW 9 9 14 33), (2, 0x741854A8, .ldmWu 1 16 21 40),
    (2, 0x748BF0EF, .ldmH 8 23 28 47), (2, 0x74FF1136, .ldmHu 15 30 4 54), (2, 0x74732D7D, .ldmB 7 6 11 61), (2, 0x74E6C985, .ldmBu 14 13 18 5),
    (2, 0x756A67C0, .ldmXD 6 20 25 30), (2, 0x75DD84C1, .ldmXW 13 27 1 6), (2, 0x7551A1A2, .ldmXWu 5 3 8 13),
    (2, 0x75C53E83, .ldmXH 12 10 15 20), (2, 0x7548DB64, .ldmXHu 4 17 22 27), (2, 0x75BC7465, .ldmXB 11 24 29 3),
    (2, 0x753F9546, .ldmXBu 3 31 5 10), (2, 0x76A3B03D, .stmD 10 7 12 61), (2, 0x76274C45, .stmW 2 14 19 5), (2, 0x769AE88C, .stmH 9 21 26 12),
    (2, 0x761E08D3, .stmB 1 28 2 19), (2, 0x778225C0, .stmXD 8 4 9 14), (2, 0x77F5C2A1, .stmXW 15 11 16 21), (2, 0x77795F82, .stmXH 7 18 23 28),
    (2, 0x77ECF883, .stmXB 14 25 30 4)] : List (Nat × BitVec 32 × Instr)).all (fun e => reads e.1 0 e.2.1 e.2.2) = true := by decide +kernel

theorem test_decode_AtomicLeaseAndSnapshot : ([
    (2, 0x78609960, .atomAdd 6 1 6 11), (2, 0x78D43641, .atomAddW 13 8 13 18), (2, 0x7857D322, .atomAnd 5 15 20 25),
    (2, 0x78CB6C23, .atomAndW 12 22 27 1), (2, 0x784E8D04, .atomOr 4 29 3 8), (2, 0x78B2A9E5, .atomOrW 11 5 10 15),
    (2, 0x783646C6, .atomXor 3 12 17 22), (2, 0x78A9E3A7, .atomXorW 10 19 24 29), (2, 0x782D7CA8, .atomMin 2 26 31 5),
    (2, 0x78911D89, .atomMinW 9 2 7 12), (2, 0x7814BA6A, .atomMax 1 9 14 19), (2, 0x7888574B, .atomMaxW 8 16 21 26),
    (2, 0x78FBF04C, .atomMinu 15 23 28 2), (2, 0x787F112D, .atomMinuW 7 30 4 9), (2, 0x78E32E0E, .atomMaxu 14 6 11 16),
    (2, 0x7866CAEF, .atomMaxuW 6 13 18 23), (2, 0x78DA67D0, .atomSwap 13 20 25 30), (2, 0x785D84D1, .atomSwapW 5 27 1 6),
    (2, 0x78C1A1B2, .atomCas 12 3 8 13), (2, 0x78453E93, .atomCasW 4 10 15 20), (2, 0x79B046C0, .caddD 11 17 22),
    (2, 0x793063A1, .caddW 3 24 29), (2, 0x7AA07CA0, .lease 10 31 5), (2, 0x7B23B000, .unlease 2 7 12), (2, 0x7C974F00, .snap 9 14 19 24),
    (2, 0x7D105400, .accept 1 21), (2, 0x7E807000, .reject 8 28)] : List (Nat × BitVec 32 × Instr)).all (fun e => reads e.1 0 e.2.1 e.2.2) = true := by decide +kernel

theorem test_decode_HandleTileAndSystem : ([
    (2, 0x80FB0048, .ldh 15 44 9 0), (2, 0x817CC080, .ldhd 7 51 16 0), (2, 0x82EE80B8, .sth 14 58 23 0), (2, 0x90608700, .dup 6 2 7),
    (2, 0x91D24000, .drop 13 9), (2, 0x92541590, .tnew 5 16 21 18), (2, 0x93C5E990, .tdesc 12 23 20 25), (2, 0x9447B610, .tget 4 30 27 1),
    (2, 0x95B94680, .tset 11 37 3 8), (2, 0x963B14F0, .tsetv 3 44 10 15), (2, 0x97ACC088, .tseal 10 51 17), (2, 0x982E8000, .topen 2 58),
    (2, 0x9990BE00, .tmove 9 2 31), (2, 0x9A124E00, .tuniq 1 9 7), (2, 0x9B841D30, .kvfind 8 16 14 19), (2, 0xA0F042A0, .spload 15 16 21),
    (2, 0xA17BF040, .spinv 7 23 28 2), (2, 0xA2EF1000, .quiesce 14 30 4), (2, 0xA3601960, .ctxsave 6 6 11), (2, 0xA4D03640, .ctxload 13 13 18),
    (2, 0xA5500000, .rejoin 5)] : List (Nat × BitVec 32 × Instr)).all (fun e => reads e.1 0 e.2.1 e.2.2) = true := by decide +kernel

theorem test_decode_Matrix : ([
    (3, 0xB0C000D8, .mfmt 12 27), (3, 0xB1424E68, .mma 4 9 14 13), (3, 0xB2B415A0, .mmac 11 16 21 20), (3, 0xB335DCD8, .gmma 3 23 28 27 0),
    (3, 0xB3A7A319, .gmmaMc 10 30 35 3 0)] : List (Nat × BitVec 32 × Instr)).all (fun e => reads e.1 0 e.2.1 e.2.2) = true := by decide +kernel

theorem test_decode_VectorFloat : ([
    (3, 0xC02F9541, .vaddVv 2 31 5 10 1 false), (3, 0xC093B226, .vaddVs 9 7 12 17 2 false), (3, 0xC1174F03, .vsubVv 1 14 19 24 3 false),
    (3, 0xC18AEBE5, .vsubVs 8 21 26 31 1 false), (3, 0xC2FE08E2, .vmulVv 15 28 2 7 2 false), (3, 0xC27225C7, .vmulVs 7 4 9 14 3 false),
    (3, 0xC3E5C2A1, .vfmaVv 14 11 16 21 1 false), (3, 0xC3695F86, .vfmaVs 6 18 23 28 2 false), (3, 0xC3DCF88B, .vfmaVn 13 25 30 4 3 false),
    (3, 0xC4509960, .vmaxVv 5 1 6 11 false), (3, 0xC4C43641, .vmaxVs 12 8 13 18 false), (3, 0xC547D320, .vminVv 4 15 20 25 false),
    (3, 0xC5BB6C21, .vminVs 11 22 27 1 false), (3, 0xC63E8C00, .vabs 3 29 3 false), (3, 0xC7A2A800, .vneg 10 5 10 false),
    (3, 0xC82646C0, .vclmpVs 2 12 17 22 false), (3, 0xC899E3A1, .vclmpVv 9 19 24 29 false), (3, 0xC91D7C01, .vcvt 1 26 31 1 false false),
    (3, 0xCA811D81, .vcvtS 8 2 7 12 1 false false), (3, 0xCBF4B800, .vexp 15 9 14 false), (3, 0xCB785401, .vexpB2 7 16 21 false),
    (3, 0xCCEBF000, .vrcp 14 23 28 false), (3, 0xCD6F1000, .vrsq 6 30 4 false), (3, 0xCED32C00, .vsumF 13 6 11 false),
    (3, 0xCE56C801, .vsumI 5 13 18 false)] : List (Nat × BitVec 32 × Instr)).all (fun e => reads e.1 0 e.2.1 e.2.2) = true := by decide +kernel

theorem test_decode_VectorOther : ([
    (3, 0xCFCA6400, .vrmax 12 20 25 false), (3, 0xD04D84C0, .vsel 4 27 1 6 false), (3, 0xD1B1A1A0, .vcmpEqVv 11 3 8 13 false),
    (3, 0xD1353E81, .vcmpEqVs 3 10 15 20 false), (3, 0xD1A8DB62, .vcmpNeVv 10 17 22 27 false), (3, 0xD12C7463, .vcmpNeVs 2 24 29 3 false),
    (3, 0xD19F9544, .vcmpLtVv 9 31 5 10 false), (3, 0xD113B225, .vcmpLtVs 1 7 12 17 false), (3, 0xD1874F06, .vcmpLeVv 8 14 19 24 false),
    (3, 0xD1FAEBE7, .vcmpLeVs 15 21 26 31 false), (3, 0xD17E08E8, .vcmpGtVv 7 28 2 7 false), (3, 0xD1E225C9, .vcmpGtVs 14 4 9 14 false),
    (3, 0xD165C2AA, .vcmpGeVv 6 11 16 21 false), (3, 0xD1D95F8B, .vcmpGeVs 13 18 23 28 false), (3, 0xD25CF880, .vtopkMax 5 25 30 4 false),
    (3, 0xD2C09961, .vtopkMin 12 1 6 11 false), (3, 0xD3443640, .vgath 4 8 13 18 false), (3, 0xD4B7D320, .vscat 11 15 20 25 false),
    (3, 0xD53B6C20, .viota 3 22 27 1 false), (3, 0xD6AE8C00, .vfill 10 29 3 false), (3, 0xD722A9E0, .vbfly 2 5 10 15 false),
    (3, 0xD79646C1, .vbflyCj 9 12 17 22 false), (3, 0xD819E3A0, .vtwid 1 19 24 29 false), (3, 0xD98D7CA1, .vcmul 8 26 31 5 1 false),
    (3, 0xD9F11D86, .vcmulCj 15 2 7 12 2 false)] : List (Nat × BitVec 32 × Instr)).all (fun e => reads e.1 0 e.2.1 e.2.2) = true := by decide +kernel

theorem test_decode_VectorInteger : ([
    (3, 0xDA74BA60, .viaddVv 7 9 14 19 false), (3, 0xDAE85741, .viaddVs 14 16 21 26 false), (3, 0xDA6BF042, .viaddVvSat 6 23 28 2 false),
    (3, 0xDADF1123, .viaddVsSat 13 30 4 9 false), (3, 0xDB532E00, .vimulVv 5 6 11 16 false), (3, 0xDBC6CAE1, .vimulVs 12 13 18 23 false),
    (3, 0xDC4A67C0, .vandVv 4 20 25 30 false), (3, 0xDCBD84C1, .vandVs 11 27 1 6 false), (3, 0xDD31A1A0, .vorVv 3 3 8 13 false),
    (3, 0xDDA53E81, .vorVs 10 10 15 20 false), (3, 0xDE28DB60, .vxorVv 2 17 22 27 false), (3, 0xDE9C7461, .vxorVs 9 24 29 3 false),
    (3, 0xDF1F9540, .vshlVv 1 31 5 10 false), (3, 0xDF83B221, .vshlVs 8 7 12 17 false), (3, 0xE0F74F00, .vshrVv 15 14 19 24 false),
    (3, 0xE07AEBE1, .vshrVs 7 21 26 31 false), (3, 0xE0EE08E2, .vshrArVv 14 28 2 7 false), (3, 0xE06225C3, .vshrArVs 6 4 9 14 false),
    (3, 0xE1D58000, .vflg 13 11 false), (3, 0xE1590001, .vflgClr 5 18 false), (3, 0xE2CCF880, .vmaskw 12 25 30 4 false)] : List (Nat × BitVec 32 × Instr)).all (fun e => reads e.1 0 e.2.1 e.2.2) = true := by decide +kernel

theorem test_decode_Copy : ([
    (3, 0xE8409960, .cpyLl 4 1 6 11), (3, 0xE8B43641, .cpyLv 11 8 13 18), (3, 0xE837D322, .cpyLn 3 15 20 25 0),
    (3, 0xE8AB6C23, .cpyVl 10 22 27 1), (3, 0xE82E8D04, .cpyVv 2 29 3 8), (3, 0xE892A9E5, .cpyVn 9 5 10 15 0),
    (3, 0xE81646C6, .cpyHl 1 12 17 22 0), (3, 0xE889E3A7, .cpyHv 8 19 24 29 0), (3, 0xE8FD7CA8, .cpyHn 15 26 31 5 0),
    (3, 0xE9711D80, .cpyrL 7 2 7 12), (3, 0xE9E4BA61, .cpyrV 14 9 14 19), (3, 0xE9685742, .cpyrH 6 16 21 26 0),
    (3, 0xEAD05F80, .migr 13 23 28 0)] : List (Nat × BitVec 32 × Instr)).all (fun e => reads e.1 0 e.2.1 e.2.2) = true := by decide +kernel


/-! The bits that a header lends: immediates, saturation, the quiet bit, the handle register of a copy. -/

theorem test_decode_lent_immediates :
    reads 1 0x3F 0x400090FF (.addi 0 1 4 0x7EFF) = true ∧ reads 1 0x20 0x48008001 (.movi 0 1 0x100001) = true ∧
    reads 2 0x3F 0x4702213F (.cmpiLt 0 2 2 0x1FBF) = true ∧ reads 3 0x01 0x70010C00 (.ldsD 0 2 3 0x040) = true ∧
    reads 2 0x3E 0x82004018 (.sth 0 1 3 0x3E) = true := by decide +kernel
theorem test_decode_lent_options :
    reads 3 0x10 0xC0042540 (.vaddVv 0 8 9 10 0 true) = true ∧ reads 3 0x30 0xC9021401 (.vcvt 0 4 5 1 true true) = true ∧
    reads 3 0x05 0xE80110A2 (.cpyLn 0 2 4 5 5) = true ∧ reads 3 0x09 0xEA001440 (.migr 0 5 2 9) = true := by decide +kernel

/-! Encodings that are unassigned (R107): a reserved bit, an opcode in a slot that is not its own, a predicate destination p0, lent bits that a
form does not take. -/
theorem test_decode_refuses : ([(0, 0, 0x00000001), (1, 0, 0x01000000), (0, 0, 0x17000000), (1, 0, 0x3A001060), (1, 1, 0x20010C80),
    (2, 0, 0xC0042540), (3, 0x01, 0xC0042540), (2, 0x10, 0x90014200), (1, 0, 0xC0005000), (0, 0, 0x3B000000)] : List (Nat × BitVec 6 × BitVec 32)).all (fun e => (decodeSlot e.1 e.2.1 e.2.2).toOption.isNone) = true := by decide +kernel

/-! ### Single steps, with results worked out from the spec -/

/-- A register of the context in issue after an instruction, or some other view of the state it leaves. -/
def after {α : Type} (o : Host.Outcome State Fault Refusal) (f : State → α) : Option α :=
  match o with | .next t => some (f t) | _ => none


/-- A task of launch 1 whose lease covers the first GiB, in a context with a window of 64 KiB. -/
def task1 : Task := ⟨1, [(0, 0x40000000)]⟩
def ctx0 : Ctx := { Ctx.reset with run := .running, task := some task1, asid := 1, lslen := 16, pc := 0x200100 }

/-- Frames of address space 1: mortar memory and code in near memory of die 0, the hub control space; a REMOTE window to package 5. -/
def data0 : Slot := ⟨.mortar, 1, 0, 0⟩
def spans1 : Tab Span :=
  [(0, ⟨true, .localWin, 0, 1, [(0, data0), (1, ⟨.code, 1, 0, 1⟩), (3, ⟨.mortar, 0, 0, 262143⟩)]⟩), (1, ⟨true, .remote, 5, 1, [(0, data0)]⟩)]

/-- The first line of the mortar frame, and its physical address. -/
def pa0 : Nat := mkPa 1 0 0 0
def line0 : Nat := pa0 / 128

/-- Context 0 of core 0 issues in slot 2; its L1 holds the first line of the mortar frame in M. -/
def core0 : Core := { Core.reset with ctxs := [(0, ctx0), (3, Ctx.boot)], l1 := [(line0, L1Line.new .M)] }
def base : State := { State.reset with
  cores := [(0, core0)], spans := spans1, population := [(5, true)], partition := [(5, true)], iss := { Issue.reset with ctx := 0, slot := 2 } }

/-- The same with operands latched. -/
def withA (s : State) (l : Tab Word) : State := { s with iss := { s.iss with regs := { s.iss.regs with a := l } } }
def withB (s : State) (l : Tab Word) : State := { s with iss := { s.iss with regs := { s.iss.regs with b := l } } }
def withH (s : State) (l : Tab Handle) : State := { s with iss := { s.iss with regs := { s.iss.regs with h := l } } }
def withP (s : State) (l : Tab Bool) : State := { s with iss := { s.iss with regs := { s.iss.regs with p := l } } }
def withQ (s : State) (l : Tab (BitVec 16)) : State := { s with iss := { s.iss with regs := { s.iss.regs with q := l } } }
def inSlot (s : State) (n : Nat) : State := { s with iss := { s.iss with slot := n } }

/-- The firmware context of core 0 issues. -/
def firm : State := { base with
  cores := [(0, { core0 with ctxs := [(0, ctx0), (3, { Ctx.boot with asid := 1, lslen := 1, lsbase := 16 })] })], iss := { base.iss with ctx := 3 } }

def a1 (t : State) : Word := t.me.regs.a.get 0 1
def b1 (t : State) : Word := t.me.regs.b.get 0 1

/-! Integer forms, on the a file in slot 1: the operands are a2 and a3, the destination is a1. -/
def two (x y : Word) : State := withA (inSlot base 1) [(2, x), (3, y)]

theorem test_add_wraps : after (exec (.add 0 1 2 3) (two 0xFFFFFFFFFFFFFFFF 2)) a1 = some 1 := by decide +kernel
theorem test_addW_sign : after (exec (.addW 0 1 2 3) (two 0x7FFFFFFF 1)) a1 = some 0xFFFFFFFF80000000 := by decide +kernel
theorem test_subW_high_bits_ignored : after (exec (.subW 0 1 2 3) (two 0x500000003 4)) a1 = some 0xFFFFFFFFFFFFFFFF := by decide +kernel
theorem test_mulh : after (exec (.mulh 0 1 2 3) (two 0xFFFFFFFFFFFFFFFF 2)) a1 = some 0xFFFFFFFFFFFFFFFF := by decide +kernel
theorem test_mulhu : after (exec (.mulhu 0 1 2 3) (two 0xFFFFFFFFFFFFFFFF 2)) a1 = some 1 := by decide +kernel
theorem test_div_truncates : after (exec (.div 0 1 2 3) (two (-7) 2)) a1 = some (-3) := by decide +kernel
theorem test_div_overflow : after (exec (.div 0 1 2 3) (two 0x8000000000000000 (-1))) a1 = some 0x8000000000000000 := by decide +kernel
theorem test_divuW_by_zero : after (exec (.divuW 0 1 2 3) (two 5 0)) a1 = some 0xFFFFFFFFFFFFFFFF := by decide +kernel
theorem test_rem_sign : after (exec (.rem 0 1 2 3) (two (-7) 2)) a1 = some (-1) := by decide +kernel
theorem test_remW_by_zero : after (exec (.remW 0 1 2 3) (two 0x80000001 0)) a1 = some 0xFFFFFFFF80000001 := by decide +kernel
theorem test_shl_count : after (exec (.shl 0 1 2 3) (two 1 65)) a1 = some 2 := by decide +kernel
theorem test_sraW : after (exec (.sraW 0 1 2 3) (two 0x80000000 36)) a1 = some 0xFFFFFFFFF8000000 := by decide +kernel
theorem test_rotrW : after (exec (.rotrW 0 1 2 3) (two 1 1)) a1 = some 0xFFFFFFFF80000000 := by decide +kernel
theorem test_clz_zero : after (exec (.clz 0 1 2) (two 0 0)) a1 = some 64 := by decide +kernel
theorem test_minu : after (exec (.minu 0 1 2 3) (two (-1) 1)) a1 = some 1 := by decide +kernel
theorem test_movhi : after (exec (.movhi 0 2 5) (two 3 0)) (fun t => t.me.regs.a.get 0 2) = some 0x600005 := by decide +kernel
theorem test_addi_negative : after (exec (.addi 0 1 2 0x7FFF) (two 0 0)) a1 = some (-1) := by decide +kernel
theorem test_cmpi_ltu_sign_extends : after (exec (.cmpiLtu 0 1 2 0x1FFF) (two 5 0)) (fun t => t.me.regs.p.get false 1) = some true := by
  decide +kernel
theorem test_write_to_a0 : after (exec (.movi 0 0 5) base) (fun t => t) = some base := by decide +kernel
theorem test_b_cluster : after (exec (.add 0 1 2 3) (withB base [(2, 4), (3, 5)])) (fun t => (a1 t, b1 t)) = some (0, 9) := by decide +kernel
theorem test_guard_off : after (exec (.movi 1 1 5) base) (fun t => t) = some base := by decide +kernel
theorem test_xbaH : after (exec (.xbaH 0 1 2) (withH base [(2, ⟨true, 31, 0x1000005⟩)])) a1 = some 0xC0001F0001000005 := by decide +kernel

/-! Scalar floating point: 1 + 2 = 3; 1 / 3 rounds up; the square root of 2; 2.5 to an integer, ties to even. -/
theorem test_fadd : after (exec (.fadd 0 1 2 3 0) (two 0x3F800000 0x40000000)) (fun t => (a1 t, t.me.lateFlags.map (·.1))) = some (0x40400000, [0]) := by
  decide +kernel
theorem test_fdiv : after (exec (.fdiv 0 1 2 3 0) (two 0x3F800000 0x40400000)) (fun t => (a1 t, t.me.lateFlags.map (·.1))) = some (0x3EAAAAAB, [1]) := by
  decide +kernel
theorem test_fsqrt : after (exec (.fsqrt 0 1 2 0) (two 0x40000000 0)) a1 = some 0x3FB504F3 := by decide +kernel
theorem test_fcvtS64F32 : after (exec (.fcvtS64F32 0 1 2 0 false) (two 0x40200000 0)) (fun t => (a1 t, t.me.lateFlags.map (·.1))) = some (2, [1]) := by
  decide +kernel
theorem test_fmin_nan : after (exec (.fmin 0 1 2 3) (two 0x7FC00000 0xBF800000)) (fun t => (a1 t, t.me.lateFlags.map (·.1))) = some (0xBF800000, [0]) := by
  decide +kernel

/-! Control: a branch stays in its block of 16 MiB; a wait takes; an increment saturates; a software trap enters the handler. -/
def atPc (pc : Word) (f : Ctx → Ctx) : State := base.modMe fun x => f { x with pc := pc }

theorem test_br_wraps : after (exec (.br 0 1) (atPc 0x1FFFFF0 id)) (fun t => t.iss.target) = some (some 0x1000000) := by decide +kernel
theorem test_call_links : after (exec (.call 0 0xFFFFF) (atPc 0x200100 id)) (fun t => (t.iss.target, t.me.regs.a.get 0 31))
    = some (some 0x2000F0, 0x200110) := by decide +kernel
theorem test_loop_pushes : after (exec (.loop 0 1 3 2) base) (fun t => t.me.loops.map fun l => (l.head, l.last, l.n, l.mask))
    = some [(0x200110, 0x200120, 2, 1)] := by decide +kernel
theorem test_wait_takes : after (exec (.waitTake 0 3 0 2) (withQ base [(3, 5)])) (fun t => t.me.regs.q.get 0 3) = some 3 := by decide +kernel
theorem test_post_saturates : after (exec (.postInc 0 3 0 2) (withQ base [(3, 0xFFFE)])) (fun t => t.me.regs.q.get 0 3) = some 0xFFFF := by
  decide +kernel
/-- SW_TRAP has code 0x08; the record stands at 64 times the field of SR_TVEC; ERET would return after the bundle (R320). -/
theorem test_trap_enters_handler :
    after (exec (.trap 0 7) (inSlot (atPc 0x200100 fun x => { x with tvecRec := 2, tvecHandler := 0x20020 }) 0))
      (fun t => (t.me.handler, t.me.pc, t.myCore.lsRead 128 8, t.myCore.lsRead 136 8, t.myCore.lsRead 144 8))
    = some (true, 0x200200, 0x70008, 0x200110, 0x200100) := by decide +kernel
theorem test_eret_outside_handler : after (exec (.eret 0) base) (fun t => t.iss.trap.map (·.cause)) = some (some .privOp) := by decide +kernel
theorem test_wrsr_fflags : after (exec (.wrsr 0 2 8) (two 0xFF 0)) (fun t => t.me.fflags) = some 0x1F := by decide +kernel
theorem test_rdsr_leasemax : after (exec (.rdsr 0 1 0x030) base) a1 = some 0x200 := by decide +kernel

/-! Memory: a signed load, a full bit, a store and its state, a compare-and-swap that fails, a handle word. -/
def lsState (k : Core → Core) (b : Tab Word) : State :=
  let s := withB (base.modCore 0 k) b
  { s with iss := { s.iss with ls := s.myCore.ls, tags := s.myCore.lsTags, full := s.myCore.full } }

theorem test_lds_w_signed : after (exec (.ldsW 0 1 2 1) (lsState (fun k => k.lsWrite 0x14 4 0x80000001) [(2, 0x10)])) b1
    = some 0xFFFFFFFF80000001 := by decide +kernel
theorem test_lds_fc_empties : after (exec (.ldsFc 0 1 2 0) (lsState (fun k => (k.lsWrite 0x20 8 9).setFull 0x20 true) [(2, 0x20)]))
    (fun t => (b1 t, t.myCore.isFull 0x20)) = some (9, false) := by decide +kernel
theorem test_sts_misaligned : after (exec (.stsD 0 1 2 0) (lsState id [(2, 0x14)])) (fun t => t.iss.trap.map fun i => (i.cause, i.addr))
    = some (some (.misalign, 0x14)) := by decide +kernel
theorem test_sts_above_window : after (exec (.stsB 0 1 2 0) (lsState id [(2, 0x10000)])) (fun t => t.iss.trap.map fun i => (i.cause, i.addr))
    = some (some (.spanMiss, 0x10000)) := by decide +kernel
theorem test_stm_h : after (exec (.stmH 0 1 2 3) (withB base [(1, 0xABCD), (2, 0x10)]))
    (fun t => (t.byte (pa0 + 0x16), t.byte (pa0 + 0x17), t.byte (pa0 + 0x18))) = some (0xCD, 0xAB, 0) := by decide +kernel
theorem test_ldm_below_zero : after (exec (.ldmBu 0 1 2 0xFFF) (withB (base.writeNat pa0 2 0x8180) [(2, 0)])) (fun t => t.iss.trap.map (·.cause))
    = some (some .spanMiss) := by decide +kernel
theorem test_ldm_b : after (exec (.ldmB 0 1 2 1) (withB (base.writeNat pa0 2 0x8180) [(2, 0)])) b1 = some 0xFFFFFFFFFFFFFF81 := by decide +kernel
theorem test_cas_fails : after (exec (.atomCasW 0 1 2 3) (withB (base.writeNat pa0 4 7) [(1, 8), (2, 0), (3, 9)]))
    (fun t => (b1 t, t.readNat pa0 4)) = some (7, 7) := by decide +kernel
theorem test_cas_succeeds : after (exec (.atomCasW 0 1 2 3) (withB (base.writeNat pa0 4 7) [(1, 7), (2, 0), (3, 9)]))
    (fun t => (b1 t, t.readNat pa0 4)) = some (7, 9) := by decide +kernel
theorem test_atom_max_signed : after (exec (.atomMaxW 0 1 2 3) (withB (base.writeNat pa0 4 7) [(2, 0), (3, 0x80000000)]))
    (fun t => (b1 t, t.readNat pa0 4)) = some (7, 7) := by decide +kernel
theorem test_ldh_moves : after (exec (.ldh 0 3 2 1) (withB (base.writeHandle (pa0 + 8) ⟨true, 4, 9⟩) [(2, 0)]))
    (fun t => (t.me.regs.h.look 3, t.tag (pa0 + 8), t.readNat (pa0 + 8) 8)) = some (some ⟨true, 4, 9⟩, false, 0) := by decide +kernel
theorem test_stm_over_handle : after (exec (.stmD 0 1 2 1) (withB (base.writeHandle (pa0 + 8) ⟨true, 4, 9⟩) [(2, 0)]))
    (fun t => t.iss.trap.map (·.cause)) = some (some .handleClobber) := by decide +kernel

/-! Tiles and engines. -/
theorem test_dup_halves : after (exec (.dup 0 3 2) (withH base [(2, ⟨true, 31, 0x1000005⟩)])) (fun t => (t.me.regs.h.look 3, t.me.regs.h.look 2))
    = some (some ⟨false, 30, 0x1000005⟩, some ⟨false, 30, 0x1000005⟩) := by decide +kernel
theorem test_drop_queues : after (exec (.drop 0 2) (withH base [(2, ⟨false, 3, 5⟩)])) (fun t => (t.me.regs.h.look 2, t.me.drops.map fun d => (d.tile, d.e)))
    = some (none, [(5, 3)]) := by decide +kernel
theorem test_tnew_reserved_bit : after (exec (.tnew 0 1 0 2) (withB base [(2, 0x0100000000000001)])) (fun t => t.iss.trap.map (·.cause))
    = some (some .tileShape) := by decide +kernel
theorem test_mfmt : after (exec (.mfmt 0 2) (withB base [(2, 0x00140014)])) (fun t => t.me.pair) = some (some (0x14, 0x14)) := by decide +kernel
/-- An FP32 region of four elements 4 bytes apart at offset 0x100; VADD queues one command. -/
def region4 (base' : Nat) : Word := BitVec.ofNat 64 (1 * 2 ^ 52 + 4 * 2 ^ 36 + 4 * 2 ^ 20 + base')
theorem test_vadd_queues : after (exec (.vaddVv 0 1 2 3 0 false) (withB base [(1, region4 0x100), (2, region4 0x200), (3, region4 0x300)]))
    (fun t => (t.myCore.cmds.length, t.me.cmdNo)) = some (1, 1) := by decide +kernel
theorem test_vadd_partial_overlap : after (exec (.vaddVv 0 1 2 3 0 false) (withB base [(1, region4 0x100), (2, region4 0x104), (3, region4 0x300)]))
    (fun t => t.iss.trap.map (·.cause)) = some (some .regionOverlap) := by decide +kernel

/-! Events. -/
theorem test_stall_elapses : after (exec (.stallCountElapse 0 0) ({ base with cycle := 9 }.modCtx 0 0 fun x => { x with readyAt := 9 }))
    (fun t => (t.ctx 0 0).readyAt) = some 0 := by decide +kernel
theorem test_doorbell_moves_tail : after (exec (.doorbell 0x1018 5) { base with slots := [(3, ⟨0, true, 4, 1, 0, 0⟩)] }) (fun t => (t.slots.look 3).map (·.tail)) = some (some 5) := by decide +kernel
theorem test_gets_of_unlisted_line : after (exec (.gets 7 line0 false) base) (fun t => (t.dir.look line0, t.agenda))
    = some (some (.EM 7), [.data ⟨257, 7, false⟩ line0 ⟨0, 0⟩ true]) := by decide +kernel
/-- An entry of the admin ring, and the bytes of it that are not zero: opcode, identifier 7, buffer, length, parameters (R332). -/
def adminEntry (opcode : Byte) (buf len : Nat) (more : Tab Byte) : State := { base with
  adminBase := 0x1000, adminTail := 1
  hostMem := [(0x1000, opcode), (0x1002, 7), (0x1008, BitVec.ofNat 8 buf), (0x1009, BitVec.ofNat 8 (buf / 256)),
    (0x1010, BitVec.ofNat 8 len), (0x1011, BitVec.ofNat 8 (len / 256))] ++ more }
theorem test_features_refuses_unoffered :
    after (exec (.features 0x20) (adminEntry 1 0 0 [(0x1014, 0x20)])) (fun t => (t.accepted, t.completions.map fun k => (k.id, k.status)))
    = some (none, [(7, 1)]) := by decide +kernel

/-- The first step after reset with a word placed: MOVI a1, 5; the pc has moved on by one bundle. -/
theorem test_first_step_runs_word : after (step (State.reset.withFetchWord 32 0x48008005)) (fun t => ((t.ctx 0 3).regs.a.get 0 1, (t.ctx 0 3).pc))
    = some (5, 16) := by decide +kernel


/-! ### Witnesses: states and operands that meet the hypotheses of each statement -/

/-- The value of an operation that does not stop, as a check that evaluates. -/
def okIs {ε α : Type} [DecidableEq α] (e : Except ε α) (a : α) : Bool := match e with | .ok b => decide (b = a) | .error _ => false
theorem okIs_eq {ε α : Type} [DecidableEq α] {e : Except ε α} {a : α} (h : okIs e a = true) : e = .ok a := by
  cases e with
  | ok b => simp only [okIs, decide_eq_true_eq] at h; rw [h]
  | error b => simp [okIs] at h
def errIs {ε α : Type} [DecidableEq ε] (e : Except ε α) (c : ε) : Bool := match e with | .ok _ => false | .error d => decide (d = c)
theorem errIs_eq {ε α : Type} [DecidableEq ε] {e : Except ε α} {c : ε} (h : errIs e c = true) : e = .error c := by
  cases e with
  | ok b => simp [errIs] at h
  | error b => simp only [errIs, decide_eq_true_eq] at h; rw [h]

def reachesB (z : State) (acc : Access) (ea : Word) (size pa : Nat) (f : FrameEntry) : Bool :=
  ea.toNat % size == 0 && isHubSpace pa == false &&
    match z.translate z.iss.core z.iss.ctx acc ea.toNat with | .ok (x, g) => x.mode == .localWin && x.pa == pa && g == f | .error _ => false
theorem reachesB_eq {z : State} {acc : Access} {ea : Word} {size pa : Nat} {f : FrameEntry} (h : reachesB z acc ea size pa f = true) :
    Reaches z acc ea size pa f := by
  unfold reachesB at h
  split at h
  · rename_i x g e
    simp only [Bool.and_eq_true, beq_iff_eq] at h
    exact ⟨h.1.1, ⟨x, by rw [e, h.2.2], h.2.1.1, h.2.1.2⟩, h.1.2⟩
  · simp at h

def writableB (z : State) (pa : Nat) (l : L1Line) : Bool :=
  z.leasedByOther z.iss.core z.iss.ctx (lineOf pa) == false && z.l1 z.iss.core (lineOf pa) == some l && (l.state == .M || l.state == .E) &&
    match z.innermost (lineOf pa) with | none => true | some e => decide (e.2.gen.toNat ≤ l.sg.toNat)
theorem writableB_eq {z : State} {pa : Nat} {l : L1Line} (h : writableB z pa l = true) : mayWrite z pa := by
  simp only [writableB, Bool.and_eq_true, Bool.or_eq_true, beq_iff_eq] at h
  refine ⟨h.1.1.1, l, h.1.1.2, h.1.2, fun e he => ?_⟩
  have := h.2
  rw [he] at this
  simpa using this

def readableB (z : State) (pa : Nat) (l : L1Line) : Bool :=
  z.leasedByOther z.iss.core z.iss.ctx (lineOf pa) == false && z.l1 z.iss.core (lineOf pa) == some l &&
    (l.state == .M || l.state == .E || l.state == .S)
theorem readableB_eq {z : State} {pa : Nat} {l : L1Line} (h : readableB z pa l = true) : readable z pa := by
  simp only [readableB, Bool.and_eq_true, Bool.or_eq_true, beq_iff_eq] at h
  exact ⟨h.1.1, l, h.1.2, by simpa [or_assoc] using h.2⟩

/-- The translations of the mortar frame, of the hub control space and of the REMOTE window. -/
def f0 : FrameEntry := ⟨1, 0, 0, .localWin, 0, data0⟩
def fHub : FrameEntry := ⟨1, 0, 3, .localWin, 0, ⟨.mortar, 0, 0, 262143⟩⟩
def fFar : FrameEntry := ⟨1, 1, 0, .remote, 5, data0⟩
def xHub : Xlat := ⟨.localWin, 0, .mortar, mkPa 0 0 262143 0x100⟩
def xFar : Xlat := ⟨.remote, 5, .mortar, pa0⟩
def vaHub : Word := 0x600100
def vaFar : Word := 0x10000000

/-! Control -/

theorem witness_HeaderResults : base.opQ 1 = 0 ∧ (withQ base [(1, 1)]).opQ 1 ≠ 0 := by decide +kernel

/-- A loop whose body ends at the bundle in issue. -/
def looping (n : BitVec 32) (mask : BitVec 8) (drain : Bool) : State := base.modMe fun x => { x with loops := [⟨0x200100, 0x200100, 0, n, mask, drain⟩] }

theorem witness_BranchResults :
    (withA base [(1, 0x200000), (2, 8)]).opP 0 = true ∧ base.me.atLoopEnd = false ∧ (looping 1 1 false).me.atLoopEnd = true ∧
    (withA base [(1, 0x200000), (2, 8)]).opA 1 &&& 15 = 0 ∧ (withA base [(1, 0x200000), (2, 8)]).opA 2 &&& 15 ≠ 0 := by decide +kernel

/-- An outer loop, a full stack, and counts at their bounds. -/
def nested (last : Word) (depth : Nat) : State := base.modMe fun x => { x with loops := List.replicate depth ⟨0x200000, last, 0, 5, 1, false⟩ }
theorem witness_LoopForms :
    (∀ l ∈ (nested 0x200110 1).me.loops.head?, (0x200100 + 16 * (1 : BitVec 7).setWidth 64 : Word).toNat ≤ l.last.toNat) ∧
    (nested 0x200110 3).me.loops.length < 4 ∧ (1 : BitVec 7) ≠ 0 ∧ 0 < ((1 : BitVec 10).setWidth 64 : Word).toNat ∧
    (withA base [(1, 0xFFFFFFFF)]).opA 1 ≠ 0 ∧ ((withA base [(1, 0xFFFFFFFF)]).opA 1).toNat < 2 ^ 32 ∧
    base.opA 2 = 0 ∧ 2 ^ 32 ≤ ((withA base [(1, 0x100000000)]).opA 1).toNat ∧ 4 ≤ (nested 0x200110 4).me.loops.length ∧
    ((nested 0x200100 1).me.loops.head?.map fun l => decide (l.last.toNat < (0x200110 : Word).toNat)) = some true ∧ base.me.loops = [] := by
  decide +kernel

/-- Passes that start, that end a draining loop at its head, and that leave the loop; a loop of three iterations and two stages. -/
theorem witness_PassBegins :
    (looping 1 0 false).me.loops ≠ [] ∧ (0 * 2 + 1) % 2 ^ ((0 : BitVec 3).toNat + 1) ≠ 0 ∧
    ((looping 1 0 true).me.loops.map fun l => (l.drain, (l.mask.toNat * 2 + 0) % 2 ^ (l.stg.toNat + 1))) = [(true, 0)] ∧
    ((looping 0 0 false).me.loops.map fun l => (l.n.toNat, (l.mask.toNat * 2 + 0) % 2 ^ (l.stg.toNat + 1))) = [(0, 0)] ∧
    ({ ctx0 with loops := [⟨0x200110, 0x200120, 1, 3, 0, false⟩] } : Ctx).loops = [⟨0x200110, 0x200120, 1, 3, 0, false⟩] ∧
    0 < (3 : BitVec 32).toNat ∧ 3 < (3 : BitVec 32).toNat + (1 : BitVec 3).toNat := by decide +kernel

theorem witness_FlagsStopAndYield :
    (base.modMe fun x => { x with handler := true }).me.handler = true ∧ base.me.handler = false ∧ base.me.atLoopEnd = false ∧
    base.cmdsOf base.iss.core base.iss.ctx = [] ∧ base.me.drops = [] ∧ base.me.accessing = false ∧ base.me.rposts = [] ∧
    (base.modMe fun x => { x with rposts := [5] }).me.rposts ≠ [] ∧ (looping 1 1 false).me.atLoopEnd = true ∧
    ((withA (withQ base [(1, 65535)]) [(1, 65280)]).opA 1 + (255 : BitVec 8).setWidth 64 : Word).toNat = (withQ base [(1, 65535)]).opQ 1 ∧
    (base.opA 0 + (1 : BitVec 8).setWidth 64 : Word).toNat ≤ 65535 ∧ base.opQ 1 < (base.opA 0 + (1 : BitVec 8).setWidth 64 : Word).toNat ∧
    65535 < ((withA base [(1, 65281)]).opA 1 + (255 : BitVec 8).setWidth 64 : Word).toNat ∧
    base.peerAbsent (bits ((withA base [(1, 0x5000000)]).opA 1) 24 14) = false ∧ base.peerAllowed 5 = true ∧
    base.peerAbsent 4 = true ∧ ({ base with population := [(4, true)] } : State).peerAllowed 4 = false ∧
    (base.modMe fun x => { x with rposts := [1, 2, 3, 4, 5, 6, 7] }).me.rposts.length < 8 ∧
    5 * 1024 ∉ (base.modMe fun x => { x with rposts := [1, 2, 3, 4, 5, 6, 7] }).me.rposts ∧
    8 ≤ (base.modMe fun x => { x with rposts := [1, 2, 3, 4, 5, 6, 7, 8] }).me.rposts.length := by decide +kernel

/-! Integer forms, moves, scalar floating point: any guard that reads 1. -/

theorem witness_IntegerDivision : base.opP 0 = true ∧ (withP base [(7, true)]).opP 7 = true ∧ base.opP 7 = false := by decide +kernel
theorem witness_IntegerArithmeticAndShifts : (two 1 2).opP 0 = true ∧ ({ base with iss := { base.iss with mask := 0x80 } } : State).opP 15 = true := by
  decide +kernel
theorem witness_ImmediateResults : base.opP 0 = true := by decide +kernel
theorem witness_CompareResults : base.opP 0 = true := by decide +kernel
theorem witness_FloatArithmetic : base.opP 0 = true := by decide +kernel
theorem witness_FloatConversions : base.opP 0 = true := by decide +kernel

theorem witness_SelectMoveAndBarrierForms :
    (base.barrier 0 3).gen ≠ (base.modMe fun x => { x with barGen := [(3, true)] }).me.barGen.get false 3 ∧
    srKnown (0x028 : BitVec 12).toNat = true ∧ base.gmmaPending = false ∧ srKnown (0x051 : BitVec 12).toNat = true ∧ srKnown (0x00B : BitVec 12).toNat = false ∧
    srAny (0x029 : BitVec 12).toNat = true ∧ srFirmware (0x030 : BitVec 12).toNat = true ∧ firm.isFirmware firm.iss.core firm.iss.ctx = true ∧
    srAny (0x030 : BitVec 12).toNat = false ∧ base.isFirmware base.iss.core base.iss.ctx = false ∧ srFirmware (0x001 : BitVec 12).toNat = false ∧
    base.opP 1 = false ∧ (withP base [(1, true)]).opP 1 = true ∧ base.opH 5 = none ∧
    (withH base [(5, ⟨true, 31, 7⟩)]).opH 5 = some ⟨true, 31, 7⟩ := by decide +kernel

theorem witness_FloatSpecialCasesAndChoices :
    nan32 0x7F800001 = true ∧ signalling32 0x7F800001 = true ∧ signalling32 0x7FC00000 = false ∧ nan32 0x7F800000 = false ∧
    (finite32 0x7F7FFFFF = true ∧ zero32 0x7F7FFFFF = false ∧ zero32 0x80000000 = true) ∧ (zero32 0 = true ∧ zero32 0x80000000 = true) ∧
    ((0x80000000 : BitVec 32).getLsbD 31 = true) ∧ ((0x80000001 : BitVec 32).getLsbD 31 = true ∧ zero32 0x80000001 = false ∧ nan32 0x80000001 = false) ∧
    ((0xFF800000 : BitVec 32).getLsbD 31 = true ∧ zero32 0xFF800000 = false ∧ nan32 0xFF800000 = false) := by decide +kernel

/-- FP32, its largest number; E4M3 as a programmable format, with its largest code that is a number. -/
theorem witness_FormatsHoldTheirNumbers :
    elemOf 0x0001 = some (.float fp32) ∧ 0x7F7FFFFF < 2 ^ (1 + fp32.ebits + fp32.mbits) ∧ (fp32.decode 0x7F7FFFFF).isNan = false ∧
    (match elemOf 0x91A7 with | some (.float f) => decide (0x7E < 2 ^ (1 + f.ebits + f.mbits)) && !(f.decode 0x7E).isNan | _ => false) = true := by
  decide +kernel

theorem witness_RegisterFrames :
    (31 : BitVec 5) ≠ 0 ∧ (7 : BitVec 3) ≠ 0 ∧ (inSlot base 1).iss.slot < 2 ∧ 2 ≤ base.iss.slot ∧ (Instr.fdiv 0 1 2 3 0).isRegisterForm = true ∧
    (Instr.fdiv 0 1 2 3 0).isFloatForm = true := by decide +kernel

/-! The local store -/

/-- A VFILL of an earlier bundle that writes 16 bytes from 0x100 of the window. -/
def fillRegion : Region := ⟨0, 0x100, 4, 4, 1, .float fp32, false, false⟩
def fillCmd : VCmd := ⟨.fill, 0, false, false, fillRegion, none, none, 5, 0⟩
def cmdOf (eng : Option Engine) (op : CmdOp) (running : Bool) : Cmd :=
  { serial := 0, ctx := 0, engine := eng, seq := 0, pc := 0x2000F0, bundle := 0, win := 0, winLen := 0x10000, op := op, running := running, progress := 0
    fetched := false, steps := 0, panel := 0, feWait := none }
def withCmd (s : State) (c : Cmd) : State := (s.modCore 0 fun k => { k with cmds := [c], nextSerial := 1 }).modCtx 0 0 fun x => { x with bundle := 1 }
def filling : State := withCmd base (cmdOf (some .vector) (.vec fillCmd) false)

theorem witness_LocalLoadsAndStores :
    (1 : Word).toNat % 2 ≠ 0 ∧ ((0x10000 : Word).toNat % 8 = 0 ∧ base.me.winLen < (0x10000 : Word).toNat + 8) ∧
    ((0xFFF8 : Word).toNat % 8 = 0 ∧ (0xFFF8 : Word).toNat + 8 ≤ base.me.winLen ∧ base.lsWaits (lsPlace base 0xFFF8) 8 true = false) ∧
    (filling.lsWaits (lsPlace filling 0x108) 8 false = true ∧ (0x108 : Word).toNat + 8 ≤ filling.me.winLen) ∧
    base.iss.full.get false (lsPlace base 0x20 / 16) = false ∧ (lsState (fun k => k.setFull 0x20 true) []).iss.full.get false (lsPlace base 0x20 / 16) = true ∧
    lsHandle (lsState (fun k => k.writeHandle 0x20 ⟨false, 0, 1⟩) []) (lsPlace base 0x20) = true ∧ lsHandle base (lsPlace base 0x20) = false := by
  decide +kernel

/-- Nothing earlier of the context is outstanding; an earlier acquire is; the context has asked nothing. -/
theorem released {z : State} (h : z.iss.acquiring = false ∧ z.iss.accessing = false) : Released z := ⟨h.1, fun _ => h.2⟩
def acquiring : State := { base with iss := { base.iss with acquiring := true } }
theorem unordered : ¬ Ordered acquiring ∧ ¬ Released acquiring := ⟨fun h => by simp [Ordered, acquiring] at h, fun h => by simp [Released, acquiring] at h⟩

theorem witness_StoreFrames :
    (Reaches base .store 0x78 8 (pa0 + 0x78) f0 ∧ Released base ∧ base.tag (pa0 + 0x78) = false ∧ mayWrite base (pa0 + 0x78)) ∧
    ((3 < 4 ∨ 4 + 2 ≤ 3) ∧ (6 < 4 ∨ 4 + 2 ≤ 6) ∧ 32 / 16 ≠ 16 / 16) ∧ ¬ ShowsOther (pa0 + 0x78) :=
  ⟨⟨reachesB_eq (by decide +kernel), released (by decide), by decide +kernel, writableB_eq (l := L1Line.new .M) (by decide +kernel)⟩, by decide,
    by unfold ShowsOther; decide +kernel⟩

theorem witness_MemoryFrame :
    isSlotForm (.movi 0 1 5) = true ∧ (Instr.movi 0 1 5).storesMemory = false ∧ exec (.movi 0 1 5) base = .next (base.wrX 1 5 1) ∧ ¬ ShowsOther pa0 :=
  ⟨by decide +kernel, by decide, rfl, by unfold ShowsOther; decide +kernel⟩

/-! Mortar memory -/

/-- The first line is absent, in another state, buffers sums, is poisoned, holds a handle, is leased by another context, lies in a snapshot
that is newer; every way of its set is taken by lines in M. -/
def noLine : State := base.modCore 0 fun k => { k with l1 := [] }
def lineIn (st : LineState) : State := base.modCore 0 fun k => { k with l1 := [(line0, L1Line.new st)] }
def uLine : L1Line := { L1Line.new .U with sums := [(0, true, 5)] }
def sumLine : State := base.modCore 0 fun k => { k with l1 := [(line0, uLine)] }
def poisonedLine : State := { base with poison := [(pa0 / 32, true)] }
def taggedLine : State := base.writeHandle pa0 ⟨false, 4, 9⟩
def leasedLine : State := base.modCtx 0 1 fun x => { x with leases := [⟨line0, .held, 5, 9⟩] }
def newer : State := { base with snaps := [(0, ⟨1, 1, 0, 0, line0, 1⟩)], snapGen := 1 }
def ways : Tab L1Line := (List.range 8).map fun i => (line0 + 64 * (i + 1), L1Line.new .M)
def fullSet : State := base.modCore 0 fun k => { k with l1 := ways }

def ownedB (z : State) (pa : Nat) (l : L1Line) : Bool :=
  z.leasedByOther z.iss.core z.iss.ctx (lineOf pa) == false && z.l1 z.iss.core (lineOf pa) == some l && (l.state == .M || l.state == .E)
theorem ownedB_eq {z : State} {pa : Nat} {l : L1Line} (h : ownedB z pa l = true) : Owned z pa := by
  simp only [ownedB, Bool.and_eq_true, Bool.or_eq_true, beq_iff_eq] at h
  exact ⟨h.1.1, l, h.1.2, h.2⟩

theorem far_eq {z : State} {acc : Access} (h : okIs (z.translate z.iss.core z.iss.ctx acc vaFar.toNat) (xFar, fFar) = true) : Far z acc vaFar 8 xFar fFar :=
  ⟨by decide +kernel, okIs_eq h, by decide⟩

/-- The waits for a line and for its shadow: each has a state. -/
theorem witness_AwaitsLine :
    ¬ Unleased leasedLine pa0 ∧ (Unleased noLine pa0 ∧ noLine.l1 0 line0 = none ∧ (kept noLine f0).roomFor 0 line0 = some (kept noLine f0)) ∧
    (kept (fullSet.modCtx 0 1 fun x => { x with leases := ways.map fun w => ⟨w.1, .held, 5, 9⟩ }) f0).roomFor 0 line0 = none ∧
    (lineIn .S).l1 0 line0 = some (L1Line.new .S) ∧ ((lineIn .IMAD).l1 0 line0 = some (L1Line.new .IMAD) ∧ (L1Line.new .IMAD).stable = false) :=
  ⟨fun h => absurd (show leasedLine.leasedByOther 0 0 line0 = false from h) (by decide +kernel),
    ⟨show noLine.leasedByOther 0 0 line0 = false by decide +kernel, by decide +kernel, by decide +kernel⟩, by decide +kernel, by decide +kernel,
    by decide +kernel, rfl⟩

theorem witness_AwaitsShadow :
    newer.innermost line0 = some (0, ⟨1, 1, 0, 0, line0, 1⟩) ∧ newer.l1 0 line0 = some (L1Line.new .M) ∧
    (L1Line.new .M).sg.toNat < (1 : BitVec 32).toNat ∧ newer.me.reply.full ≠ some line0 ∧ newer.me.shadowWait ≠ some line0 ∧
    (newer.modMe fun x => { x with shadowWait := some line0 }).me.shadowWait = some line0 ∧
    (newer.modMe fun x => { x with reply := { x.reply with full := some line0 } }).me.reply.full = some line0 := by decide +kernel

/-- The peer has not been asked, is asked, allows the access, refuses it for a handle word. -/
theorem witness_SendsFar :
    (base.me.reply.probe = none ∧ Unasked base) ∧
    (base.modMe fun x => { x with reply := { x.reply with asked := some (11, BitVec.ofNat 40 xFar.pa) } }).me.reply.asked =
      some (11, BitVec.ofNat 40 xFar.pa) ∧
    (base.modMe fun x => { x with reply := { x.reply with probe := some 2 } }).me.reply.probe = some 2 ∧
    refusalCause 2 ≠ .remoteDenied ∧ refusalCause 0 = .remoteDenied :=
  ⟨⟨rfl, rfl, rfl⟩, by decide +kernel, by decide +kernel, by decide +kernel, by decide +kernel⟩

theorem namesHub (acc : Access) (h : okIs (base.translate 0 0 acc vaHub.toNat) (xHub, fHub) = true) : NamesHub base acc vaHub 8 xHub fHub :=
  ⟨by decide +kernel, okIs_eq h, rfl, by decide +kernel⟩

theorem witness_MortarLoadsAndStores :
    ((1 : Word).toNat % 2 ≠ 0 ∧ base.translate 0 0 .load (0x800000 : Word).toNat = .error .spanMiss ∧
      base.translate 0 0 .store (0x200000 : Word).toNat = .error .pageClass) ∧
    (Ordered base ∧ Released base ∧ ¬ Ordered acquiring ∧ ¬ Released acquiring ∧ base.me.accessing = false) ∧
    (Reaches poisonedLine .load 0 8 pa0 f0 ∧ poisonedLine.poisoned pa0 8 = true) ∧
    (Reaches base .load 0x78 8 (pa0 + 0x78) f0 ∧ base.poisoned (pa0 + 0x78) 8 = false ∧ readable base (pa0 + 0x78)) ∧
    (Reaches noLine .load 0 8 pa0 f0 ∧ Reaches (lineIn .ISD) .load 0 8 pa0 f0 ∧ Reaches leasedLine .load 0 8 pa0 f0) ∧
    (Reaches taggedLine .store 0 8 pa0 f0 ∧ Owned taggedLine pa0 ∧ taggedLine.tag pa0 = true) ∧
    (Reaches base .store 0 8 pa0 f0 ∧ base.tag pa0 = false ∧ mayWrite base pa0) ∧ (Reaches newer .store 0 8 pa0 f0 ∧ Owned newer pa0) ∧
    (Far base .load vaFar 8 xFar fFar ∧ Far base .store vaFar 8 xFar fFar) ∧
    (NamesHub base .load vaHub 8 xHub fHub ∧ NamesHub base .store vaHub 8 xHub fHub) := by
  refine ⟨⟨by decide, errIs_eq (by decide +kernel), errIs_eq (by decide +kernel)⟩,
    ⟨rfl, released (by decide), unordered.1, unordered.2, by decide +kernel⟩, ⟨reachesB_eq ?_, ?_⟩,
    ⟨reachesB_eq ?_, ?_, readableB_eq (l := L1Line.new .M) ?_⟩, ⟨reachesB_eq ?_, reachesB_eq ?_, reachesB_eq ?_⟩,
    ⟨reachesB_eq ?_, ownedB_eq (l := L1Line.new .M) ?_, ?_⟩, ⟨reachesB_eq ?_, ?_, writableB_eq (l := L1Line.new .M) ?_⟩,
    ⟨reachesB_eq ?_, ownedB_eq (l := L1Line.new .M) ?_⟩, ⟨far_eq ?_, far_eq ?_⟩, ⟨namesHub _ ?_, namesHub _ ?_⟩⟩ <;> decide +kernel

theorem witness_AtomicsAndCombiningAdds :
    (Reaches taggedLine .store 0 4 pa0 f0 ∧ Owned taggedLine pa0 ∧ taggedLine.tag pa0 = true) ∧
    (Reaches poisonedLine .store 0 4 pa0 f0 ∧ Owned poisonedLine pa0 ∧ poisonedLine.poisoned pa0 4 = true) ∧
    (Reaches base .store 4 4 (pa0 + 4) f0 ∧ base.tag (pa0 + 4) = false ∧ base.poisoned (pa0 + 4) 4 = false ∧ mayWrite base (pa0 + 4)) ∧
    ((memValue base (pa0 + 4) 4 == (0 : Word).toNat % 2 ^ (8 * 4)) = true ∧ (memValue base (pa0 + 4) 4 == (1 : Word).toNat % 2 ^ (8 * 4)) = false) ∧
    (Far base .store vaFar 8 xFar fFar ∧ NamesHub base .store vaHub 8 xHub fHub) ∧
    (Reaches sumLine .store 0 8 pa0 f0 ∧ sumLine.tag pa0 = false ∧ sumLine.leasedByOther 0 0 line0 = false ∧ sumLine.l1 0 line0 = some uLine ∧
      sumsClash uLine 0 true = false ∧ sumsClash uLine 0 false = true ∧ sumLine.innermost line0 = none) := by
  refine ⟨⟨reachesB_eq ?_, ownedB_eq (l := L1Line.new .M) ?_, ?_⟩, ⟨reachesB_eq ?_, ownedB_eq (l := L1Line.new .M) ?_, ?_⟩,
    ⟨reachesB_eq ?_, ?_, ?_, writableB_eq (l := L1Line.new .M) ?_⟩, ?_, ⟨far_eq ?_, namesHub _ ?_⟩, ⟨reachesB_eq ?_, ?_⟩⟩ <;> decide +kernel

/-! Leases, snapshots, handle words -/

/-- A slot on the first line in a state; a frame of host memory at virtual address 0x400000. -/
def leasing (l : LeaseSlot) : State := base.modMe fun x => { x with leases := [l], reply := { x.reply with leased := some line0 } }
def withHost : State := { base with spans := [(0, ⟨true, .localWin, 0, 1, [(2, ⟨.mortar, 3, 0, 0⟩)]⟩)] }
def fHost : FrameEntry := ⟨1, 0, 2, .localWin, 0, ⟨.mortar, 3, 0, 0⟩⟩

/-- Three snapshots of the task around the first line, levels 1 to 3, in registers 0 to 2. -/
def snapped : State := { base with snaps := [(0, ⟨1, 1, 0, 0, line0, 4⟩), (1, ⟨2, 2, 0, 0, line0, 2⟩), (2, ⟨3, 3, 0, 0, line0, 1⟩)], snapGen := 3 }
theorem freeSnap_snapped : ∃ r, snapped.freeSnap = some r := by
  have h : ((List.range Config.snapRegs).find? fun r => (snapped.snaps.look r).isNone) = some 3 := by decide +kernel
  unfold State.freeSnap
  simp only [h]
  split
  · exact ⟨_, rfl⟩
  · exact ⟨_, rfl⟩

theorem witness_LeasesAndSnapshots :
    ((0 : Word).toNat = 0 ∧ base.leasemax.toNat < (513 : Word).toNat ∧ (512 : Word).toNat ≤ base.leasemax.toNat) ∧
    (Reaches withHost .store 0x400000 1 (mkPa 3 0 0 0) fHost ∧ paTier (mkPa 3 0 0 0) = 3) ∧ Far base .store vaFar 1 xFar fFar ∧
    (Reaches base .store 0 1 pa0 f0 ∧ paTier pa0 ≠ 3) ∧
    ((leasing ⟨line0, .held, 5, 9⟩).me.slotOn (lineOf pa0) = some ⟨line0, .held, 5, 9⟩ ∧
      (leasing ⟨line0, .held, 5, 9⟩).me.reply.leased = some (lineOf pa0) ∧
      (leasing ⟨line0, .acquiring, 5, 9⟩).me.slotOn (lineOf pa0) = some ⟨line0, .acquiring, 5, 9⟩) ∧ (base.me.reply.leased ≠ some (lineOf pa0) ∧ Ordered base) ∧
    (base.me.slotOn (lineOf pa0) = none ∧ base.me.leases.length < 2 ∧
      2 ≤ (base.modMe fun x => { x with leases := [⟨1, .held, 5, 9⟩, ⟨2, .expired, 5, 9⟩] }).me.leases.length) ∧
    (Reaches base .unlease 0 1 pa0 f0 ∧ (⟨line0, .expired, 5, 9⟩ : LeaseSlot).live = false ∧ (⟨line0, .held, 5, 9⟩ : LeaseSlot).live = true) ∧
    (Reaches snapped .store 0 128 pa0 f0 ∧ (128 : Word).toNat % 128 = 0 ∧
      (∀ e ∈ snapped.snaps, (⟨4, 0, 0, 0, line0, 1⟩ : Snap).meets e.2 = true →
        snapped.ownSnap 0 0 e.2 = true ∧ (⟨4, 0, 0, 0, line0, 1⟩ : Snap).within e.2 = true) ∧
      1 + (snapped.snaps.filter fun e => snapped.ownSnap 0 0 e.2 && (⟨4, 0, 0, 0, line0, 1⟩ : Snap).within e.2).length = 4 ∧
      snapped.me.accessing = false ∧ snapped.reserves = [] ∧ (⟨4, 0, 0, 0, line0, 1⟩ : Snap).covers line0 = true ∧ (snapped.modMe fun x => { x with loads := [⟨.b 1, 0, 0, some 0, 8, false, 0, false, false⟩] }).me.accessing = true) ∧
    (∃ r, snapped.freeSnap = some r) ∧
    (base.snapNamed 1 = none ∧ snapped.snapNamed 1 = some (0, ⟨1, 1, 0, 0, line0, 4⟩) ∧ snapped.snapsInside 0 ⟨1, 1, 0, 0, line0, 4⟩ ≠ [] ∧
      snapped.snapNamed 0x203 = some (2, ⟨3, 3, 0, 0, line0, 1⟩) ∧ snapped.snapsInside 2 ⟨3, 3, 0, 0, line0, 1⟩ = []) ∧
    ((snapped.endLeases 0 0 (⟨1, 1, 0, 0, line0, 4⟩ : Snap).covers).rangeLeasedByOther 0 0 ⟨1, 1, 0, 0, line0, 4⟩ = false ∧ snapped.shadows = []) :=
  ⟨by decide +kernel, ⟨reachesB_eq (by decide +kernel), by decide +kernel⟩, ⟨by decide +kernel, okIs_eq (by decide +kernel), by decide⟩,
    ⟨reachesB_eq (by decide +kernel), by decide +kernel⟩, by decide +kernel, ⟨by decide +kernel, rfl⟩, by decide +kernel,
    ⟨reachesB_eq (by decide +kernel), by decide +kernel⟩, ⟨reachesB_eq (by decide +kernel), by decide +kernel⟩, freeSnap_snapped, by decide +kernel,
    by decide +kernel⟩

/-- Answers that the held bundle has got. -/
def replying (s : State) (f : Replies → Replies) : State := s.modMe fun x => { x with reply := f x.reply }

/-- A handle word in the window at 0x10, which LDH names as 0b11 in bits [63:62]. -/
def winEa : Word := 0xC000000000000010
def lsHeld : State := lsState (fun k => k.writeHandle 0x10 ⟨true, 4, 9⟩) []
theorem witness_HandleWords :
    (BitVec.ofInt 64 (((withB base [(2, winEa)]).opB 2).toNat + (0 : BitVec 6).toInt * 8) = winEa) ∧
    (Ordered base ∧ Released base ∧ Unasked base) ∧
    (WindowWord base winEa 0x10 ∧ base.lsWaits 0x10 8 true = false ∧ base.opH 3 = none ∧ lsHeld.myCore.lsTag 0x10 = true ∧
      (lsHeld.myCore.readHandle 0x10).e ≠ 0 ∧ base.myCore.lsTag 0x10 = false) ∧
    ((withH base [(3, ⟨true, 4, 9⟩)]).opH 3 = some ⟨true, 4, 9⟩ ∧ base.me.isOpen 9 = false) ∧
    (MortarWord taggedLine 0 pa0 f0 ∧ mayWrite taggedLine pa0 ∧ taggedLine.tag pa0 = true ∧ taggedLine.poisoned pa0 8 = false ∧
      (taggedLine.readHandle pa0).e ≠ 0 ∧ base.tag pa0 = false) ∧
    (((base.writeHandle pa0 ⟨false, 0, 9⟩).readHandle pa0).e = 0 ∧ (base.writeHandle pa0 ⟨false, 0, 9⟩).tag pa0 = true ∧
      (replying base fun r => { r with asked := some (3, 9), refill := true }).me.reply.asked = some (3, 9) ∧ base.me.reply.refill = false ∧
      (lsState (fun k => k.writeHandle 0x10 ⟨true, 0, 9⟩) []).myCore.readHandle 0x10 = ⟨true, 0, 9⟩) ∧ FarWord base vaFar xFar fFar :=
  ⟨by decide +kernel, ⟨rfl, released (by decide), rfl, rfl⟩, ⟨by constructor <;> decide +kernel, by decide +kernel⟩,
    by decide +kernel, ⟨⟨by decide +kernel, reachesB_eq (by decide +kernel)⟩, writableB_eq (l := L1Line.new .M) (by decide +kernel), by decide +kernel⟩,
    by decide +kernel,
    ⟨by decide +kernel, far_eq (by decide +kernel)⟩⟩

/-! Tiles -/

/-- Two tiles of this package of 4 by 8 elements, FP32 and s8, and their storage in near memory; the last word of an answer names an element. -/
def tileF : BitVec 40 := 0x1000005
def tileI : BitVec 40 := 6
def descOf (fw : BitVec 16) (at_ : Nat) (opened : Bool) : Desc :=
  { sealed := !opened, opened := opened, isScale := false, moving := false, rows := 3, cols := 7, layout := 0, fword := fw
    storage := BitVec.ofNat 45 at_, blocks := 1, pitch := 32, total := 0x80000000, returned := 0, scale := none, born := 0 }
def storeF : Nat := mkPa 1 0 2 0
def tiled : State := { base with
  tiles := [(6, descOf 0x14 (mkPa 1 0 3 0) false), (0x1000005, descOf 1 storeF false)], mem := [(storeF + 2, 0x80), (storeF + 3, 0x3F)] }
def answer (d : Desc) (i j bad : Nat) : List Word := d.words ++ [5, BitVec.ofNat 64 bad, BitVec.ofNat 64 (1 + i * 65536 + j)]

def handleF : Handle := ⟨false, 31, tileF⟩
def freshF : Handle := ⟨true, 31, tileF⟩
def opened (s : State) : State := s.modMe fun x => { x with openSet := [tileF] }

/-- Element (3, 7), the last one, and one past each end. -/
def ix (i j : Nat) : Word := BitVec.ofNat 64 (i * 2 ^ 32 + j)
theorem witness_IndexWord : IndexWord ((descOf 1 storeF false).word 0) (ix 3 7) :=
  ⟨by decide +kernel, by decide +kernel, by decide +kernel, by decide +kernel⟩

theorem witness_HandleWeightsAndQueries :
    ((withH base [(2, handleF)]).opH 2 = some handleF ∧ base.opH 2 = none ∧ (opened base).me.openSet = [tileF] ∧ tileF ∉ base.me.openSet ∧
      handleF.e ≠ 0 ∧ (⟨false, 0, tileF⟩ : Handle).e = 0) ∧
    ((base.modMe fun x => { x with drops := List.replicate 15 ⟨1, 0, 0, false⟩ }).me.drops.length < 16 ∧
      16 ≤ (base.modMe fun x => { x with drops := List.replicate 16 ⟨1, 0, 0, false⟩ }).me.drops.length) ∧
    (freshF.fresh = true ∧ handleF.fresh = false ∧ (replying base fun r => { r with unique := some false }).me.reply.unique = some false ∧
      base.me.reply.unique = none ∧ (∀ d ∈ base.me.drops, d.tile ≠ tileF) ∧ base.me.reply.asked = none ∧ base.me.late = [] ∧ base.me.reply.desc = none) ∧
    (let ws := answer (descOf 1 storeF false) 3 7 0
     ws.getD 10 0 = BitVec.ofNat 64 (1 + bits (ix 3 7) 32 16 * 65536 + bits (ix 3 7) 0 16) ∧ ws.getD 9 0 = 0 ∧
     (answer (descOf 1 storeF false) 3 7 1).getD 9 0 ≠ 0 ∧ elemOf ((ws.getD 0 0).extractLsb' 48 16) = some (.float fp32)) ∧
    ¬ IndexWord ((descOf 1 storeF false).word 0) (ix 4 7) ∧ IndexWord ((descOf 1 storeF false).word 0) (ix 3 7) ∧
    elemOf (((answer (descOf 0x14 0 false) 0 0 0).getD 0 0).extractLsb' 48 16) = some (.int 8 true) ∧
    elemOf (((answer (descOf 0x17 0 false) 0 0 0).getD 0 0).extractLsb' 48 16) = some .q16 :=
  ⟨by decide +kernel, by decide +kernel, by decide +kernel, by decide +kernel, fun h => absurd h.row (by decide +kernel), witness_IndexWord,
    by decide +kernel, by decide +kernel⟩

/-- Shape words: an FP32 tile of 1 by 1 in far memory; the same opened on creation; one with a scaled programmable format; an unassigned format. -/
def shapeF : Word := 1
def shapeOpen : Word := 0x8000000000000001
def shapeScaled : Word := 0xB1A7
theorem witness_ShapeWord (w : Word) (h : (bits w 55 8 == 0 && w.extractLsb' 44 2 != 3 && bits w 46 2 == 0 && bits w 48 7 == 0) = true) : ShapeWord w := by
  simp only [Bool.and_eq_true, beq_iff_eq, bne_iff_ne] at h
  exact ⟨h.1.1.1, h.1.1.2, by omega, fun _ => h.2, fun e => absurd (h.1.2.symm.trans e) (by decide)⟩

theorem witness_NewTiles :
    ¬ ShapeWord 0x0080000000000001 ∧ ShapeWord 0xFF ∧ elemOf 0xFF = none ∧ ShapeWord shapeF ∧ (elemOf 1).isSome = true ∧ fwordScaled 1 = false ∧
    ShapeWord shapeScaled ∧ (elemOf 0xB1A7).isSome = true ∧ fwordScaled 0xB1A7 = true ∧ ShapeWord shapeOpen ∧ shapeOpen.getLsbD 63 = true ∧
    (base.me.openSet.length < 4 ∧ 4 ≤ (base.modMe fun x => { x with openSet := [1, 2, 3, 4] }).me.openSet.length) ∧
    (base.me.reply.tile = none ∧ base.me.reply.asked = none ∧ base.me.late = [] ∧
      (replying base fun r => { r with tile := some 0x1000000 }).me.reply.tile = some 0x1000000 ∧
      (replying base fun r => { r with tile := some 0 }).me.reply.tile = some 0 ∧
      (replying base fun r => { r with tile := some tileF }).me.reply.tile = some tileF ∧ tileF.toNat % 2 ^ 24 ≠ 0) ∧
    ((withH base [(4, handleF)]).opH 4 = some handleF ∧ (4 : BitVec 6) ≠ 0 ∧
      base.opH 4 = none ∧ ((descOf 1 storeF false).words.getD 0 0).extractLsb' 48 16 ≠ (2 : BitVec 16) ∧
      ((descOf 2 storeF false).words.getD 0 0).extractLsb' 48 16 = (2 : BitVec 16)) :=
  ⟨fun h => absurd h.reserved (by decide +kernel), witness_ShapeWord _ (by decide +kernel), by decide +kernel, witness_ShapeWord _ (by decide +kernel),
    by decide +kernel, by decide +kernel, witness_ShapeWord _ (by decide +kernel), by decide +kernel, by decide +kernel,
    witness_ShapeWord _ (by decide +kernel), by decide +kernel, by decide +kernel, by decide +kernel, by decide +kernel⟩

/-- A region of four FP32 elements in the window, which fits the tile from its last four elements on. -/
def regionF : Region := ⟨0, 0x100, 4, 4, 1, .float fp32, false, false⟩
theorem region_ok : regionOf base (region4 0x100) = .ok regionF := okIs_eq (by decide +kernel)

/-- The home's answers to a copying update: the descriptor with half of a scale handle, and a tile. -/
def scaleH : Handle := ⟨false, 5, 6⟩
def scaledWords : List Word := ({ descOf 1 storeF false with scale := some scaleH } : Desc).words ++ [0]
def copyState (ws : List Word) : State := replying tiled fun r => { r with unique := some false, desc := some ws, tile := some 0x1000007 }

theorem witness_TileUpdates :
    tileF ∈ (opened tiled).me.openSet ∧ tileF ∉ tiled.me.openSet ∧ 4 ≤ (base.modMe fun x => { x with openSet := [1, 2, 3, 4] }).me.openSet.length ∧
    (regionOf base (region4 0x100) = .ok regionF ∧ regionF.fword = ((descOf 1 storeF false).words.getD 0 0).extractLsb' 48 16 ∧
      elementAt ((descOf 1 storeF false).words.getD 0 0) (ix 3 4) + regionF.count ≤ (Desc.ofWords (descOf 1 storeF false).words).count ∧
      base.queueOpen .copy = true) ∧
    Reused tiled freshF ∧ Reused (opened tiled) handleF ∧ Reused (replying tiled fun r => { r with unique := some true }) handleF ∧
    Copied (copyState scaledWords) handleF ∧ Copied tiled ⟨false, 31, 0x14000005⟩ ∧ Unread tiled tileF ∧
    CopyReady (copyState scaledWords) scaledWords 0x1000007 (some scaleH) ∧
    CopyReady (copyState (descOf 1 storeF false).words) (descOf 1 storeF false).words 0x1000007 none ∧
    ¬ IndexWord ((descOf 1 storeF false).words.getD 0 0) (ix 0 8) ∧ IndexWord ((descOf 1 storeF false).words.getD 0 0) (ix 3 4) ∧
    tiled.desc tileF = some (descOf 1 storeF false) :=
  ⟨by decide +kernel, by decide +kernel, by decide +kernel, ⟨region_ok, by decide +kernel, by decide +kernel, by decide +kernel⟩,
    .inr ⟨by decide +kernel, .inl rfl⟩, .inl (by decide +kernel), .inr ⟨by decide +kernel, .inr (by decide +kernel)⟩,
    ⟨by decide +kernel, .inr ⟨rfl, by decide +kernel⟩⟩, ⟨by decide +kernel, .inl (by decide +kernel)⟩, by unfold Unread; decide +kernel,
    ⟨by decide +kernel, by decide +kernel, by decide +kernel, ⟨by decide +kernel, .inr (by decide +kernel)⟩, by decide +kernel⟩,
    ⟨by decide +kernel, by decide +kernel, by decide +kernel, ⟨by decide +kernel, .inl rfl⟩, by decide +kernel⟩,
    fun h => absurd h.col (by decide +kernel), ⟨by decide +kernel, by decide +kernel, by decide +kernel, by decide +kernel⟩, by decide +kernel⟩

/-- A page-table node on the first line that starts at token 16 with a run of 40 tokens, its second page a handle; a chain that ends. -/
def kvNode : State := ((base.writeNat pa0 4 16).writeNat (pa0 + 4) 2 40).writeHandle (pa0 + 72) ⟨false, 4, 9⟩
theorem witness_TileElementsAndPageFinds :
    (descOf 1 storeF false).elem = some (.float fp32) ∧ paTier storeF = 1 ∧ paFrame (storeF + 200) < 16640 ∧
    (Released kvNode ∧ kvNode.me.reply.got = []) ∧ Node kvNode 0 pa0 f0 ∧ memValue kvNode pa0 4 = 16 ∧ memValue kvNode (pa0 + 4) 2 = 40 ∧ memValue kvNode (pa0 + 8) 8 = 0 ∧
    (Reaches (kept kvNode f0) .store 72 8 (pa0 + 72) f0 ∧ mayWrite kvNode (pa0 + 72) ∧ kvNode.tag (pa0 + 72) = true ∧
      kvNode.poisoned (pa0 + 72) 8 = false ∧ (kvNode.readHandle (pa0 + 72)).e ≠ 0 ∧ (0 : Word) + BitVec.ofNat 64 (64 + 8 * ((32 - 16) / 16)) = 72) ∧
    (16 ≤ 55 ∧ 55 < 16 + 40 ∧ 16 + 40 ≤ 56 ∧ 15 < 16) :=
  ⟨by decide +kernel, by decide +kernel, by decide +kernel, ⟨released (by decide), by decide +kernel⟩,
    ⟨by decide, ⟨⟨.localWin, 0, .mortar, pa0⟩, okIs_eq (by decide +kernel), rfl, rfl⟩, by decide +kernel,
      ⟨by decide +kernel, L1Line.new .M, by decide +kernel, .inl rfl⟩, by decide +kernel⟩, by decide +kernel, by decide +kernel, by decide +kernel,
    ⟨reachesB_eq (by decide +kernel), writableB_eq (l := L1Line.new .M) (by decide +kernel), by decide +kernel⟩, by decide⟩


/-! Engine commands -/

def descr (sel count stride at_ : Nat) : Word := BitVec.ofNat 64 (sel * 2 ^ 52 + count * 2 ^ 36 + stride * 2 ^ 20 + at_)

theorem witness_QueueAndRegions :
    bits (descr 1 0 4 0) 36 16 = 0 ∧ bits (descr 1 4 4 0 ||| 0x4000000000000000) 62 2 ≠ 0 ∧
    (bits (descr 136 1 4 0) 36 16 ≠ 0 ∧ bits (descr 136 1 4 0) 62 2 = 0 ∧ 136 ≤ bits (descr 136 1 4 0) 52 8) ∧
    (bits (descr 135 1 4 0) 52 8 < 136 ∧ elemOf (base.me.nfmt.get 0 (135 - 128)) = none) ∧ (elemOf (BitVec.ofNat 16 127) = none) ∧
    ((Elem.float fp32).nibbles ≠ 1 ∧ bits (descr 1 1 4 2) 0 20 % ((Elem.float fp32).nibbles / 2) ≠ 0) ∧
    (elemOf 0x16 = some (.int 4 true) ∧ (Elem.int 4 true).nibbles = 1) ∧
    (2 * (base.me.winLen : Int) < 2 * 0x10000 + (Elem.float fp32).nibbles) ∧ (2 * 0xFFFC + (Elem.float fp32).nibbles ≤ 2 * base.me.winLen) := by
  decide +kernel

/-- The word after a matrix region: first row and column, rows and columns minus one. -/
def mmaState (pair : Option (BitVec 16 × BitVec 16)) : State :=
  (withH (withB base [(6, descr 1 4 4 0x100), (7, BitVec.ofNat 64 (1 * 2 ^ 22 + 1 * 2 ^ 8))]) [(1, handleF), (2, ⟨false, 3, 8⟩)]).modMe fun x => { x with pair := pair }
/-- A group of two packages, 0 and 1 of the bond, this one with rank 0. -/
def groupWord : Word := BitVec.ofNat 64 (3 * 2 ^ 56 + 1 * 2 ^ 51)
theorem group_ok : GroupWord groupWord 0 :=
  ⟨by decide +kernel, by decide +kernel, by decide +kernel, by decide +kernel, by decide +kernel⟩

theorem witness_MatrixForms :
    ((0x00010001 : Word).toNat < 2 ^ 32 ∧ (elemOf 1).isSome = true ∧ (accumOf 1 1).isSome = true ∧ 2 ^ 32 ≤ (0x100010001 : Word).toNat) ∧
    base.opH 1 = none ∧ (mmaState none).opH 1 = some handleF ∧ (mmaState none).opH 2 = some ⟨false, 3, 8⟩ ∧
    regionOf (mmaState none) ((mmaState none).opB 6) = .ok regionF ∧ ((6 : BitVec 5) ≠ 0 ∧ (6 : BitVec 5) ≠ 31) ∧
    bits ((mmaState none).opB 7) 0 8 = 0 ∧ (((mmaState none).opB 7).extractLsb' 22 14).toNat + 1 = 2 ∧ (((mmaState none).opB 7).extractLsb' 8 14).toNat + 1 = 2 ∧
    (mmaState none).me.pair = none ∧ (mmaState (some (1, 1))).me.pair = some (1, 1) ∧ accumOf 1 1 = some .chunks ∧ accumOf 0x14 0x14 = some .integers ∧
    regionF.elem = .float fp32 ∧ (mmaState none).queueOpen .matrix = true ∧ base.opH 9 = none ∧ GroupWord groupWord (base.peer.toNat % 8) ∧
    ¬ GroupWord 0 (base.peer.toNat % 8) :=
  by
    and_intros <;> first | exact group_ok | exact fun h => h.size (by decide +kernel) | exact okIs_eq (by decide +kernel) | decide +kernel

/-- Regions of two elements by class: FP32, s32, CF32, s8, BF16, u8; and of one. -/
def r2 (sel width at_ : Nat) : Word := descr sel 2 width at_
def r1 (sel width at_ : Nat) : Word := descr sel 1 width at_
/-- A form resolves its regions and passes its own checks. -/
def passes (e : VOp × Word × Word × Word × Bool × Bool) : Bool :=
  match regionOf base e.2.1, regionOf base e.2.2.1, regionOf base e.2.2.2.1 with
  | .ok d, .ok s, .ok t => okIs (e.1.check d (if e.2.2.2.2.1 then some s else none) (if e.2.2.2.2.2 then some t else none) e.2.2.2.1) ()
  | .ok d, _, _ => !e.2.2.2.2.1 && !e.2.2.2.2.2 && okIs (e.1.check d none none e.2.2.2.1) ()
  | _, _, _ => false

def fD : Word := r2 1 4 0
def fS : Word := r2 1 4 0x100
def fT : Word := r2 1 4 0x200
def iD : Word := r2 0x10 4 0
def iS : Word := r2 0x10 4 0x100
def iT : Word := r2 0x10 4 0x200
def cD : Word := r2 4 8 0
def cS : Word := r2 4 8 0x100
def cT : Word := r1 4 8 0x200
/-- Every operation that the vector forms queue, with operands that pass its checks. -/
theorem witness_VectorForms_floats : [(.add, fD, fS, fT, true, true), (.add, fD, fS, fT, true, false), (.sub, fD, fS, fT, true, true), (.mul, fD, fS, fT, true, true),
    (.fma false, fD, fS, fT, true, true), (.fma false, fD, fS, fT, true, false), (.fma true, fD, fS, fT, true, true), (.max, fD, fS, fT, true, true),
    (.min, fD, fS, fT, true, false), (.abs, fD, fS, fT, true, false), (.neg, fD, fS, fT, true, false), (.clampS, fD, fS, fT, true, false),
    (.clampV, fD, fS, fT, true, true), (.cvt, iD, fS, fT, true, false), (.cvtS, r2 0x14 1 0, fS, r1 2 2 0x200, true, true), (.exp false, fD, fS, fT, true, false),
    (.exp true, fD, fS, fT, true, false), (.rcp, fD, fS, fT, true, false), (.rsq, fD, fS, fT, true, false), (.sumF, r1 1 4 0, fS, fT, true, false),
    (.sumI, r1 0x10 4 0, iS, fT, true, false), (.rmax, r1 1 4 0, fS, fT, true, false), (.sel, fD, fS, iT, true, true)].all passes = true := by decide +kernel
theorem witness_VectorForms_others : [(.cmp .eq, iD, fS, fT, true, true), (.cmp .ne, iD, fS, fT, true, false), (.cmp .lt, iD, iS, iT, true, true),
    (.cmp .le, iD, fS, fT, true, true), (.cmp .gt, iD, fS, fT, true, true), (.cmp .ge, iD, fS, fT, true, false), (.topk false, iD, fS, fT, true, true),
    (.topk true, iD, fS, fT, true, false), (.gath, fD, fS, iT, true, true), (.scat, fD, fS, iT, true, true), (.iota, iD, 0, 0, false, false),
    (.fill, fD, 0, 0, false, false), (.bfly false, cD, cS, cT, true, true), (.bfly true, cD, cS, cT, true, true), (.twid, cD, 0, 24, false, false),
    (.cmul false, cD, cS, cT, true, true), (.cmul true, cD, cS, cT, true, true), (.iadd false, iD, iS, iT, true, true), (.iadd true, iD, iS, iT, true, false),
    (.imul, iD, iS, iT, true, true), (.band, iD, iS, iT, true, true), (.bor, iD, iS, iT, true, true), (.bxor, iD, iS, iT, true, true), (.shl, iD, iS, iT, true, true),
    (.shr, iD, iS, iT, true, true), (.sar, iD, iS, iT, true, false), (.flg false, r2 0x15 1 0, 0, 0, false, false), (.flg true, r2 0x15 1 0, 0, 0, false, false),
    (.maskw, iD, 0, 0, false, false)].all passes = true := by decide +kernel

/-- Regions in the way of each other, a source that does not resolve, a full queue. -/
theorem witness_VectorForms :
    (∃ d s t, regionOf base fD = .ok d ∧ regionOf base fS = .ok s ∧ regionOf base fT = .ok t ∧ VOp.add.check d (some s) (some t) fT = .ok ()) ∧
    base.queueOpen .vector = true ∧
    (base.modCore 0 fun k => { k with cmds := List.replicate 31 (cmdOf (some .vector) (.vec fillCmd) false) }).queueOpen .vector = false ∧
    errIs ((VOp.add.check fillRegion (some { fillRegion with base := 0x104 }) none 0).mapError fun b => match b with | .trap c _ => c | _ => .illegalOp) .regionOverlap = true ∧
    errIs ((regionOf base 0).mapError fun b => match b with | .trap c _ => c | _ => .illegalOp) .regionBad = true :=
  ⟨⟨⟨0, 0, 4, 2, 1, .float fp32, false, false⟩, ⟨0, 0x100, 4, 2, 1, .float fp32, false, false⟩, ⟨0, 0x200, 4, 2, 1, .float fp32, false, false⟩,
    okIs_eq (by decide +kernel), okIs_eq (by decide +kernel), okIs_eq (by decide +kernel), okIs_eq (by decide +kernel)⟩,
    by decide +kernel, by decide +kernel, by decide +kernel, by decide +kernel⟩

/-- Operands of a copy: window offsets, a length, a shape in a slice, a destination word of context 1 of core 3 of package 5. -/
def copying' (d s t : Word) : State := withH (withB tiled [(1, d), (2, s), (3, t)]) [(4, handleF)]
def sliceShape : Word := BitVec.ofNat 64 (2 * 2 ^ 46 + 1)
def farWindow : Word := BitVec.ofNat 64 (0x100 * 2 ^ 44 + 5 * 2 ^ 24 + 1 * 2 ^ 8 + 3)
theorem witness_MovesAndCopies :
    (¬ TargetWord 3 ∧ TargetWord 1 ∧ TargetWord 0x1FE ∧ homePeer tileF = base.peer.toNat ∧ homePeer 0x14000005 ≠ base.peer.toNat ∧
      base.queueOpen .copy = true ∧ (0xFFFFFFFF : Word).toNat < 2 ^ 32 ∧ 2 ^ 32 ≤ (0x100000000 : Word).toNat) ∧
    (CopyRoom base ∧ (0xFFF0 : Word).toNat % 16 = 0 ∧ (0xFFF0 : Word).toNat + 16 ≤ base.me.winLen) ∧
    SourceOf (copying' 0xFFF0 0 16) .ls 4 0 16 (.ls 0) ∧ SourceOf base .va 4 7 16 (.va 7) ∧ SourceOf (copying' 0 5 16) .tile 4 5 16 (.tile tileF 5) ∧
    ((0 : Word).toNat + 16 ≤ (0x10 : Word).toNat ∧ (0 : Word).toNat < (0x10 : Word).toNat + 32 ∧ (0x10 : Word).toNat < (0 : Word).toNat + 32) ∧
    (ShapeWord sliceShape ∧ sliceShape.getLsbD 63 = false ∧ bits sliceShape 46 2 = 2 ∧ elemOf (sliceShape.extractLsb' 0 16) = some (.float fp32) ∧
      fwordScaled (sliceShape.extractLsb' 0 16) = false ∧ 4 ≤ (geometry (bits sliceShape 44 2) (bits sliceShape 16 14) (bits sliceShape 30 14) 8).2) ∧
    (base.opH 4 = none ∧ (copying' 0 0 16).opH 4 = some handleF ∧ (copying' 0 0 16).opH (4 + 1) = none) ∧
    (bits farWindow 38 2 = 0 ∧ bits farWindow 10 14 = 0 ∧ bits farWindow 44 20 % 16 = 0 ∧ base.peerAbsent (bits farWindow 24 14) = false ∧
      base.peerAllowed (bits farWindow 24 14) = true) :=
  ⟨⟨fun h => h.kind (by decide), ⟨by decide, by decide, by decide, by decide⟩, ⟨by decide, by decide, by decide, by decide⟩, by decide +kernel,
      by decide +kernel, by decide +kernel, by decide, by decide⟩,
    ⟨⟨by decide +kernel, by decide +kernel⟩, by decide, by decide +kernel⟩, ⟨by decide, by decide, by decide +kernel, rfl⟩, rfl,
    ⟨handleF, by decide +kernel, rfl⟩, by decide,
    ⟨⟨by decide +kernel, by decide +kernel, by decide +kernel, fun h => absurd h (by decide +kernel), fun h => absurd h (by decide +kernel)⟩, by decide +kernel,
      by decide +kernel, by decide +kernel, by decide +kernel, by decide +kernel⟩, by decide +kernel, by decide +kernel⟩

/-! Privileged forms, launches -/

/-- The firmware context's own code and data: an image of a span entry in the mortar frame, which no core caches. -/
def xm : Xlat := ⟨.localWin, 0, .mortar, pa0⟩
def firmCold : State := firm.modCore 0 fun k => { k with l1 := [] }
/-- A header that is valid, LOCAL, asid 2, with one slot: near memory of die 0, frame 5, class mortar. -/
def spanBytes : State := (firmCold.writeNat pa0 8 (2 ^ 63 + 2 * 2 ^ 32)).writeNat (pa0 + 16) 4 (2 ^ 31 + 1 * 2 ^ 29 + 1 * 2 ^ 27 + 5 * 2 ^ 5)
theorem witness_PrivilegedForms :
    (¬ Firmware base ∧ Firmware firm) ∧
    (MortarRange spanBytes .load 0 528 pa0 f0 ∧ (0 : Word).toNat % 16 = 0 ∧ bits (0x10007 : Word) 20 44 = 0 ∧ bits (0x10007 : Word) 12 4 = 0 ∧
      bits (0x10007 : Word) 16 4 ≠ 0 ∧ (kept spanBytes f0).rangeQuiet pa0 528 = true ∧ spanBytes.poisoned pa0 528 = false ∧
      (spanBytes.spanImage (((kept spanBytes f0).takeRange pa0 528).readBytes pa0 528)).isSome = true ∧ spanBytes.spans.look (4096 * 0 + 7) = none) ∧
    ((replying firm fun r => { r with asked := some (6, 0) }).me.reply.asked = some (6, 0) ∧
      (firm.takeBack []).oldTranslation 1 0x200000 0x200000 [] = false ∧ (firm.takeBack []).cachedLines [] = [] ∧ firm.cachedLines [pa0 / 2 ^ 21] ≠ []) ∧
    (bits (1 : Word) 12 52 = 0 ∧ (0x200000 : Word).toNat % 2 ^ 21 = 0 ∧ (0x200000 : Word) ≠ 0 ∧ firm.me.reply.asked = none ∧
      firm.snapOver (firm.namedFrames 1 0x200000 0x200000) = false ∧
      ({ firm with snaps := [(0, ⟨1, 1, 0, 0, line0, 4⟩)] } : State).snapOver (firm.namedFrames 1 0 0x200000) = true) ∧
    ((replying firm fun r => { r with asked := some (7, 0), unique := some true }).me.reply.asked = some (7, 0) ∧
      (replying firm fun r => { r with asked := some (7, 0), unique := some true }).me.reply.unique = some true ∧ firm.me.reply.unique ≠ some true) ∧
    (firm.myCore.l1 ≠ [] ∧ firmCold.myCore.l1 = []) ∧
    ((replying firm fun r => { r with asked := some (8, 0) }).me.reply.asked = some (8, 0) ∧ firm.rejoined 0 = true ∧
      ({ firm with incOwn := [(0, true)] } : State).rejoined 0 = false) :=
  ⟨⟨by unfold Firmware; decide +kernel, by unfold Firmware; decide +kernel⟩,
    ⟨⟨by decide, ⟨xm, okIs_eq (by decide +kernel), rfl, rfl, rfl⟩, by decide +kernel⟩, by decide +kernel⟩, by decide +kernel, by decide +kernel,
    by decide +kernel, by decide +kernel, by decide +kernel⟩

/-- The task of context 0 stopped, with its three markers back. -/
def stoppedTask : State := firmCold.modCtx 0 0 fun x => { x with stop := ⟨true, true, true, true, true, false⟩ }
/-- An area that names context 0 of core 0, whose task is in the launch queue of no one: SR_COREID at byte 1240. -/
def freeCtx0 : State := firmCold.modCtx 0 0 fun x => { x with run := .idle, task := none }
theorem witness_StopSaveAndLoad :
    (bits (0 : Word) 8 2 ≠ 3 ∧ (firm.ctx 0 1).run ≠ .running ∧ (firm.ctx 0 0).run = .running ∧ (firm.ctx 0 0).stopped = false ∧
      (stoppedTask.ctx 0 0).stopped = true) ∧
    NamesTask stoppedTask 0 0 ∧ MortarRange stoppedTask .store 0 4096 pa0 f0 ∧ Saveable stoppedTask 0 task1 ∧ stoppedTask.anyTag pa0 4096 = false ∧
    (kept stoppedTask f0).rangeQuiet pa0 4096 = true ∧ ((kept stoppedTask f0).endLeases 0 0 fun _ => true).writeQuiet pa0 4096 = true ∧
    (((kept stoppedTask f0).endLeases 0 0 fun _ => true).takeToWrite pa0 4096).isSome = true ∧
    (okIs (stoppedTask.translate 0 3 .store vaFar.toNat) (xFar, fFar) = true ∧ xFar.mode ≠ .localWin ∧ stoppedTask.me.reply.probe = none ∧
      stoppedTask.me.reply.asked = none ∧ stoppedTask.me.late = [] ∧ vaFar.toNat % 4096 = 0) ∧
    (firm.ctx 0 0).task.isSome = true ∧ ((freeCtx0.ctx 0 0).task = none ∧ (freeCtx0.ctx 0 0).run = .idle ∧ freeCtx0.poisoned pa0 4096 = false) ∧
    ((0 : Word) = freeCtx0.coreId 0 0 ∧ (1 : Word) ≠ freeCtx0.coreId 0 0 ∧ freeCtx0.copyRoom (Nat.min (0 : Word).toNat 32) = true ∧
      (kept freeCtx0 f0).writeQuiet pa0 4096 = true ∧ ((kept freeCtx0 f0).takeToWrite pa0 4096).isSome = true) ∧
    (0 < 31 ∧ 31 < 32 ∧ (firm.ctx 0 0).openSet.length ≤ 4 ∧ (firm.ctx 0 0).leases.length ≤ 2 ∧ (firm.ctx 0 0).loops.length ≤ 4 ∧
      (firm.ctx 0 0).stop.atHead = false ∧ (2 ^ 56 - 1) * 128 < 2 ^ 63) :=
  ⟨by decide +kernel, ⟨by decide, by decide +kernel, by decide +kernel⟩, ⟨by decide, ⟨xm, okIs_eq (by decide +kernel), rfl, rfl, rfl⟩, by decide +kernel⟩,
    by constructor <;> decide +kernel, by and_intros <;> decide +kernel⟩

/-- Launch 1 of process 9 is live, queue slot 2 is its own with a ring of 16 entries in near memory, empty or full. -/
def launch1 : Launch :=
  { id := 1, parent := 0, proc := 9, pkt := ⟨1, 4096, 0, 0, 0, [0], 0, 0, 0, 0, 0, 0, 7⟩, chain := [], asid := 1, prio := 0, fdom := false, lease := [], near := 0
    state := .running, live := 1, faults := 0, status := 0, record := .unwritten }
def queueing (tail : BitVec 24) : State := { noLine with
  launches := [launch1], slots := [(2, ⟨BitVec.ofNat 57 (mkPa 1 0 5 0 / 128), true, 0, 9, tail, 0⟩)] }
def withLoad (s : State) : State := s.modMe fun x => { x with loads := [⟨.b 1, 0, 0, some 0, 8, false, 0, false, false⟩] }
theorem launch_ready (tail : BitVec 24)
    (h : (okIs ((queueing tail).translate 0 0 .load (0 : Word).toNat) (xm, f0) && (queueing tail).me.accessing == false &&
      (kept (queueing tail) f0).rangeQuiet pa0 128 && !(queueing tail).poisoned pa0 128 && ((queueing tail).qslot 2).mapped &&
      (queueing tail).procOf 0 0 == some ((queueing tail).qslot 2).proc.toNat) = true) : LaunchReady (queueing tail) 0 2 pa0 f0 := by
  simp only [Bool.and_eq_true, beq_iff_eq, Bool.not_eq_true'] at h
  exact ⟨⟨⟨by decide, ⟨xm, okIs_eq h.1.1.1.1.1, rfl, rfl, rfl⟩, by decide +kernel⟩, by decide, h.1.1.1.1.2, h.1.1.1.2, h.1.1.2⟩, by decide, h.1.2, h.2,
    fun e he => by simp [queueing, noLine, base, State.modCore, State.reset] at he⟩

theorem witness_LaunchForm :
    (1 : Word).toNat % 128 ≠ 0 ∧ (∃ x f, base.translate 0 0 .load (0x200000 : Word).toNat = .ok (x, f) ∧ x.cls ≠ .mortar) ∧
    (63 < (64 : Word).toNat ∧ (base.qslot 3).mapped = false ∧ base.procOf 0 0 ≠ some (base.qslot 2).proc.toNat) ∧
    LaunchReady (queueing 0) 0 2 pa0 f0 ∧ LaunchReady (queueing 16) 0 2 pa0 f0 ∧
    (((queueing 16).qslot 2).tail - ((queueing 16).qslot 2).head).toNat = 2 ^ (((queueing 16).qslot 2).lgsize.toNat + 4) ∧
    (((queueing 15).qslot 2).tail - ((queueing 15).qslot 2).head).toNat ≠ 2 ^ (((queueing 15).qslot 2).lgsize.toNat + 4) ∧
    (paExists (mkPa 1 0 5 0) = true ∧ ((kept (queueing 0) f0).takeRange pa0 128).writeQuiet (mkPa 1 0 5 0) 128 = true ∧
      paExists (mkPa 1 0 17166 0) = false ∧ (queueing 0).iss.status = .ok) ∧
    ((withLoad (queueing 0)).me.accessing = true ∧ MortarRange poisonedLine .load 0 128 pa0 f0 ∧ poisonedLine.poisoned pa0 128 = true ∧
      (kept (lineIn .ISD) f0).rangeQuiet pa0 128 = false) :=
  ⟨by decide, ⟨⟨.localWin, 0, .code, mkPa 1 0 1 0⟩, ⟨1, 0, 1, .localWin, 0, ⟨.code, 1, 0, 1⟩⟩, okIs_eq (by decide +kernel), by decide⟩, by decide +kernel,
    launch_ready 0 (by decide +kernel), launch_ready 16 (by decide +kernel), by decide +kernel, by decide +kernel, by decide +kernel,
    ⟨by decide +kernel, ⟨by decide, ⟨xm, okIs_eq (by decide +kernel), rfl, rfl, rfl⟩, by decide +kernel⟩, by decide +kernel, by decide +kernel⟩⟩

/-! Events of contexts -/

theorem tab_get_all {α : Type} (P : α → Bool) (d : α) (hd : P d = true) :
    ∀ (t : Tab α) (x : Nat), (∀ e ∈ t, e.1 = x → P e.2 = true) → P (t.get d x) = true
  | [], _, _ => hd
  | (j, v) :: r, x, h => by
    by_cases e : x = j
    · have := h (j, v) (by simp) e.symm
      simpa [Tab.get, Tab.look, e] using this
    · have := tab_get_all P d hd r x fun y hy => h y (by simp [hy])
      simpa [Tab.get, Tab.look, e] using this

/-- What holds of a context that no table lists and of every listed one but those set apart holds of all others. -/
theorem ctx_all (P : Ctx → Bool) (z : State) (c : Nat) (skip : Nat → Bool)
    (h : (P Ctx.reset && (z.core c).ctxs.all fun e => skip e.1 || P e.2) = true) (x : Nat) (hx : skip x = false) : P (z.ctx c x) = true := by
  simp only [Bool.and_eq_true, List.all_eq_true, Bool.or_eq_true] at h
  exact tab_get_all P Ctx.reset h.1 _ x fun e he hex => (h.2 e he).resolve_left (by rw [hex, hx]; simp)

theorem no_loads (z : State) (c : Nat) (h : ((z.core c).ctxs.all fun e => decide (e.2.loads = [])) = true) (x : Nat) : (z.ctx c x).loads = [] := by
  have := ctx_all (fun k => decide (k.loads = [])) z c (fun _ => false) (by simpa [Ctx.reset] using h) x rfl
  simpa using this

def at0 (f : Ctx → Ctx) : State := base.modMe f
def trapOf (cycle : Nat) : TrapInfo := ⟨.rpostDenied, .deferred, none, 0, 0, 0, 0, 0, 0, 0, cycle⟩
/-- A task that has ended its program, with nothing outstanding. -/
def ended : State := at0 fun x => { x with run := .ending }

theorem witness_ContextEvents :
    Goes base 0 ∧
    (let k := (at0 fun x => { x with readyAt := 1 }).me; 0 < k.readyAt ∧ k.readyAt ≤ 1 ∧ base.cycle < k.readyAt) ∧
    (let k := (at0 fun x => { x with pending := [trapOf 9, trapOf 3] }).me; k.run = .running ∧ k.takesPending = true ∧ k.oldest = some (trapOf 3)) ∧
    base.me.pending = [] ∧
    (let k := (at0 fun x => { x with feWait := [⟨5, 2, 0x20, true⟩] }).me
     k.feWait.find? (fun w => decide (w.since + 65536 ≤ 65541)) = some ⟨5, 2, 0x20, true⟩ ∧ k.stop.issued = false ∧ k.takesPending = false) ∧ base.me.feWait = [] ∧
    (base.modCore 0 fun k => { k with frozen := some 3 }).myCore.frozen.isSome = true ∧
    (base.myCore.frozen = none ∧ base.me.run = .running ∧ base.isFirmware 0 0 = false ∧ base.me.stop.asked = false ∧ base.isFirmware 0 3 = true) ∧
    ((at0 fun x => { x with stop := { x.stop with issued := true } }).me.stop.issued = true ∧ base.cmdsOf 0 0 = []) ∧
    (∀ l : Bool, let k := (at0 fun x => { x with drops := [⟨tileF, 3, 0, l⟩] }).me; k.drops = [⟨tileF, 3, 0, l⟩]) ∧ (base.core 0).savedDrops = [] ∧
    ((at0 fun x => { x with loads := [⟨.b 1, 0, 0, some pa0, 8, false, 0, false, false⟩] }).me.accessing = true ∧ base.me.accessing = false ∧
      (base.core 0).barCourse 3 = false ∧ (base.core 0).barN 3 ≤ ((base.core 0).bars.get ⟨0, false⟩ 3).count ∧
      ((base.modCore 0 fun k => { k with barcfg := 0x80000 }).core 0).barN 3 = 2) ∧
    (let z := base.modCore 2 fun k => { k with barcfg := 0x20 }
     (z.core (courseOf 2 * 8 + 2)).barCourse 0 = true ∧ ∀ j, j < 2 → (z.core (courseOf 2 * 8 + j)).barCourse 0 = false) ∧
    (ended.me.run = .ending ∧ ended.me.task = some task1 ∧ ended.ctxQuiet 0 0 = true ∧ ended.me.drops = [] ∧ ended.me.pending = [] ∧
      ended.snapsOf (ended.owner 0 0) (ended.ownWindow 0 0) = [] ∧ ended.me.regs.h = [] ∧ (ended.core 0).taggedWords ended.me.winBase ended.me.winLen = [] ∧
      ended.launchQuiet 1 = true ∧ (ended.modMe fun x => { x with regs := { x.regs with h := [(1, handleF)] } }).me.regs.h ≠ []) :=
  by and_intros <;> decide +kernel

def load1 (dst : Reg) (pa : Option Nat) : PendLoad := ⟨dst, 0x200100, 0x10, pa, 8, false, 0, false, false⟩
def acc1 (op : RemoteOp) (dst : Option Reg) : RemoteAcc := ⟨op, 0x200100, vaFar, dst, 8, false, 0, true, false⟩
/-- A copy of core 0 with a piece on its way. -/
def pieceCmd : Cmd := cmdOf (some .copy)
  (.copy ⟨0, .ls 0, .ls 0x10000, 0, 0, 70000, 70000, [⟨65536, 4464, .ls 65536, .far 5 pa0, none, true⟩], 65536, false, [], none, none, []⟩) true
theorem witness_ArrivalEvents :
    (at0 fun x => { x with loads := [load1 (.b 31) none] }).me.loads = [load1 (.b 31) none] ∧ (load1 (.b 31) none).pa = none ∧ (load1 (.b 0) none).dst = .b 0 ∧
    (let k := (at0 fun x => { x with remote := [acc1 .ldh (some (.h 3))] }).me; k.loads = [] ∧ k.remote = [acc1 .ldh (some (.h 3))]) ∧
    ((acc1 .store none).dst = none ∧ (acc1 .load (some (.b 1))).refused = false ∧ base.me.late = [] ∧
      (replying base fun r => { r with asked := some (11, 5) }).me.reply.asked = some (11, 5)) ∧
    (base.me.faulted = none ∧ base.me.discarded = false ∧ Cause.ofCode 0x32 = some .handleClobber ∧ filling.findCmd 0 0 = some (cmdOf (some .vector) (.vec fillCmd) false)) ∧
    ((withCmd base pieceCmd).findCmd 0 0 = some pieceCmd ∧ 65536 ≠ 8192 ∧ 8192 < 2 ^ 32) ∧
    (base.me.task.isSome = true ∧ base.me.run ≠ .starting ∧ base.leaving 0 0 = false ∧ base.partition.get false 5 = true ∧
      base.partition.get false 6 = false ∧ (base.ctx 0 1).task = none) := by decide +kernel

/-! Events at the homes of tiles -/

def drained : Desc := { descOf 1 storeF false with returned := 0x40000000 }
theorem allocates : ∃ y t, base.allocate 0 (Shape.ofWord shapeF) = .ok (y, t) := by
  have hi : ∃ i, base.findIndex 0 = some i := by
    have h : ((List.range (base.tiles.length + 1)).find? fun k => decide (1 ≤ k + 1 ∧ k + 1 < 2 ^ 24) && (base.tiles.look (0 * 2 ^ 24 + (k + 1))).isNone) = some 0 := by
      decide +kernel
    unfold State.findIndex
    simp only [h]
    split
    · exact ⟨_, rfl⟩
    · exact ⟨_, rfl⟩
  have hr : ∃ b, base.findRun (heapRange 0 0) 256 = some b := by
    have h : ((heapRange 0 0).1 :: base.usedRuns.map fun r => roundUp r.2 256).filter (base.runFree (heapRange 0 0) 256) = [0] := by decide +kernel
    unfold State.findRun
    simp only [h]
    split
    · exact ⟨_, rfl⟩
    · exact ⟨_, rfl⟩
  obtain ⟨i, hi⟩ := hi
  obtain ⟨b, hr⟩ := hr
  have hb : ((geometry (Shape.ofWord shapeF).layout.toNat (Shape.ofWord shapeF).rows.toNat (Shape.ofWord shapeF).cols.toNat (Elem.float fp32).nibbles).2 + 255) / 256 * 256
      = 256 := by decide +kernel
  unfold State.allocate
  simp only [show elemOf (Shape.ofWord shapeF).fword = some (.float fp32) from by decide +kernel, hi, hb,
    show heapRange (Shape.ofWord shapeF).tier (Shape.ofWord shapeF).place = heapRange 0 0 from by decide +kernel, hr]
  exact ⟨_, _, rfl⟩

/-- A tile of 16,384 by 16,384 FP32 elements does not fit a slice. -/
def shapeHuge : Word := BitVec.ofNat 64 (2 * 2 ^ 46 + 16383 * 2 ^ 30 + 16383 * 2 ^ 16 + 1)
theorem no_room : ∃ e, base.allocate 0 (Shape.ofWord shapeHuge) = .error e := by
  obtain ⟨i, hi⟩ : ∃ i, base.findIndex 0 = some i := by
    have h : ((List.range (base.tiles.length + 1)).find? fun k => decide (1 ≤ k + 1 ∧ k + 1 < 2 ^ 24) && (base.tiles.look (0 * 2 ^ 24 + (k + 1))).isNone) = some 0 := by
      decide +kernel
    unfold State.findIndex
    simp only [h]
    split
    · exact ⟨_, rfl⟩
    · exact ⟨_, rfl⟩
  have hb : ((geometry (Shape.ofWord shapeHuge).layout.toNat (Shape.ofWord shapeHuge).rows.toNat (Shape.ofWord shapeHuge).cols.toNat
      (Elem.float fp32).nibbles).2 + 255) / 256 * 256 = 2 ^ 30 := by decide +kernel
  have hr : base.findRun (heapRange 2 0) (2 ^ 30) = none := by
    have h : ((heapRange 2 0).1 :: base.usedRuns.map fun r => roundUp r.2 256).filter (base.runFree (heapRange 2 0) (2 ^ 30)) = [] := by decide +kernel
    unfold State.findRun
    simp only [h]
  unfold State.allocate
  simp only [show elemOf (Shape.ofWord shapeHuge).fword = some (.float fp32) from by decide +kernel, hi, hb,
    show heapRange (Shape.ofWord shapeHuge).tier (Shape.ofWord shapeHuge).place = heapRange 2 0 from by decide +kernel, hr]
  exact ⟨_, rfl⟩

theorem witness_TileHomesAndAnswers :
    (tiled.desc tileF = some (descOf 1 storeF false) ∧ (0 : Word) + BitVec.ofNat 64 (2 ^ (31 : BitVec 5).toNat) = (descOf 1 storeF false).total ∧
      drained.returned + BitVec.ofNat 64 (2 ^ (0 : BitVec 5).toNat) ≠ drained.total ∧ ((descOf 1 storeF false).returned + 1).toNat < 2 ^ 62 ∧
      (descOf 1 storeF false).scale = none ∧ (3 ≤ (descOf 1 storeF false).rows.toNat ∧ 7 ≤ (descOf 1 storeF false).cols.toNat)) ∧
    (({ tiled with oldBlocks := [(0, 256)] } : State).oldBlocks[0]? = some (0, 256) ∧ tiled.storageInUse (0, 256) = false ∧
      (tiled.modCore 0 fun k => { k with pins := [0] }).storageInUse (0, 256) = true) ∧
    (ShapeWord shapeF ∧ (∃ y t, base.allocate 0 (Shape.ofWord shapeF) = .ok (y, t)) ∧ shapeF.getLsbD 62 = false ∧
      (∃ e, base.allocate 0 (Shape.ofWord shapeHuge) = .error e) ∧ shapeHuge.getLsbD 62 = false) ∧
    (base.me.late = [] ∧ (replying base fun r => { r with asked := some (2, 0) }).me.reply.asked = some (2, 0) ∧
      (replying base fun r => { r with asked := some (1, tileF) }).me.reply.asked = some (1, tileF) ∧
      (replying base fun r => { r with asked := some (0, tileF) }).me.reply.asked = some (0, tileF) ∧
      (at0 fun x => { x with refills := [(1, 2, tileF)] }).me.refills = [(1, 2, tileF)]) :=
  ⟨by decide +kernel, by decide +kernel, ⟨witness_ShapeWord _ (by decide +kernel), allocates, by decide +kernel, no_room, by decide +kernel⟩, by decide +kernel⟩

/-! Events of the coherence protocol -/

def dirIs (d : DirState) : State := { State.reset with dir := [(line0, d)] }
/-- A line of host memory: its homes ask the bridge first. -/
def hostLine : Nat := mkPa 3 0 0 0 / 128
def behind : State := { State.reset with homeWait := [.hostHalfRequest line0 0 ⟨true, false⟩] }
theorem witness_CoherenceRequests :
    (State.reset.incOk 7 line0 false = true ∧ State.reset.incOk 7 line0 true = false ∧ true ≠ State.reset.inc 7 ∧ true ≠ State.reset.inc 256) ∧
    (State.reset.dir.look line0 = none ∧ (State.reset.makeEntry line0).dir.look line0 = none ∧ (State.reset.makeEntry line0).innermost line0 = none) ∧
    ((∀ e ∈ [Instr.gets 7 line0 false, .getm 7 line0 false, .upg 7 line0 false, .getu 7 line0 false, .putm 7 line0 false, .pute 7 line0 false,
        .putu 7 line0 false 0 [(0, true, 5)]], Serves State.reset e) ∧
      behind.homeServes = false ∧ (∃ b ∈ behind.homeWait, line0 ∈ behind.homeLines b)) ∧
    (State.reset.halvesToAsk line0 false = [] ∧ State.reset.halvesToAsk line0 true = [] ∧ State.reset.halvesToAsk hostLine false ≠ [] ∧
      State.reset.halvesToAsk hostLine true ≠ []) ∧
    (let z : State := { State.reset with halves := [(2 * hostLine, .S), (2 * hostLine + 1, .S)] }
     z.halvesToAsk hostLine false = [] ∧ z.halvesToAsk hostLine true ≠ [] ∧ z.dir.look hostLine = none) ∧
    ((dirIs (.S (.cores [7]))).dir.look line0 = some (.S (.cores [7])) ∧ 7 ∈ [7] ∧ 8 ∉ [7] ∧ (dirIs (.S (.cores [1, 2, 3, 4]))).dir.look line0 = some (.S (.cores [1, 2, 3, 4]))) ∧
    ((dirIs (.EM 9)).dir.look line0 = some (.EM 9) ∧ 9 ≠ 7 ∧ (dirIs (.EM 7)).dir.look line0 = some (.EM 7)) ∧
    ((dirIs (.U [7, 9])).dir.look line0 = some (.U [7, 9]) ∧ 7 ∈ [7, 9] ∧ 8 ∉ [7, 9]) := by
  and_intros <;> try unfold Serves
  all_goals decide +kernel

def lineIs (st : LineState) : L1Line := L1Line.new st
def l1Is (l : L1Line) : State := base.setL1 0 line0 l
/-- Eight lines of the set of the first line, each leased by a context of core 0; or none leased, one of them in a given state. -/
def leasedSet : State := ([0, 1, 2, 3].foldl (fun s x => s.modCtx 0 x fun k =>
  { k with leases := [⟨line0 + 64 * (2 * x + 1), .held, 5, 9⟩, ⟨line0 + 64 * (2 * x + 2), .held, 5, 9⟩] }) fullSet)
theorem witness_CoherenceLines :
    base.l1 7 line0 = none ∧ (l1Is (lineIs .ISD)).l1 0 line0 = some (lineIs .ISD) ∧ (∀ x, ((l1Is (lineIs .ISD)).ctx 0 x).loads = []) ∧
    (let z := (l1Is (lineIs .ISD)).modCtx 0 0 fun k => { k with loads := [load1 (.b 5) (some pa0)] }
     NoLoadsBut z 0 0 ∧ (z.ctx 0 0).loads = [load1 (.b 5) (some pa0)] ∧ lineOf pa0 = line0 ∧ z.poisoned pa0 8 = false) ∧
    ({ lineIs .ISD with lost := true } : L1Line).lost = true ∧ (lineIs .SMA).got < 1 ∧ 1 ≤ ({ lineIs .SMA with got := 1 } : L1Line).got ∧
    ((lineIs .IUA).waits = true ∧ (lineIs .ISD).waits = true ∧ (lineIs .IUA).grant = none ∧ (lineIs .E).waits = false ∧ (lineIs .IUA).put = false ∧
      (let l : L1Line := { lineIs .SMA with grant := some ⟨3, 1, true⟩, got := 1 }; l.got + 1 < 3 ∧ l.gotHalves < 1 ∧ l.got < 3) ∧
      (let l : L1Line := { lineIs .SMA with grant := some ⟨2, 0, true⟩, got := 1 }; 2 ≤ l.got + 1 ∧ 0 ≤ l.gotHalves ∧ l.lost = false)) ∧
    (({ lineIs .IIA with put := true } : L1Line).put = true ∧ base.probeHeld 0 line0 = false ∧
      (base.modCore 0 fun k => { k with heldProbes := [.recall 0 7 line0] }).probeHeld 0 line0 = true) ∧
    ((leasing ⟨line0, .held, 5, 9⟩).leasedOn 0 line0 = true ∧ (replying base fun r => { r with line := some line0 }).lineWanted 0 line0 = true ∧
      base.leasedOn 0 line0 = false ∧ base.lineWanted 0 line0 = false) ∧
    (base.invWaits 0 line0 = false ∧ (leasing ⟨line0, .held, 5, 9⟩).invWaits 0 line0 = true ∧ (l1Is (lineIs .U)).lineWanted 0 line0 = false) ∧
    (∀ i, i < 8 → base.l1 (8 * 1 + i) line0 = none ∧ base.invWaits (8 * 1 + i) line0 = false) ∧
    ((base.waysOf 0 line0).length < 8 ∧ 8 ≤ (fullSet.waysOf 0 line0).length ∧ 8 ≤ (leasedSet.waysOf 0 line0).length ∧
      (∀ e ∈ leasedSet.waysOf 0 line0, leasedSet.leasedOn 0 e.1 = true) ∧ fullSet.victims 0 line0 ≠ []) ∧
    (∃ y, fullSet.roomFor 0 line0 = some y) :=
  ⟨by decide +kernel, by decide +kernel, no_loads _ _ (by decide +kernel), ⟨by unfold NoLoadsBut; decide +kernel, by decide +kernel⟩, by decide, by decide, by decide,
    by decide, by decide +kernel, by decide +kernel, by decide +kernel, by decide +kernel, by decide +kernel, by
      have h : ¬ (fullSet.waysOf 0 line0).length < 8 := by decide +kernel
      have hv : fullSet.victims 0 line0 = (line0 + 64, L1Line.new .M) :: (fullSet.victims 0 line0).drop 1 := by decide +kernel
      unfold State.roomFor
      rw [if_neg h, hv]
      exact ⟨_, rfl⟩⟩

/-- The first line lies in a live range, with or without its shadow. -/
def shadowed (hs : List Shadow) : State := { base with snaps := [(0, ⟨1, 1, 0, 0, line0, 4⟩)], snapGen := 1, shadows := hs }
theorem full_pool : 129024 ≤ (shadowed (List.replicate 129024 ⟨0, 1, line0, [], [], []⟩)).poolUse (lineDie line0) := by
  show 129024 ≤ ((List.replicate 129024 (⟨0, 1, line0, [], [], []⟩ : Shadow)).filter fun h => lineDie h.line == lineDie line0).length
  rw [List.filter_replicate_of_pos (by decide +kernel)]
  exact Nat.le_of_eq List.length_replicate.symm
def acquired : State := leasing ⟨line0, .acquiring, 5, 0⟩
/-- A core that holds no task, with one line. -/
def idleCore (st : LineState) : State := State.reset.modCore 0 fun k => { k with ctxs := [], l1 := [(line0, L1Line.new st)] }
theorem witness_ShadowLeaseAndPowerEvents :
    (∀ e ∈ [Instr.shadow ⟨0, false⟩ 0 line0, .hostHalfRequest line0 0 ⟨true, false⟩], Serves State.reset e) ∧
    (base.incOk 0 line0 false = true ∧ (shadowed []).openSums line0 = []) ∧ base.innermost line0 = none ∧ (shadowed []).innermost line0 = some (0, ⟨1, 1, 0, 0, line0, 4⟩) ∧
    ((shadowed [⟨0, 0, line0, [], [], []⟩]).hasShadow 0 line0 = true ∧ (shadowed []).hasShadow 0 line0 = false ∧ (shadowed []).poolUse (lineDie line0) < 129024 ∧
      (∀ w, w < 16 → (shadowed []).tag (line0 * 128 + 8 * w) = false)) ∧
    129024 ≤ (shadowed (List.replicate 129024 ⟨0, 1, line0, [], [], []⟩)).poolUse (lineDie line0) ∧
    (base.l1 0 line0 = some (L1Line.new .M) ∧ (at0 fun x => { x with shadowWait := some line0 }).me.shadowWait = some line0) ∧
    (acquired.me.leases = [⟨line0, .acquiring, 5, 0⟩] ∧ acquired.l1 0 line0 = some (L1Line.new .M) ∧ acquired.leasedByOther 0 0 line0 = false) ∧ (acquired.me.leases[0]? = some ⟨line0, .acquiring, 5, 0⟩) ∧
    (∀ l ∈ base.me.leases, l.state ≠ .acquiring) ∧
    ((leasing ⟨line0, .held, 5, 0⟩).me.leases = [⟨line0, .held, 5, 0⟩] ∧ 0 ≤ base.cycle ∧ base.cycle < (⟨line0, .held, 5, 9⟩ : LeaseSlot).until_) ∧
    (∀ y, y ≠ 0 → ((leasing ⟨line0, .held, 5, 0⟩).ctx 0 y).leases = []) ∧
    (base.dir = [] ∧ base.agenda = [] ∧ (dirIs (.EM 7)).dir = [(line0, .EM 7)] ∧ 7 ≠ 8 ∧ 7 ≠ 256 ∧
      ({ State.reset with agenda := [.fwdGetm 7 8 line0] } : State).agenda = [.fwdGetm 7 8 line0]) ∧
    (replying firm fun r => { r with asked := some (7, 0) }).me.reply.asked = some (7, 0) ∧
    ((l1Is (lineIs .ISD)).lineQuiet line0 = false ∧ State.reset.incOk 256 5 false = true ∧ Serves State.reset (.hostHalfRequest 5 1 ⟨false, false⟩) ∧
      paTier (5 * 128) = 0 ∧ ({ base with dir := [(5, .EM 0)], cores := [(0, { core0 with l1 := [(5, L1Line.new .E)] })] } : State).l1 0 5 =
        some (L1Line.new .E)) ∧
    (((idleCore .M).core 0).holdsTask = false ∧ (∀ e ∈ ((idleCore .M).core 0).ctxs, e.2.run = .idle ∧ e.2.leases = []) ∧ ((idleCore .M).core 0).cmds = [] ∧
      ((idleCore .M).core 0).l1 = [(line0, L1Line.new .M)] ∧ (base.core 0).holdsTask = true ∧ base.overCap = false) :=
  ⟨by unfold Serves; decide +kernel, by decide +kernel, by decide +kernel, by decide +kernel, by decide +kernel, full_pool, by decide +kernel,
    by decide +kernel, by decide +kernel, by decide +kernel, by decide +kernel, fun y hy => by
      have := ctx_all (fun k => decide (k.leases = [])) (leasing ⟨line0, .held, 5, 0⟩) 0 (· == 0) (by decide +kernel) y (by simpa using hy)
      simpa using this, by decide +kernel, by decide +kernel, by unfold Serves; decide +kernel, by decide +kernel⟩

/-- Package 5 may read and write the first frame of near memory of die 0. -/
def exporting : State := { noLine with exports := [(0, BitVec.ofNat 64 (2 ^ 63 + 2 ^ 62 + 1 * 2 ^ 60 + 1 * 2 ^ 58))] }
def readOnly : State := { noLine with exports := [(0, BitVec.ofNat 64 (2 ^ 63 + 1 * 2 ^ 60 + 1 * 2 ^ 58))] }
def keeping : State := { exporting with reserves := [(keeper 5 0 0, lineOf pa0)] }
/-- An access of eight bytes of a kind, at its home. -/
def serve8 (kind : Nat) : Instr := .homeAccess 5 0 0 (kind + 16 * 8) pa0 0 0 0 0 []
theorem witness_HomeAccesses :
    (8 < 16 ∧ exporting.partition.get false 5 = true ∧ exporting.partition.get false 6 = false ∧ paExists pa0 = true ∧ isHubSpace pa0 = false ∧
      frameReserved (paTier pa0) (paFrame pa0) = false ∧ exporting.exported 1 pa0 false = true ∧ exporting.exported 1 pa0 true = true ∧
      readOnly.exported 1 pa0 true = false) ∧
    ((∀ kind ∈ [0, 1, 2, 3, 4, 5, 6, 10], Serves exporting (serve8 kind)) ∧ (l1Is (lineIs .ISD)).homeReady (serve8 0) = false ∧
      (∀ kind ∈ [7, 8, 9], Serves exporting (.homeAccess 5 0 0 kind pa0 0 16 0 128 [1, 0]))) ∧
    (({ exporting with poison := [(pa0 / 32, true)] } : State).poisoned pa0 8 = true ∧ exporting.poisoned pa0 8 = false) ∧
    ((exporting.writeHandle pa0 handleF).tag pa0 = true ∧ exporting.tag pa0 = false ∧ exporting.anyTag pa0 16 = false ∧
      (exporting.takeToWrite pa0 8).isSome = true ∧ ((exporting.writeHandle pa0 handleF).takeToWrite pa0 8).isSome = true) ∧
    ((keeper 5 0 0, lineOf pa0) ∈ keeping.reserves ∧ (keeper 5 0 0, lineOf pa0) ∉ exporting.reserves ∧ (∀ kind ∈ [0, 1, 2, 3, 4, 5, 6], Serves keeping (serve8 kind)) ∧
      ({ keeping with reserves := [] } : State).takeToWrite pa0 8 ≠ none) ∧
    (pa0 % 128 + 8 ≤ 128 ∧ bits (16 : Word) 0 32 = 16 ∧ exporting.accessFault 1 0 pa0 8 0 = none ∧
      (exporting.writeHandle pa0 handleF).accessFault 1 0 pa0 8 0 = some .handleClobber) := by
  and_intros <;> try unfold Serves
  all_goals decide +kernel


/-! Events of the engines -/

/-- An MMA of the FP32 tiles of 4 by 8 and 8 by 8 into a region, over a window. -/
def descB : Desc := { descOf 1 (mkPa 1 0 4 0) false with rows := 7 }
def tileB : BitVec 40 := 8
def mmaOp (r0 rows cols : Nat) : CmdOp := .mma false 1 1 tileF tileB { regionF with count := rows * cols } r0 0 rows cols
def mmaCmd (r0 rows cols : Nat) (running : Bool) : Cmd := cmdOf (some .matrix) (mmaOp r0 rows cols) running
def mmaOn (c : Cmd) : State := withCmd { tiled with tiles := [(6, descOf 0x14 (mkPa 1 0 3 0) false), (8, descB), (0x1000005, descOf 1 storeF false)] } c
def operandsF : Operands := ⟨descOf 1 storeF false, descB, none, none, .chunks⟩
def productF : Product := ⟨operandsF, 3, 0, 1, 1⟩
def runningMma : Cmd := mmaCmd 3 1 1 true
def storedBad : State := { mmaOn runningMma with poison := [((storeF + 3 * 32) / 32, true)] }

theorem witness_MatrixEvents :
    (let c := mmaCmd 3 1 1 false
     Goes (mmaOn c) 0 ∧ ((mmaOn c).core 0).cmds = [c] ∧ c.engine = some .matrix ∧ c.running = false ∧ ((mmaOn c).core 0).arrivals = [] ∧
     (((mmaOn c).core 0).ctx c.ctx).forkReady c.bundle = true ∧ c.op = mmaOp 3 1 1) ∧
    (mmaOn (mmaCmd 3 1 1 false)).operands 1 1 tileF tileB = .ok operandsF ∧
    (3 + 1 ≤ operandsF.a.rows.toNat + 1 ∧ 0 + 1 ≤ operandsF.b.cols.toNat + 1 ∧ operandsF.a.rows.toNat + 1 < 4 + 1) ∧
    (mmaOn (mmaCmd 3 1 1 false)).operands 1 2 tileF tileB = .error .formatMismatch ∧ (base.core 0).cmds = [] ∧
    RunsMatrix (mmaOn runningMma) 0 runningMma false { regionF with count := 1 } operandsF 3 0 1 1 ∧
    (runningMma.fetched = false ∧ runningMma.progress < blockCount 1 1 ∧ operandsF.a.cols.toNat + 1 ≤ runningMma.steps + 32 ∧
      runningMma.steps + 32 < ({ operandsF with a := { descOf 1 storeF false with cols := 32 } } : Operands).a.cols.toNat + 1 ∧
      storedBad.blocksPoisoned (productF.request 0 0 8) = true ∧ (mmaOn runningMma).blocksPoisoned (productF.request 0 0 0) = false ∧
      (∃ b ∈ productF.request 0 0 0, b ∉ ((mmaOn runningMma).core 0).pins) ∧ productF.early 0 0 = true ∧ productF.early 0 8 = false ∧
      productF.awaitsPanel 0 0 = true ∧ productF.awaitsPanel 0 8 = false ∧
      (∀ b ∈ productF.request 0 0 8, b ∈ (((mmaOn runningMma).modCore 0 fun k => { k with pins := productF.request 0 0 8 }).core 0).pins)) ∧
    (Goes (mmaOn runningMma) 0 ∧ ({ runningMma with fetched := true } : Cmd).fetched = true ∧ ((mmaOn runningMma).core 0).lsTags = [] ∧
      blockCount 1 1 ≤ runningMma.progress + 1 ∧ 0 + 1 < blockCount 33 1 ∧ ∀ m ∈ ((mmaOn runningMma).core 0).cmds, m.serial = runningMma.serial → m = runningMma) ∧
    ((base.modCore 0 fun k => { k with frozen := some 3 }).core 0).frozen = some 3 ∧
    (operandsF.acc = .chunks ∧ ({ operandsF with acc := .integers } : Operands).acc = .integers ∧ ({ operandsF with acc := .groups } : Operands).acc = .groups) ∧
    (let c : Cmd := { cmdOf (some .vector) (.vec fillCmd) true with feWait := some (5, 16) }
     (withCmd base c).findCmd 0 0 = some c ∧ ((withCmd base c).core 0).isFull (16 * 16) = false ∧ 5 + 65536 ≤ 65541) :=
  ⟨⟨⟨by decide +kernel, by decide +kernel⟩, by decide +kernel, rfl, rfl, by decide +kernel, by decide +kernel, rfl⟩, okIs_eq (by decide +kernel),
    by decide +kernel, errIs_eq (by decide +kernel), by decide +kernel,
    ⟨by decide, by decide +kernel, ⟨1, 1, tileF, tileB, rfl, okIs_eq (by decide +kernel)⟩⟩, by decide +kernel,
    ⟨⟨by decide +kernel, by decide +kernel⟩, by decide +kernel⟩, by decide +kernel, by decide +kernel, by decide +kernel⟩

/-- A vector command on two elements of a format (one for a reduction), with sources at 0x100 and 0x200. -/
def vcmd (op : VOp) (x : Elem) (fw : BitVec 16) (count : Nat) (t : Bool) : VCmd :=
  let r (at_ count : Nat) : Region := ⟨0, at_, 8, count, fw, x, false, false⟩
  ⟨op, 0, false, false, r 0 count, some (r 0x100 2), if t then some (r 0x200 2) else none, 0, 0⟩
def runningVec (v : VCmd) (e : Engine) : State := withCmd base (cmdOf (some e) (.vec v) true)
theorem runs_vector (v : VCmd) (e : Engine) (h : decide (∀ r ∈ v.reads, r.fe = false) = true) :
    RunsVector (runningVec v e) 0 e (cmdOf (some e) (.vec v) true) v := by
  refine ⟨⟨rfl, rfl⟩, by cases e <;> rfl, rfl, fun r hr => ?_, rfl⟩
  have := of_decide_eq_true h r hr
  simp [Region.ready, this]

/-- An element-wise form of each class, a special function, a fill; and the elements of their regions. -/
theorem witness_VectorEvents :
    (Goes filling 0 ∧ (filling.core 0).cmds = [cmdOf (some .vector) (.vec fillCmd) false] ∧ (cmdOf (some .vector) (.vec fillCmd) false).running = false ∧
      (filling.core 0).arrivals = [] ∧ ((filling.core 0).ctx 0).forkReady 0 = true) ∧
    (∀ e ∈ [(vcmd .add (.float fp32) 1 2 true, Engine.vector), (vcmd .add .cf32 4 2 true, .vector), (vcmd (.iadd true) .q16 0x17 2 true, .vector),
        (vcmd (.cmp .lt) (.int 8 true) 0x14 2 true, .vector), (vcmd .clampS (.int 32 true) 0x10 2 false, .vector),
        (vcmd .rcp (.float fp32) 1 2 false, .sfu), (vcmd .cvtS (.float bf16) 2 2 true, .vector)],
      RunsVector (runningVec e.1 e.2) 0 e.2 (cmdOf (some e.2) (.vec e.1) true) e.1 ∧ (∃ s, e.1.s = some s ∧ s.count = e.1.d.count) ∧
        ∀ t, e.1.t = some t → t.count = e.1.d.count) ∧
    (RunsVector (runningVec fillCmd .vector) 0 .vector (cmdOf (some .vector) (.vec fillCmd) true) fillCmd ∧ fillCmd.op = .fill ∧
      fillCmd.s = none ∧ fillCmd.t = none ∧ 0 < fillCmd.d.count) ∧
    (fillCmd.d.tagged (((runningVec fillCmd .vector).modCore 0 fun k => k.writeHandle 0x100 handleF).core 0) 0 = true) ∧
    (Goes base 0 ∧ (base.core 0).cmds = []) := by
  refine ⟨⟨⟨rfl, rfl⟩, rfl, rfl, by decide +kernel, by decide +kernel⟩, fun e he => ?_, ⟨runs_vector _ _ (by decide +kernel), rfl, rfl, rfl, by decide⟩,
    by decide +kernel, ⟨rfl, rfl⟩, rfl⟩
  simp only [List.mem_cons, List.not_mem_nil, or_false] at he
  rcases he with rfl | rfl | rfl | rfl | rfl | rfl | rfl <;>
    exact ⟨runs_vector _ _ (by decide +kernel), ⟨_, rfl, rfl⟩, fun t ht => by cases ht <;> rfl⟩

theorem witness_VectorSelections :
    (∀ v ∈ [vcmd .sumF (.float fp32) 1 1 false, vcmd .sumI (.int 32 true) 0x10 1 false, vcmd .rmax (.float fp32) 1 1 false,
        vcmd (.topk true) (.float fp32) 1 2 false, vcmd .gath (.int 32 true) 0x10 2 true, vcmd .scat (.int 32 true) 0x10 2 true,
        vcmd (.cmul true) .cf32 4 2 true, vcmd (.bfly false) .cf32 4 2 true, fillCmd],
      RunsVector (runningVec v .vector) 0 .vector (cmdOf (some .vector) (.vec v) true) v) ∧
    -- the words of the sources read 0: indexes inside, numbers that are no NaN; one of them -1, one a NaN
    (let r := regionF; let k := base.myCore; let bad := (base.modCore 0 fun k => k.lsWrite 0x100 4 0xFFFFFFFF).myCore
     (Elem.int 32 true).rawInt (r.get k 0) = 0 ∧ (Elem.int 32 true).rawInt (r.get bad 0) = -1 ∧ (r.elem.value (r.get k 0)).isNan = false ∧
     (r.elem.value (r.get bad 0)).isNan = true) ∧
    (2 = 2 * 1 ∧ (fillCmd.s = none ∧ fillCmd.t = none) ∧ fp32.finite = false ∧ (2 : Int) ^ (8 - 1) % 2 ^ 8 = 128) := by
  refine ⟨fun v hv => ?_, by decide +kernel, by decide +kernel⟩
  simp only [List.mem_cons, List.not_mem_nil, or_false] at hv
  rcases hv with rfl | rfl | rfl | rfl | rfl | rfl | rfl | rfl | rfl <;> exact runs_vector _ _ (by decide +kernel)

/-- Copies of the window: 70,000 bytes of which nothing has started, of which a piece is on its way, or to another window. -/
def copyCmd (src : CopySrc) (dst : CopyDst) (started : Nat) (pieces : List Chunk) : CopyCmd :=
  ⟨0, src, dst, 0, 0, 70000, started, pieces, 0, false, [], none, none, []⟩
def copyOn (k : CopyCmd) (running : Bool) : State := withCmd tiled (cmdOf (some .copy) (.copy k) running)
def piece (sent : Bool) (dst : Place) : Chunk := ⟨0, 65536, .ls 0, dst, none, sent⟩
/-- Translations that a copy keeps: of its first 100 bytes, and of a chunk. -/
def keptA : Kept := ⟨0, 100, .ls 0, false⟩
def keptB : Kept := ⟨0, 65536, .ls 0x10000, false⟩
def copyNew : CopyCmd := copyCmd (.ls 0) (.newTile sliceShape 4 none) 0 []
def moveOn (t : BitVec 40) (op : CmdOp) (d : Desc) : State := withCmd { tiled with tiles := [(tileKey t, d)] } (cmdOf (some .copy) op false)
def moveOp (target : Word) (migr : Bool) (dest : Option (Nat × Nat)) : CmdOp := .move 6 target 100 0 migr dest
theorem witness_CopyEvents :
    (let k := copyCmd (.ls 0) (.ls 0x10000) 0 []
     Goes (copyOn k false) 0 ∧ ((copyOn k false).core 0).cmds = [cmdOf (some .copy) (.copy k) false] ∧ (cmdOf (some .copy) (.copy k) false).wasCut = false ∧
     ((copyOn k false).core 0).arrivals = [] ∧ (((copyOn k false).core 0).ctx 0).forkReady 0 = true ∧
     (∀ t o, k.src ≠ .tile t o) ∧ (∀ w h u, k.dst ≠ .newTile w h u) ∧ (copyOn k true).findCmd 0 0 = some (cmdOf (some .copy) (.copy k) true) ∧
     k.inFlight = [] ∧ k.started < k.len ∧ k.cut = false ∧ k.srcKept = none ∧ k.dstKept = none) ∧
    (copyNew.dst = .newTile sliceShape 4 none ∧ ∀ t o, copyNew.src ≠ .tile t o) ∧
    (let k := copyCmd (.tile tileF 0) (.ls 0) 0 []; k.src = .tile tileF 0 ∧ (copyOn k false).isHome tileF = true ∧ (descOf 1 storeF true).opened = true) ∧
    (let d := descOf 0x14 (mkPa 1 0 3 0) false
     (moveOn 6 (moveOp 1 false none) d).desc 6 = some d ∧ d.moving = false ∧ d.opened = false ∧ placeOf d.storage.toNat = (bits (1 : Word) 2 7, bits (1 : Word) 0 2) ∧
     placeOf d.storage.toNat ≠ (bits (0 : Word) 2 7, bits (0 : Word) 0 2) ∧
     (moveOn 6 (moveOp 1 false (some (0, 256))) d).findCmd 0 0 = some (cmdOf (some .copy) (moveOp 1 false (some (0, 256))) false)) ∧
    (let k : CopyCmd := { copyCmd (.ls 0) (.ls 0x10000) 96 [] with srcKept := some keptA, dstKept := some keptB }
     k.inFlight.length < 2 ∧ k.srcKept = some keptA ∧ k.dstKept = some keptB ∧ keptA.first ≤ k.started ∧ k.started < keptA.upto ∧ k.started < keptB.upto ∧
     keptA.place.isFar = false ∧ keptB.place.isFar = false) ∧
    (let z := copyOn (copyCmd (.va 0x800000) (.ls 0) 0 []) true; z.translate 0 0 .copyRead (0x800000 + 0) = .error .spanMiss) ∧
    (let k := copyCmd (.ls 0) (.ls 0x10000) 65536 [piece false (.ls 0x10000)]
     k.inFlight = [piece false (.ls 0x10000)] ∧ (piece false (.ls 0x10000)).got = none ∧ (piece true .window).sent = true ∧ k.carry = [] ∧
     ((copyOn k true).core 0).lsAnyTag 0x10000 65536 = false ∧
     (((copyOn k true).modCore 0 fun q => q.writeHandle 0x10000 handleF).core 0).lsTag 0x10000 = true ∧
     (((copyOn k true).modCore 0 fun q => q.writeHandle 0x10000 handleF).core 0).lsAnyTag 0x10000 16 = true ∧ ¬ k.len ≤ k.landed + 65536) ∧
    ((copyCmd (.ls 0) (.ls 0) 70000 []).len ≤ (copyCmd (.ls 0) (.ls 0) 70000 []).started) ∧
    ((copyCmd (.ls 0) (.remote farWindow) 65536 [piece true .window]).dst = .remote farWindow ∧ (piece true .window).dst = .window) ∧
    (base.findCmd 0 0 = none ∧ 0 ≠ noCore ∧ 2 ≤ [1, (0 : Byte)].length) ∧
    ((base.ctx 0 1).task = none ∧ base.openTo 0 0 5 = true ∧ base.partition.get false 6 = false ∧ 65520 + 16 ≤ base.me.winLen ∧
      base.me.winLen < 65536 + 16 ∧ (base.core 0).lsAnyTag (base.me.winBase + 65520) 16 = false) ∧
    (100 ≠ 0 ∧ ¬ (101 - 0 ≤ 100) ∧ 100 - 0 ≤ 100) :=
  ⟨⟨⟨rfl, rfl⟩, rfl, rfl, by decide +kernel, by decide +kernel, (fun _ _ h => by cases h), (fun _ _ _ h => by cases h), rfl, rfl, by decide, rfl, rfl, rfl⟩,
    ⟨rfl, fun _ _ h => by cases h⟩, by decide +kernel, by decide +kernel, by decide +kernel, errIs_eq (by decide +kernel), by decide +kernel, by decide,
    by decide +kernel, by decide +kernel, by decide +kernel, by decide⟩

def sealOn (running : Bool) : State := withCmd tiled (cmdOf (some .copy) (.seal 1 handleF regionF) running)
def updOp (read : Bool) (w : UpdWrite) : CmdOp := .update 1 ⟨false, 31, 6⟩ (some handleF) read w
theorem witness_TileWriteEvents :
    (Goes (sealOn true) 0 ∧ (sealOn true).findCmd 0 0 = some (cmdOf (some .copy) (.seal 1 handleF regionF) true) ∧ regionF.ready ((sealOn true).core 0) = true ∧
      (sealOn true).desc handleF.tile = some (descOf 1 storeF false)) ∧ (cmdOf (some .copy) (.seal 1 handleF regionF) false).running = false ∧
    (let z := withCmd tiled (cmdOf none (updOp false .opened) false)
     Goes z 0 ∧ z.findCmd 0 0 = some (cmdOf none (updOp false .opened) false) ∧ (z.ctx 0 0).drops.length < 16 ∧ z.desc tileF = some (descOf 1 storeF false) ∧
     z.desc 6 = some (descOf 0x14 (mkPa 1 0 3 0) false)) ∧
    16 ≤ (at0 fun x => { x with drops := List.replicate 16 ⟨1, 0, 0, false⟩ }).me.drops.length ∧
    (let z := withCmd tiled (cmdOf (some .copy) (updOp true (.region 0 regionF)) true)
     z.findCmd 0 0 = some (cmdOf (some .copy) (updOp true (.region 0 regionF)) true) ∧ z.desc ((some handleF).getD ⟨false, 31, 6⟩).tile = some (descOf 1 storeF false)) :=
  ⟨⟨⟨rfl, rfl⟩, by decide +kernel⟩, rfl, ⟨⟨rfl, rfl⟩, by decide +kernel⟩, by decide +kernel, by decide +kernel⟩

/-! Events of the group multiply and of the fabric -/

/-- A member of a group of two, of rank 0 at package 0, under the key (0, 0); its announcement and its partner's. -/
def gmma (mc : Bool) : Gmma := ⟨mc, 1, 1, tileF, tileB, 9, groupWord, 100, 5, true, 1⟩
def gmmaCmd (mc : Bool) : Cmd := cmdOf (some .matrix) (.gmma (gmma mc)) true
def ann (r : Nat) : Ann := ⟨r, 3, 4, 8, 8, 7, 0⟩
def gmmaAt (rank : Nat) : Gmma := { gmma false with desc := BitVec.ofNat 64 (3 * 2 ^ 56 + rank * 2 ^ 53 + 2 ^ 51), entered := true }
def entry (anns : List Ann) (st : AgreeState) (blocks : List (List Word)) : Agree := ⟨0, 0, anns, some 0, st, blocks, 0, none, none⟩
def grouped (a : List Agree) : State := { withCmd base (gmmaCmd false) with agree := a }
theorem witness_GroupEvents :
    ((∀ e ∈ (grouped []).agree, ¬ (e.gid = 0 ∧ e.seq = 0)) ∧ (grouped []).agree.length < 512 ∧ 512 ≤ (grouped (List.replicate 512 ⟨1, 0, [], none, .gathering, [], 0, none, none⟩)).agree.length) ∧
    (let a := entry [ann 0] .gathering []
     (grouped [a]).agree = [a] ∧ a.localRank = some 0 ∧ (0 : Nat) ≠ 1 ∧ a.state = .gathering ∧ (grouped [a]).gmmasOf 0 0 = [(0, gmmaCmd false, gmma false)] ∧
     (let held := { a with anns := a.anns.filter (fun (b : Ann) => !(b.rank == 1 && b.mask == 3)) ++ [ann 1] }
      held.own = some (ann 0) ∧ held.complete (ann 0) = true ∧ held.consistent (ann 0) = true ∧ (gmma false).rank + 1 ≠ (gmma false).size ∧
        (gmmaAt 1).rank + 1 = (gmmaAt 1).size) ∧
     (let held := { a with anns := a.anns ++ [{ ann 1 with k := 9 }] }; held.complete (ann 0) = true ∧ held.consistent (ann 0) = false) ∧
     (a.complete (ann 0) = false) ∧ a.result = none) ∧
    (({ entry [] .gathering [] with localRank := none } : Agree).localRank = none) ∧
    ((entry [] .agreed (List.replicate 15 [])).blocks.length < 16 ∧ 16 ≤ (entry [] .agreed (List.replicate 16 [])).blocks.length ∧ base.gmmasOf 0 0 = []) ∧
    ((entry [] (.aborted 1 0) []).state = .aborted 1 0 ∧ ({ entry [] (.aborted 1 1) [] with heard := some (0, 3) } : Agree).heard = some (base.cycle, 3) ∧ (gmma true).mc = true ∧ (gmma true).gid = 0 ∧ (gmma true).seq = 0) ∧
    ((grouped [entry [ann 0] .gathering []]).gathering 0 = some (gmmaCmd false, gmma false) ∧ ¬ (105 < (gmma false).takenAt + (gmma false).timeout) ∧
      104 < (gmma false).takenAt + (gmma false).timeout) ∧
    -- a member of rank 0 or 1 has computed the operands of its first block
    (let z := { mmaOn { cmdOf (some .matrix) (.gmma (gmmaAt 1)) true with fetched := true } with agree := [entry [ann 0, ann 1] .agreed [[0]]] }
     Goes z 0 ∧ ((z.core 0).cmds.find? fun q => q.engine == some .matrix && q.running) = some { cmdOf (some .matrix) (.gmma (gmmaAt 1)) true with fetched := true } ∧
     z.product { cmdOf (some .matrix) (.gmma (gmmaAt 1)) true with fetched := true } = some operandsF.whole ∧ 0 < (gmmaAt 1).blocks ∧ 0 < (gmmaAt 1).rank ∧
     (gmma false).rank + 1 < (gmma false).size) ∧
    ((entry [] .agreed []).ahead < 16 ∧ 16 ≤ ({ entry [] .agreed [] with ahead := 16 } : Agree).ahead) ∧
    ((State.reset.core 0).cmds = [] ∧ State.reset.cores = []) ∧
    (let z := { grouped [] with cores := [(0, { core0 with cmds := [gmmaCmd false] })] }
     z.cores = [(0, { core0 with cmds := [gmmaCmd false] })] ∧ (gmmaCmd false).progress ≠ (gmma false).blocks ∧ z.peer.toNat / 8 * 8 + 1 ≠ z.peer.toNat ∧
     (gmma false).mask.testBit 1 = true ∧ (gmma false).mask.testBit 2 = false) := by
  and_intros <;> try unfold Goes
  all_goals decide +kernel

def linked (l : Link) : State := { base with links := [(11, l)] }
def up : Link := { Link.off with trained := true, farPeer := 5, farPort := 3, replay := [(7, ⟨1, 1⟩), (8, ⟨1, 0⟩)], arriving := [.linkRetrain 11], txSeq := 9, rxSeq := 0xFFF, badRun := 14 }
/-- A request of a context of package 5, and the router's event that makes two of them one. -/
def asked5 : Request := (5, 0, 0, 1, 7)
def combine (kind : Nat) : Instr := .routerCombine ⟨5, 0, kind, pa0⟩ true [asked5, asked5]
theorem witness_FabricEvents :
    ((linked up).link 11 = up ∧ Link.off.trained = false ∧ (linked up).link 12 = Link.off) ∧
    -- port 0 of package 0 goes to port 6 of package 1, port 7 to another bond
    (let w : Word := BitVec.ofNat 64 (2 ^ 63 + 1 * 16 + 6)
     w.getLsbD 63 = true ∧ bits w 4 14 = 1 ∧ bits w 0 4 = 6 ∧ 1 = 0 / 8 * 8 + (0 % 8 + 0 + 1) % 8 ∧ 6 + 0 = 6 ∧ (base.cabling.get 0 11).getLsbD 63 = false ∧
     bondsJoined 0 625 = true) ∧
    (let z : State := { base with peer := 5 }
     let m : Link := { up with farPeer := 0, farPort := 11 }
     up.farPeer = z.peer.toNat ∧ m.farPeer = base.peer.toNat ∧ m.farPort = 11 ∧ m.keyEpoch = up.keyEpoch ∧ base.peer ≠ z.peer) ∧
    (up.resend = 0 ∧ up.queue = [] ∧ ({ up with queue := [⟨3, 2⟩] } : Link).queue = ⟨3, 2⟩ :: [] ∧
      ({ up with resend := 1 } : Link).replay[2 - 1]? = some (8, ⟨1, 0⟩)) ∧
    (1 % 2 ^ 32 ≠ up.rxCtr.toNat % 2 ^ 32 ∧ 0 % 2 ^ 32 = up.rxCtr.toNat % 2 ^ 32 ∧ up.badRun < 15 ∧ 15 ≤ ({ up with badRun := 15 } : Link).badRun) ∧
    (BitVec.ofNat 12 4095 = up.rxSeq ∧ BitVec.ofNat 12 0 ≠ up.rxSeq ∧ ∃ e ∈ up.replay, e.1 = BitVec.ofNat 12 7) ∧
    (up.replay.length < 128 ∧ 128 ≤ ({ up with replay := List.replicate 128 (0, ⟨1, 0⟩) } : Link).replay.length) ∧
    (base.timeSource = true ∧ ({ base with peer := 3, population := [(1, true)] } : State).timeSource = false ∧ base.timeJoined = false) ∧
    (base.population.get false 5 = true ∧ base.population.get false 6 = false ∧ 5 ≠ base.peer.toNat ∧ 5 / 8 = base.peer.toNat / 8 ∧
      ({ base with population := [(9, true)] } : State).population.get false 9 = true ∧ 9 / 8 ≠ base.peer.toNat / 8) ∧
    (2 ≤ [asked5, asked5].length ∧ pa0 % 8 = 0 ∧ paExists pa0 = true ∧ isHubSpace pa0 = false ∧ frameReserved (paTier pa0) (paFrame pa0) = false ∧
      (∀ r ∈ [asked5, asked5], exporting.partition.get false r.1 = true ∧ exporting.exported 1 pa0 true = true) ∧ exporting.tag pa0 = false ∧
      exporting.poisoned pa0 8 = false ∧ exporting.homeReady (combine 0) = true ∧ exporting.homeWait = [] ∧ (exporting.takeToWrite pa0 8).isSome = true ∧
      asked5.2.1 ≠ noCore) ∧
    -- adds that come apart: two to a package that may not write, and two to a tagged word
    (base.combines pa0 8 [asked5, asked5] = false ∧ (exporting.setTag pa0 true).tag pa0 = true ∧
      (exporting.setTag pa0 true).homeReady (combine 0) = true) ∧
    ({ base with combined := [⟨0, pa0, true, [asked5, asked5]⟩] } : State).combined = [⟨0, pa0, true, [asked5, asked5]⟩] := by
  and_intros <;> decide +kernel

/-! Events of launches and of the host -/

/-- Queue slot 2 has one packet: a task on core 1 whose lease covers both frames of the span, under a region that sets every field. -/
def regionPa : Nat := pa0 + 0x100
def ringPa : Nat := mkPa 1 0 5 0
def packet : State :=
  let s := { queueing 1 with launches := [] }
  let s := (((s.writeNat (regionPa + 8) 2 0x057F).writeNat (regionPa + 12) 2 1).writeNat (regionPa + 16) 4 0x04000100).writeNat (regionPa + 20) 8 0x1000000010000
  let s := (s.writeNat (pa0 + 0x200) 8 0).writeNat (pa0 + 0x208) 8 0x400000
  let s := (((s.writeNat ringPa 8 (1 + 2 ^ 16 + 4096 * 2 ^ 32)).writeNat (ringPa + 8) 8 regionPa).writeNat (ringPa + 16) 8 0x200000).writeNat (ringPa + 32) 1 2
  ((s.writeNat (ringPa + 64) 8 0x200).writeNat (ringPa + 72) 4 1).writeNat (ringPa + 120) 8 7
def packetBytes : List Byte := (packet.takeRange ringPa 128).readBytes ringPa 128
def taken1 : Launch := packet.launchOf 9 (packet.packetAt ringPa).1 (packet.packetAt ringPa).2
def waiting : State := { packet with launches := [taken1] }
/-- The lease list stands behind the window to package 5. -/
def farList : State := packet.writeNat (ringPa + 64) 8 (0x10000000 + 0x200)
def farBytes : List Byte := (farList.takeRange ringPa 128).readBytes ringPa 128
/-- Launches that are over: with a record at 0x40, behind the window to package 5, nowhere; with a flag. -/
def over' (record : Nat) (flag : Word) : State :=
  { noLine with launches := [{ launch1 with state := .ended 0, chain := [regionPa], pkt := { launch1.pkt with record := record, flag := flag } }] }
theorem witness_LaunchEvents :
    ((base.qslot 2).mapped = false ∧ (packet.qslot 2).mapped = true ∧ (packet.qslot 2).head ≠ (packet.qslot 2).tail ∧ packet.nextSlot = some 2 ∧
      packet.timeSource = true ∧ ({ packet with peer := 3, population := [(1, true)] } : State).timeSource = false ∧ packet.timeJoined = false) ∧
    (let q := packet.qslot 2
     let pa := q.base.toNat * 128 + 128 * (q.head.toNat % 2 ^ (q.lgsize.toNat + 4))
     pa = ringPa ∧ paExists pa = true ∧ packet.rangeQuiet pa 128 = true ∧ paExists (mkPa 1 0 17166 0) = false) ∧
    (packet.setL1 0 (ringPa / 128) (lineIs .ISD)).rangeQuiet ringPa 128 = false ∧
    (∀ r ∈ packet.frontReads ringPa packetBytes 0, packet.rangeQuiet r.1 r.2 = true) ∧
    (∀ w, packet.validate packetBytes 0 ≠ .error (some w)) ∧ packet.frontAsked = none ∧
    (∃ w, farList.validate farBytes 0 = .error (some w)) ∧
    (taken1.state = .pending ∧ packet.launches = [] ∧ packet.missing taken1 = [] ∧ packet.withinLimits (packet.current taken1) = true ∧
      ((queueing 1).launchOf 9 (List.replicate 128 0) 0).state = .ended 1) ∧
    (waiting.launches = [taken1] ∧ waiting.canDispatch taken1 = true ∧ waiting.placement taken1 = some [(1, 0, 0)] ∧
      waiting.chainReady taken1.chain = true ∧ (∀ c ∈ taken1.pkt.cores, (waiting.core c).gated = false)) ∧
    ((packet.setL1 0 (regionPa / 128) (lineIs .ISD)).chainReady taken1.chain = false) ∧
    (waiting.canDispatch { taken1 with proc := 8 } = false) ∧ ({ taken1 with state := .waitingResidency } : Launch).state = .waitingResidency ∧
    ((waiting.modCore 1 fun k => { k with frozen := some 3 }).core 1).frozen ≠ none ∧ (waiting.core 1).frozen = none ∧
    (let z := { waiting with launches := [launch1] }.modCtx 1 0 fun x => { x with run := .starting, task := some task1 }
     (z.ctx 1 0).run = .starting ∧ (z.ctx 1 0).task = some task1 ∧ z.launches = [launch1] ∧ task1.launch = launch1.id) ∧
    (launch1.live ≠ 0 ∧ launch1.state = .running ∧ launch1.parent = 0 ∧ launch1.id ≠ 0 ∧ (over' 0 0).slots = [] ∧ launch1.record ≠ .sent ∧
      ({ launch1 with record := .sent } : Launch).record = .sent) ∧
    ((over' 0 0).mortarPlace 0 1 0x40 = some ((over' 0 0).peer.toNat, pa0 + 0x40) ∧ (over' 0 0).writeQuiet (pa0 + 0x40) 32 = true ∧
      (over' 0 0).mortarPlace 0 1 0x10000040 = some (5, pa0 + 0x40) ∧ (over' 0 0).mortarPlace 0 1 0x200000 = none) ∧
    (farWindow.getLsbD 63 = false ∧ (farWindow ||| 0x8000000000000000).getLsbD 63 = true ∧ bits (farWindow ||| 0x8000000000000000) 24 14 = 5) ∧
    (63 < 64 ∧ (BitVec.ofNat 24 16 - (0 : BitVec 24)).toNat + 0 ≤ 2 ^ (0 + 4) ∧ 2 ^ (0 + 4) < (BitVec.ofNat 24 17 - (0 : BitVec 24)).toNat + 0) ∧
    ((64 - base.adminTail).toNat + (base.adminTail - base.adminHead).toNat ≤ 64 ∧ 64 < (65 - base.adminTail).toNat + (base.adminTail - base.adminHead).toNat) :=
  ⟨by decide +kernel, by decide +kernel, by decide +kernel, by decide +kernel, fun w h => by
      have e : okIs ((packet.validate packetBytes 0).map fun _ => ()) () = true := by decide +kernel
      rw [h] at e
      exact absurd e (by simp [okIs, Except.map]),
    by decide +kernel, by
      have e : (match farList.validate farBytes 0 with | .error (some _) => true | _ => false) = true := by decide +kernel
      split at e
      · exact ⟨_, ‹_›⟩
      · exact absurd e (by decide),
    by and_intros <;> decide +kernel⟩

theorem nextEntry {z : State} {e : AdminEntry} (h : (z.adminEntry == some e) = true) : NextEntry z e := by
  have h : z.adminEntry = some e := by simpa using h
  unfold State.adminEntry at h
  split at h
  · cases h
  · next n => cases h; exact ⟨n, rfl, rfl, rfl, rfl, rfl⟩
/-- An entry of each opcode is next, with a buffer at 0x2000; one that asks for a trace of core 255. -/
theorem witness_AdminCommands :
    State.reset.adminHead = State.reset.adminTail ∧ (∀ n ∈ [1, 2, 3, 4, 5, 6, 7, 8, 9], NextEntry (adminEntry n 0x2000 16 []) ⟨0x1000, n.toNat, 7, 0x2000, 16⟩) ∧
    (base.featuresTried = false ∧ BitVec.ofNat 128 0x1F &&& ~~~base.offered = 0 ∧ BitVec.ofNat 128 0x20 &&& ~~~base.offered ≠ 0) ∧
    (base.anyTask = true ∧ State.reset.anyTask = false ∧ (({ base with banks := [(1, ⟨true, 2, 0, none⟩)] } : State).banks.get ⟨false, 0, 0, some []⟩ (1 - base.bank)).valid = true) ∧
    (let z := adminEntry 6 0x2000 16 [(0x1018, 255), (0x101A, 3), (0x101B, 7), (0x101C, 2)]
     NextEntry z ⟨0x1000, 6, 7, 0x2000, 16⟩ ∧ ofBytes (hostRange z 0x1018 2) = 255 ∧ ofBytes (hostRange z 0x101A 1) < 4 ∧ ofBytes (hostRange z 0x101B 1) < 8) ∧
    ((0x84, 0x04) ∈ [(0x84, 0x04), (0xE1, 0x61)] ∧ 900 ≤ 1900 ∧ 899 < 900 ∧ 1900 < 1901) := by
  refine ⟨rfl, fun n hn => nextEntry ?_, by decide +kernel, by decide +kernel, ⟨nextEntry (by decide +kernel), by decide +kernel⟩, by decide⟩
  simp only [List.mem_cons, List.not_mem_nil, or_false] at hn
  rcases hn with rfl | rfl | rfl | rfl | rfl | rfl | rfl | rfl | rfl <;> decide +kernel

def tracing (cfg : TraceCfg) : State := base.modCore 0 fun k => { k with trace := [(1, cfg)] }
theorem witness_PowerAndResets :
    ((tracing ⟨1, 3, 0, 4095⟩).myCore.traceState = .armed ∧ (tracing ⟨1, 3, 0, 4095⟩).myCore.trace = [(1, ⟨1, 3, 0, 4095⟩)] ∧
      (0 : Word).toNat ≤ base.timeDom.toNat ∧ base.timeDom.toNat < (1 : Word).toNat) ∧
    ((base.modCore 0 fun k => { k with traceState := .counting 0 }).myCore.traceState = .counting 0) ∧
    (875 % 125 = 0 ∧ 1750 % 125 = 0 ∧ ∀ e ∈ base.cores, e.2.gated = false) ∧
    (((idleCore .M).core 255).gated = false ∧ (idleCore .M).mayGate 255 = true ∧ ∀ d, 255 < d → d < 256 → (idleCore .M).mayGate d = false) ∧
    (paTier (mkPa 2 0 0 0) = 2 ∧ paTier pa0 ≠ 2) :=
  ⟨by decide +kernel, by decide +kernel, by decide +kernel, ⟨by decide +kernel, by decide +kernel, fun d h g => by omega⟩, by decide +kernel⟩

end Sys2Proof.Tests
end

section
/-! The state after reset (R6, R137, R340). -/

namespace Sys2Proof.Machine

/-! ### System registers that show a field of the context (R137) -/

theorem State.readSr_fflags (s : State) (c x : Nat) : s.readSr c x 0x008 = (s.ctx c x).fflags.setWidth 64 := rfl
theorem State.readSr_check (s : State) (c x : Nat) : s.readSr c x 0x009 = if (s.ctx c x).check then 1 else 0 := rfl
theorem State.readSr_loop (s : State) (c x : Nat) : s.readSr c x 0x00A = (s.ctx c x).loopWord := rfl
theorem State.readSr_tvec (s : State) (c x : Nat) : s.readSr c x 0x020 = (s.ctx c x).tvec := rfl
theorem State.readSr_gtimeout (s : State) (c x : Nat) : s.readSr c x 0x029 = (s.ctx c x).gtimeout.setWidth 64 := rfl

theorem State.readSr_nfmt (s : State) (c x : Nat) {n : Nat} (h : n < 8) :
    s.readSr c x (0x010 + n) = ((s.ctx c x).nfmt.get 0 n).setWidth 64 := by
  unfold State.readSr
  rw [if_pos (by omega), Nat.add_sub_cancel_left]

/-- SR_TVEC of a context that has set no record and no handler (R319). -/
theorem Ctx.tvec_zero {k : Ctx} (hr : k.tvecRec = 0) (hh : k.tvecHandler = 0) : k.tvec = 0 := by
  unfold Ctx.tvec
  rw [hr, hh]
  decide

/-! ### Reset -/

/-- After reset a context differs from one without a task only where ctx3, the firmware context, runs (R312). -/
theorem State.ctx_reset (c x : Nat) :
    State.reset.ctx c x = { Ctx.reset with run := if x = 3 then .running else .idle } := by
  show (if x = 3 then some Ctx.boot else none).getD Ctx.reset = _
  by_cases h : x = 3
  · rw [if_pos h, if_pos h]; rfl
  · rw [if_neg h, if_neg h]; rfl

theorem State.isFirmware_reset (c : Nat) : State.reset.isFirmware c 3 = true := rfl

end Sys2Proof.Machine

namespace Sys2Proof

open Sys2Proof.Machine

/-- Settles O43: memory and the tables are empty; what a context is and reads follows from `State.ctx_reset`. -/
theorem resetState : Obligations.ResetState := by
  unfold Obligations.ResetState
  refine ⟨Memory.wf_reset, rfl, rfl, rfl, rfl, rfl, fun c _ => ?contexts, fun c x _ _ => ?registers⟩
  case contexts =>
    rw [State.ctx_reset]
    refine ⟨State.isFirmware_reset c, rfl, rfl, fun x hx => ?_⟩
    have notFirmware : x ≠ 3 := by omega
    rw [State.ctx_reset, if_neg notFirmware]
    exact ⟨rfl, rfl⟩
  case registers =>
    rw [State.readSr_fflags, State.readSr_check, State.readSr_loop, State.readSr_tvec, State.readSr_gtimeout, State.ctx_reset]
    refine ⟨rfl, rfl, rfl, Ctx.tvec_zero rfl rfl, rfl, rfl, rfl, rfl, rfl, fun n hn => ?_⟩
    rw [State.readSr_nfmt _ _ _ hn, State.ctx_reset]
    rfl

end Sys2Proof
end

section
/-! Stores (R54, R158, R161): what they write and what they leave. -/

namespace Sys2Proof.Machine

/-! ### Effective addresses (R156) -/

/-- The address of an offset form in whole numbers. -/
theorem offsetEa_eq_ofInt (b : Word) (off : BitVec 12) (size : Nat) :
    offsetEa b off size = BitVec.ofInt 64 (b.toNat + off.toInt * size) := by
  rw [BitVec.ofInt_add, BitVec.ofInt_mul, BitVec.ofInt_natCast, BitVec.ofInt_natCast, BitVec.ofNat_toNat, BitVec.setWidth_eq]
  rfl

/-! ### Bytes of a value (R3) -/

@[simp] theorem toBytes_length (n v : Nat) : (toBytes n v).length = n := by
  induction n generalizing v with
  | zero => rfl
  | succ n ih => rw [toBytes, List.length_cons, ih]

theorem toBytes_getD (n v : Nat) {k : Nat} (h : k < n) : (toBytes n v).getD k 0 = BitVec.ofNat 8 (v / 256 ^ k) := by
  induction n generalizing v k with
  | zero => omega
  | succ n ih =>
    rw [toBytes]
    cases k with
    | zero => rw [List.getD_cons_zero, Nat.pow_zero, Nat.div_one]
    | succ k => rw [List.getD_cons_succ, ih _ (by omega), Nat.div_div_eq_div_mul, Nat.pow_succ']

/-! ### The local store -/

theorem Core.lsSet_lsByte (k : Core) (o i : Nat) (v : Byte) : (k.lsSet o v).lsByte i = if i = o then v else k.lsByte i :=
  Tab.get_set _ _ _ _ _

/-- Writing a run of bytes leaves every byte of the local store outside the run as it was. -/
theorem Core.lsWriteBytes_outside (k : Core) (o : Nat) (bs : List Byte) {i : Nat} (h : i < o ∨ o + bs.length ≤ i) :
    (k.lsWriteBytes o bs).lsByte i = k.lsByte i := by
  induction bs generalizing k o with
  | nil => rfl
  | cons b r ih =>
    rw [List.length_cons] at h
    rw [Core.lsWriteBytes, ih _ _ (by omega), Core.lsSet_lsByte, if_neg (by omega)]

/-- The bytes of the run read as they were given. -/
theorem Core.lsWriteBytes_inside (k : Core) (o : Nat) (bs : List Byte) {n : Nat} (h : n < bs.length) :
    (k.lsWriteBytes o bs).lsByte (o + n) = bs.getD n 0 := by
  induction bs generalizing k o n with
  | nil => exact absurd h (Nat.not_lt_zero n)
  | cons b r ih =>
    rw [Core.lsWriteBytes]
    cases n with
    | zero => rw [Core.lsWriteBytes_outside _ _ _ (by omega), Nat.add_zero, Core.lsSet_lsByte, if_pos rfl, List.getD_cons_zero]
    | succ n =>
      rw [List.length_cons] at h
      rw [Nat.add_comm n 1, ← Nat.add_assoc, ih _ _ (by omega), Nat.add_comm 1 n, List.getD_cons_succ]

theorem Core.lsWriteBytes_rest (k : Core) (o : Nat) (bs : List Byte) :
    k.lsWriteBytes o bs = { k with ls := (k.lsWriteBytes o bs).ls } := by
  induction bs generalizing k o with
  | nil => rfl
  | cons b r ih => rw [Core.lsWriteBytes, ih]; rfl

theorem Core.setFull_isFull (k : Core) (o i : Nat) (f : Bool) :
    (k.setFull o f).isFull i = if i / 16 = o / 16 then f else k.isFull i :=
  Tab.get_set _ _ _ _ _

/-! ### Bytes of memory -/

/-- The bytes of a run written to memory read as they were given, where the frame shows memory of its own. -/
theorem State.writeBytes_inside (s : State) (a : Nat) (bs : List Byte) {n : Nat} (h : n < bs.length) (own : ¬ isShown (a + n)) :
    (s.writeBytes a bs).byte (a + n) = bs.getD n 0 := by
  induction bs generalizing s a n with
  | nil => exact absurd h (Nat.not_lt_zero n)
  | cons b r ih =>
    rw [State.writeBytes]
    cases n with
    | zero => rw [State.writeBytes_outside _ _ _ _ (by omega), State.setByte_byte, if_pos ⟨rfl, own⟩, List.getD_cons_zero]
    | succ n =>
      rw [List.length_cons] at h
      have e : a + (n + 1) = a + 1 + n := by omega
      rw [e] at own ⊢
      rw [ih _ _ (by omega) own, List.getD_cons_succ]

/-- Writing bytes leaves every field of the state but memory. -/
theorem State.writeBytes_rest (s : State) (a : Nat) (bs : List Byte) :
    s.writeBytes a bs = { s with mem := (s.writeBytes a bs).mem } := by
  induction bs generalizing s a with
  | nil => rfl
  | cons b r ih => rw [State.writeBytes, ih]; rfl

theorem State.writeNat_rest (s : State) (a n v : Nat) : s.writeNat a n v = { s with mem := (s.writeNat a n v).mem } :=
  s.writeBytes_rest a _

@[simp] theorem State.writeNat_iss (s : State) (a n v : Nat) : (s.writeNat a n v).iss = s.iss := by rw [State.writeNat_rest]
@[simp] theorem State.writeNat_cores (s : State) (a n v : Nat) : (s.writeNat a n v).cores = s.cores := by rw [State.writeNat_rest]
@[simp] theorem State.writeNat_tags (s : State) (a n v : Nat) : (s.writeNat a n v).tags = s.tags := by rw [State.writeNat_rest]

@[simp] theorem State.writeNat_core (s : State) (a n v c : Nat) : (s.writeNat a n v).core c = s.core c := by
  rw [State.core, State.core, State.writeNat_cores]

@[simp] theorem State.writeNat_me (s : State) (a n v : Nat) : (s.writeNat a n v).me = s.me := by
  rw [State.me, State.me, State.ctx, State.ctx, State.writeNat_iss, State.writeNat_core]

@[simp] theorem State.writeNat_tag (s : State) (a n v b : Nat) : (s.writeNat a n v).tag b = s.tag b := by
  rw [State.tag, State.tag, State.writeNat_tags]

theorem State.writeNat_outside (s : State) (a n v : Nat) {i : Nat} (h : i < a ∨ a + n ≤ i) : (s.writeNat a n v).byte i = s.byte i :=
  s.writeBytes_outside a _ i (by rwa [toBytes_length])

theorem State.writeNat_inside (s : State) (a v : Nat) {n k : Nat} (h : k < n) (own : ¬ isShown (a + k)) :
    (s.writeNat a n v).byte (a + k) = BitVec.ofNat 8 (v / 256 ^ k) := by
  rw [State.writeNat, State.writeBytes_inside _ _ _ (by rwa [toBytes_length]) own, toBytes_getD _ _ h]

/-! ### A trace event of the bundle in issue (R338) -/

@[simp] theorem State.note_core (s : State) (cls : Nat) (data : Word) (c : Nat) : (s.note cls data).core c = s.core c := rfl
@[simp] theorem State.note_me (s : State) (cls : Nat) (data : Word) : (s.note cls data).me = s.me := rfl
@[simp] theorem State.note_tag (s : State) (cls : Nat) (data : Word) (a : Nat) : (s.note cls data).tag a = s.tag a := rfl
@[simp] theorem State.note_byte (s : State) (cls : Nat) (data : Word) (a : Nat) : (s.note cls data).byte a = s.byte a :=
  State.byte_congr (s := s) (t := s.note cls data) rfl rfl rfl a

/-! ### The frame buffer (R40) -/

theorem Core.keepFrame_rest (k : Core) (f : FrameEntry) : k.keepFrame f = { k with frames := (k.keepFrame f).frames } := by
  unfold Core.keepFrame
  split <;> rfl

/-! ### The line after a write (R258, R262) -/

/-- Two states differ at most in the lines of one core's L1, the probes that wait there, and the agenda. -/
structure LinesOnly (c : Nat) (s t : State) : Prop where
  rest : t = { s with cores := t.cores, agenda := t.agenda }
  cores : ∀ d, d ≠ c → t.core d = s.core d
  core : t.core c = { s.core c with l1 := (t.core c).l1, heldProbes := (t.core c).heldProbes }

theorem LinesOnly.refl (c : Nat) (s : State) : LinesOnly c s s := ⟨rfl, fun _ _ => rfl, rfl⟩

theorem LinesOnly.trans {c : Nat} {s t u : State} (h : LinesOnly c s t) (k : LinesOnly c t u) : LinesOnly c s u where
  rest := k.rest.trans (congrArg (fun r : State => { r with cores := u.cores, agenda := u.agenda }) h.rest)
  cores d hd := (k.cores d hd).trans (h.cores d hd)
  core := k.core.trans (congrArg (fun r : Core => { r with l1 := (u.core c).l1, heldProbes := (u.core c).heldProbes }) h.core)

theorem LinesOnly.ctx {c : Nat} {s t : State} (h : LinesOnly c s t) (d x : Nat) : t.ctx d x = s.ctx d x := by
  unfold State.ctx
  by_cases hd : d = c
  · rw [hd, h.core]; rfl
  · rw [h.cores d hd]

theorem LinesOnly.me {c : Nat} {s t : State} (h : LinesOnly c s t) : t.me = s.me := by
  have iss : t.iss = s.iss := by rw [h.rest]
  rw [State.me, State.me, iss, h.ctx]

theorem LinesOnly.tag {c : Nat} {s t : State} (h : LinesOnly c s t) (a : Nat) : t.tag a = s.tag a := by
  have tags : t.tags = s.tags := by rw [h.rest]
  rw [State.tag, State.tag, tags]

theorem LinesOnly.byte {c : Nat} {s t : State} (h : LinesOnly c s t) (a : Nat) : t.byte a = s.byte a :=
  State.byte_congr (by rw [h.rest]) (by rw [h.rest]) (by rw [h.rest]) a

/-- A change of one core's L1 and of the probes that it keeps, with what it posts. -/
theorem LinesOnly.of_modCore (s : State) (c : Nat) (f : Core → Core) (agenda : List Instr)
    (h : ∀ k, f k = { k with l1 := (f k).l1, heldProbes := (f k).heldProbes }) :
    LinesOnly c s { s.modCore c f with agenda := agenda } where
  rest := rfl
  cores d hd := State.core_modCore_other s f hd
  core := by
    have e : ({ s.modCore c f with agenda := agenda } : State).core c = f (s.core c) := State.core_modCore_same s c f
    rw [e]; exact h _

theorem State.setL1_linesOnly (s : State) (c line : Nat) (l : L1Line) : LinesOnly c s (s.setL1 c line l) :=
  .of_modCore s c (fun k => { k with l1 := k.l1.put line l }) s.agenda fun _ => rfl

theorem State.releaseProbes_linesOnly (s : State) (c line : Nat) : LinesOnly c s (s.releaseProbes c line) :=
  .of_modCore s c (fun k => { k with heldProbes := k.heldProbes.filter fun e => !probes line e }) _ fun _ => rfl

/-- A write of its owner changes nothing but the line's state and serves the probes that waited for the line. -/
theorem State.wrote_linesOnly (s : State) (pa : Nat) : LinesOnly s.iss.core s (s.wrote pa) := by
  have released (t : State) (h : LinesOnly s.iss.core s t) (b : Bool) :
      LinesOnly s.iss.core s (if b then t else t.releaseProbes s.iss.core (lineOf pa)) := by
    cases b
    · exact h.trans (t.releaseProbes_linesOnly _ _)
    · exact h
  unfold State.wrote
  apply released
  split
  · exact .refl _ s
  · exact s.setL1_linesOnly _ _ _

end Sys2Proof.Machine

namespace Sys2Proof.Safety

open Sys2Proof.Machine

/-! ### Keeping a translation changes the frame buffer of the core and nothing else (R40) -/

section
variable (z : State) (f : FrameEntry)

theorem kept_core_other {c : Nat} (h : c ≠ z.iss.core) : (kept z f).core c = z.core c := State.core_modCore_other _ _ h

theorem kept_l1 (c line : Nat) : (kept z f).l1 c line = z.l1 c line := by
  unfold State.l1 kept State.modMyCore
  rw [State.core_modCore]
  split
  · next h => rw [h, Core.keepFrame_rest]
  · rfl

theorem kept_ctx (c x : Nat) : (kept z f).ctx c x = z.ctx c x :=
  State.ctx_modCore _ _ _ _ _ (by rw [Core.keepFrame_rest])

theorem kept_me : (kept z f).me = z.me := kept_ctx z f _ _

theorem kept_byte (a : Nat) : (kept z f).byte a = z.byte a :=
  State.byte_congr (s := z) (t := kept z f) rfl rfl rfl a

theorem kept_leasedByOther (c x line : Nat) : (kept z f).leasedByOther c x line = z.leasedByOther c x line := by
  unfold State.leasedByOther
  simp only [kept_ctx]

/-! ### The checks of a store that is done (R157, R161, R278) -/

variable {z f}

theorem owned_kept {pa : Nat} (h : Owned z pa) : Owned (kept z f) pa := by
  obtain ⟨unleased, l, hl, hs⟩ := h
  exact ⟨(kept_leasedByOther z f _ _ _).trans unleased, l, (kept_l1 z f _ _).trans hl, hs⟩

theorem mayWrite_kept {pa : Nat} (h : mayWrite z pa) : mayWrite (kept z f) pa := by
  obtain ⟨unleased, l, hl, hs, newest⟩ := h
  exact ⟨(kept_leasedByOther z f _ _ _).trans unleased, l, (kept_l1 z f _ _).trans hl, hs, newest⟩

theorem owned_of_mayWrite {pa : Nat} (h : mayWrite z pa) : Owned z pa := by
  obtain ⟨unleased, l, hl, hs, -⟩ := h
  exact ⟨unleased, l, hl, hs⟩

/-- An aligned address that translates to memory of this package passes the checks of a mortar access. -/
theorem mortarAddr_reaches {acc : Access} {ea : Word} {size pa : Nat} (h : Reaches z acc ea size pa f) :
    ∃ x, mortarAddr acc ea size z = .ok (x, kept z f) ∧ x.hub = false ∧ x.mode = .localWin ∧ x.pa = pa := by
  obtain ⟨aligned, ⟨x, maps, here, place⟩, plain⟩ := h
  refine ⟨x, ?_, ?_, here, place⟩
  · unfold mortarAddr xlate
    rw [aligned, maps]
    rfl
  · unfold Xlat.hub
    rw [here, place, plain]
    rfl

theorem ownLine_owned {pa : Nat} (h : Owned z pa) : ownLine pa z = .ok () := by
  obtain ⟨unleased, l, hl, hs⟩ := h
  have owned : l.owned = true := by
    unfold L1Line.owned
    rcases hs with hs | hs <;> rw [hs] <;> rfl
  unfold Unleased at unleased
  simp [ownLine, unleased, hl, owned]

theorem shadowed_mayWrite {pa : Nat} (h : mayWrite z pa) (va : Word) : shadowed va pa z = .ok () := by
  obtain ⟨-, l, hl, -, newest⟩ := h
  cases e : z.innermost (lineOf pa) with
  | none => simp [shadowed, hl, e]
  | some k => simp [shadowed, hl, e, newest k e]

theorem afterAll_released (h : Released z) : afterAll z = .ok () := by
  obtain ⟨acquires, releases⟩ := h
  have waits : (z.iss.acquiring || (z.scoped && z.iss.accessing)) = false := by
    rw [acquires, Bool.false_or, Bool.and_eq_false_imp]
    exact fun wide => releases (by simpa [State.scoped] using wide)
  rw [afterAll, waits]
  rfl

/-- A store to mortar memory that passes its checks: it writes its bytes, and its line is in M from then on. -/
theorem storeM_done {g : BitVec 4} {d : BitVec 5} {ea : State → Word} {size pa : Nat} (guard : z.opP g = true)
    (reaches : Reaches z .store (ea z) size pa f) (ordered : Released z) (untagged : z.tag pa = false) (writes : mayWrite z pa) :
    storeM g d ea size z = .next ((((kept z f).writeNat pa size (z.opB d).toNat).wrote pa).note 2 (ea z)) := by
  obtain ⟨x, addr, outsideHub, here, rfl⟩ := mortarAddr_reaches reaches
  have line : ownLine x.pa (kept z f) = .ok () := ownLine_owned (owned_kept (owned_of_mayWrite writes))
  have word : notTagged x.pa (ea z) (kept z f) = .ok () := congrArg (trapIf · .handleClobber (ea z)) untagged
  have shadow : shadowed (ea z) x.pa (kept z f) = .ok () := shadowed_mayWrite (mayWrite_kept writes) _
  have order : afterAll (kept z f) = .ok () := afterAll_released (z := kept z f) ordered
  unfold storeM
  apply guarded_ok guard
  simp only [addr, Eff.bind_ok, outsideHub, here, line, word, shadow, order]
  rfl

/-- The frame of a store that is done, from what it does. -/
theorem framesStore_of_storeM {i : Instr} {g : BitVec 4} {d : BitVec 5} {ea : State → Word} {va : Word} {size : Nat}
    (guard : z.opP g = true) (means : exec i z = storeM g d ea size z) (addr : ea z = va) : FramesStore z i d va size := by
  subst addr
  intro pa f reaches ordered untagged writes
  have lines := State.wrote_linesOnly ((kept z f).writeNat pa size (z.opB d).toNat) pa
  refine ⟨_, means.trans (storeM_done guard reaches ordered untagged writes), ?_, fun c hc => ?_, fun a ha => ?_,
    fun n hn own => ?_, fun a => ?_⟩
  · rw [State.note_me, lines.me, State.writeNat_me, kept_me]
  · rw [State.writeNat_iss] at lines
    rw [State.note_core, lines.cores c hc, State.writeNat_core, kept_core_other z f hc]
  · rw [State.note_byte, lines.byte, State.writeNat_outside _ _ _ _ ha, kept_byte]
  · rw [State.note_byte, lines.byte, State.writeNat_inside _ _ _ hn own]
  · rw [State.note_tag, lines.tag, State.writeNat_tag]
    rfl
end

end Sys2Proof.Safety

namespace Sys2Proof

open Sys2Proof.Machine Sys2Proof.Safety

/-- Settles O17: the bytes by induction on the run; the mortar stores by what `storeM` does once its checks pass. -/
theorem storeFrames : Obligations.StoreFrames := by
  unfold Obligations.StoreFrames
  refine ⟨fun k o bs f b => ⟨fun n hn => k.lsWriteBytes_inside o bs hn, k.lsWriteBytes_outside o bs, k.lsWriteBytes_rest o bs,
    ?_, ?_, rfl⟩, fun z g d s t off guard => ?_⟩
  · rw [Core.setFull_isFull, if_pos rfl]
  · intro h
    rw [Core.setFull_isFull, if_neg h]
  · have atOffset (size : Nat) := offsetEa_eq_ofInt (z.opB s) off size
    have atIndex := BitVec.add_def (z.opB s) (z.opB t)
    exact ⟨framesStore_of_storeM guard rfl (atOffset 8), framesStore_of_storeM guard rfl (atOffset 4),
      framesStore_of_storeM guard rfl (atOffset 2), framesStore_of_storeM guard rfl (atOffset 1),
      framesStore_of_storeM guard rfl atIndex, framesStore_of_storeM guard rfl atIndex,
      framesStore_of_storeM guard rfl atIndex, framesStore_of_storeM guard rfl atIndex⟩

end Sys2Proof
end

section
/-! Moves and copies (R68, R182, R223 to R227): what their checks at issue ask, and the commands that they queue. -/

namespace Sys2Proof.Safety

open Sys2Proof.Machine

/-! ### Moves (R182, R227) -/

theorem targetOk_iff (w : Word) : targetOk w = true ↔ TargetWord w := by
  have kinds : bits w 0 2 = 0 ∨ bits w 0 2 = 1 ∨ bits w 0 2 = 2 ∨ bits w 0 2 = 3 := by
    have : bits w 0 2 < 2 ^ 2 := Nat.mod_lt _ (by decide)
    omega
  have fields : TargetWord w ↔ bits w 9 55 = 0 ∧ bits w 0 2 ≠ 3 ∧ (bits w 0 2 = 0 → bits w 2 7 = 0) ∧ (bits w 0 2 = 1 → bits w 4 5 = 0) :=
    ⟨fun ⟨reserved, kind, far, near⟩ => ⟨reserved, kind, far, near⟩, fun ⟨reserved, kind, far, near⟩ => ⟨reserved, kind, far, near⟩⟩
  rw [fields]
  unfold targetOk
  rcases kinds with h | h | h | h <;> simp [h]

theorem isHome_iff (z : State) (t : BitVec 40) : z.isHome t = true ↔ homePeer t = z.peer.toNat := beq_iff_eq

/-- The upper half of a word is zero when the word is below 2^32. -/
theorem bits_upper_half (w : Word) : bits w 32 32 = w.toNat / 2 ^ 32 := by
  have := w.isLt
  rw [bits, Nat.shiftRight_eq_div_pow]
  exact Nat.mod_eq_of_lt (by omega)

section
variable {z : State} {g : BitVec 4} {h : BitVec 6} {s : BitVec 5} {v : Handle} (guard : z.opP g = true) (live : z.opH h = some v)
include live

theorem liveHandle_ok : liveHandle h z = .ok v := by
  unfold liveHandle
  rw [live]

include guard

/-- A move to no target, or of a tile of another package (R182, R227). -/
theorem moves_target (t : BitVec 5) (bad : ¬ TargetWord (z.opB s)) :
    exec (.tmove g h s) z = .next (z.trapBundle .tileTarget 0) ∧ exec (.migr g s t h) z = .next (z.trapBundle .tileTarget 0) := by
  rw [← targetOk_iff, Bool.not_eq_true] at bad
  constructor <;> (apply guarded_trap guard; simp [liveHandle_ok live, bad])

theorem moves_remote (t : BitVec 5) (target : TargetWord (z.opB s)) (away : homePeer v.tile ≠ z.peer.toNat) :
    exec (.tmove g h s) z = .next (z.trapBundle .tileRemote 0) ∧ exec (.migr g s t h) z = .next (z.trapBundle .tileRemote 0) := by
  rw [← targetOk_iff] at target
  rw [ne_eq, ← isHome_iff, Bool.not_eq_true] at away
  constructor <;> (apply guarded_trap guard; simp [liveHandle_ok live, target, away])

/-- A move of a tile of this package to a target, once the queue has an open entry. -/
theorem tmove_queues {ws : List Word} (target : TargetWord (z.opB s)) (home : homePeer v.tile = z.peer.toNat)
    (queue : z.queueOpen .copy = true) (read : z.me.reply.desc = some ws) :
    exec (.tmove g h s) z = .next (z.enqueue (some .copy) (.move v.tile (z.opB s) 0 z.cycle false none)) := by
  rw [← targetOk_iff] at target
  rw [← isHome_iff] at home
  apply guarded_ok guard
  simp [liveHandle_ok live, target, home, queue, readDesc, read]

theorem migr_queues (t : BitVec 5) (target : TargetWord (z.opB s)) (home : homePeer v.tile = z.peer.toNat)
    (queue : z.queueOpen .copy = true) (deadline : (z.opB t).toNat < 2 ^ 32) :
    exec (.migr g s t h) z = .next (z.enqueue (some .copy) (.move v.tile (z.opB s) (z.opB t).toNat z.cycle true none)) := by
  rw [← targetOk_iff] at target
  rw [← isHome_iff] at home
  have short : bits (z.opB t) 32 32 = 0 := by
    rw [bits_upper_half]
    exact Nat.div_eq_of_lt deadline
  apply guarded_ok guard
  simp [liveHandle_ok live, target, home, queue, short]

theorem migr_deadline (t : BitVec 5) (target : TargetWord (z.opB s)) (home : homePeer v.tile = z.peer.toNat)
    (deadline : 2 ^ 32 ≤ (z.opB t).toNat) : exec (.migr g s t h) z = .next (z.trapBundle .copyBad 0) := by
  rw [← targetOk_iff] at target
  rw [← isHome_iff] at home
  have long : (bits (z.opB t) 32 32 != 0) = true := by
    rw [bits_upper_half, bne_iff_ne]
    omega
  apply guarded_trap guard
  simp [liveHandle_ok live, target, home, long]
end

/-! ### Checks of copies (R68, R223 to R226, R325) -/

/-- A destination of a CPY in the local store (`va` false) or in a virtual range, as its form reads it (R68). -/
def DestinationOf (z : State) (va : Bool) (w : Word) (len : Nat) (dst : CopyDst) : Prop :=
  match va with
  | false => w.toNat % 16 = 0 ∧ len % 16 = 0 ∧ w.toNat + len ≤ z.me.winLen ∧ dst = .ls w.toNat
  | true => dst = .va w.toNat

/-- A length of a copy (R223): 1 to 2^32 - 1 bytes. -/
def LengthWord (w : Word) : Prop := 0 < w.toNat ∧ w.toNat < 2 ^ 32

theorem copyLength_ok {w : Word} (h : LengthWord w) : copyLength w = .ok w.toNat := by
  obtain ⟨positive, below⟩ := h
  have nonzero : w ≠ 0 := by
    rintro rfl
    exact absurd positive (by decide)
  have check : (w == 0 || decide (2 ^ 32 ≤ w.toNat)) = false := by
    rw [Bool.or_eq_false_iff, beq_eq_false_iff_ne, decide_eq_false_iff_not]
    exact ⟨nonzero, by omega⟩
  rw [copyLength, check]
  rfl

theorem shapeOk_iff (w : Word) : shapeOk w = true ↔ ShapeWord w := by
  have tiers : bits w 46 2 = 0 ∨ bits w 46 2 = 1 ∨ bits w 46 2 = 2 ∨ bits w 46 2 = 3 := by
    have : bits w 46 2 < 2 ^ 2 := Nat.mod_lt _ (by decide)
    omega
  have fields : ShapeWord w ↔ bits w 55 8 = 0 ∧ w.extractLsb' 44 2 ≠ 3 ∧ bits w 46 2 ≠ 3 ∧ (bits w 46 2 = 0 → bits w 48 7 = 0) ∧
      (bits w 46 2 = 1 → bits w 48 7 < 4) :=
    ⟨fun ⟨reserved, layout, tier, far, near⟩ => ⟨reserved, layout, tier, far, near⟩,
      fun ⟨reserved, layout, tier, far, near⟩ => ⟨reserved, layout, tier, far, near⟩⟩
  rw [fields]
  unfold shapeOk Shape.ofWord
  rcases tiers with h | h | h | h <;> simp [h, and_assoc]

theorem extractLsb'_toNat_eq_bits (w : Word) (lo n : Nat) : (w.extractLsb' lo n).toNat = bits w lo n := BitVec.extractLsb'_toNat ..

/-- The shape word of a copy into a new tile (R225): a sealed tile of a slice whose storage holds the bytes. -/
theorem newShape_ok {w : Word} {len : Nat} {x : Elem} (shape : ShapeWord w) (sealed : w.getLsbD 63 = false) (slice : bits w 46 2 = 2)
    (format : elemOf (w.extractLsb' 0 16) = some x) (unscaled : fwordScaled (w.extractLsb' 0 16) = false)
    (holds : len ≤ (geometry (bits w 44 2) (bits w 16 14) (bits w 30 14) x.nibbles).2) : newShape w len = .ok () := by
  rw [← shapeOk_iff] at shape
  have fits := decide_eq_false (Nat.not_lt.2 holds)
  simp only [newShape, Shape.ofWord, shape, sealed, slice, format, unscaled, extractLsb'_toNat_eq_bits, fits, Bool.not_true,
    Bool.or_false, bne_self_eq_false, trapIf_false, Eff.bind_ok]

section
variable {z : State}

theorem localEndpoint_ok {w : Word} {len : Nat} (place : w.toNat % 16 = 0) (length : len % 16 = 0) (inside : w.toNat + len ≤ z.me.winLen) :
    localEndpoint z w len = .ok w.toNat := by
  simp [localEndpoint, place, length, Nat.not_lt.2 inside]

theorem cutRoom_ok (room : CopyRoom z) : cutRoom z = .ok () := by
  obtain ⟨-, room⟩ := room
  have fewer := decide_eq_false (Nat.not_le.2 room)
  exact congrArg (blockIf · z) fewer

/-- A destination word of CPYR (R226): reserved bits zero, an offset on 16 bytes, a package that may be reached. -/
structure RemoteWord (z : State) (w : Word) : Prop where
  high : bits w 38 2 = 0
  low : bits w 10 14 = 0
  place : bits w 44 20 % 16 = 0
  present : z.peerAbsent (bits w 24 14) = false
  allowed : z.peerAllowed (bits w 24 14) = true

theorem RemoteWord.peerChecks_ok {w : Word} (h : RemoteWord z w) : peerChecks (destPeer w) z = .ok () := by
  simp [peerChecks, destPeer, h.present, h.allowed]

theorem RemoteWord.fields_ok {w : Word} (h : RemoteWord z w) : (bits w 38 2 != 0 || bits w 10 14 != 0 || destOffset w % 16 != 0) = false := by
  simp [destOffset, h.high, h.low, h.place]

variable {k : SrcKind} {hx : BitVec 6} {w : Word} {len : Nat} {src : CopySrc} {dst : CopyDst} {va : Bool}

/-- A source passes its checks: first the handle that its form reads, then the endpoint. -/
theorem source_ok (h : SourceOf z k hx w len src) : ∃ v, sourceHandle k hx z = .ok v ∧ copySource k w len v z = .ok src := by
  cases k with
  | ls =>
    obtain ⟨place, length, inside, rfl⟩ := h
    exact ⟨none, rfl, by rw [copySource, localEndpoint_ok place length inside]; rfl⟩
  | va =>
    obtain rfl : src = .va w.toNat := h
    exact ⟨none, rfl, rfl⟩
  | tile =>
    obtain ⟨v, live, rfl⟩ := h
    exact ⟨some v, by rw [sourceHandle, if_pos rfl, liveHandle_ok live]; rfl, rfl⟩

/-- Two ranges of the local store overlap when each begins before the other ends (R224). -/
theorem lsOverlap_ls (a b len : Nat) : lsOverlap (.ls a) (.ls b) len = decide (a < b + len ∧ b < a + len) := rfl

theorem lsOverlap_va (src : CopySrc) (b len : Nat) : lsOverlap src (.va b) len = false := by
  cases src <;> rfl

/-- A source outside the local store overlaps no destination. -/
theorem lsOverlap_of_source (dst : CopyDst) (outside : k ≠ .ls) (h : SourceOf z k hx w len src) : lsOverlap src dst len = false := by
  cases k with
  | ls => exact absurd rfl outside
  | va =>
    obtain rfl : src = .va w.toNat := h
    rfl
  | tile =>
    obtain ⟨v, -, rfl⟩ := h
    rfl
end

/-! ### Copies whose checks pass (R106, R223 to R226) -/

section
variable {z : State} {g : BitVec 4} {d s t : BitVec 5} {k : SrcKind} {hx : BitVec 6} {src : CopySrc} (fn : Nat)
  (guard : z.opP g = true) (length : LengthWord (z.opB t)) (source : SourceOf z k hx (z.opB s) (z.opB t).toNat src)
include guard length source

/-- A CPY into a local store or a virtual range whose endpoints pass: what is left to check is that they lie apart, and the queue. -/
theorem copyTo_endpoints {va : Bool} {dst : CopyDst} (into : DestinationOf z va (z.opB d) (z.opB t).toNat dst) :
    copyTo va k fn g d s t hx z = settle z (do
      trapIf (lsOverlap src dst (z.opB t).toNat) .regionOverlap
      blockIf (!z.queueOpen .copy) z
      cutRoom z
      .ok (z.enqueue (some .copy) (copyCommand fn src dst (z.opB d) (z.opB s) (z.opB t).toNat))) := by
  obtain ⟨v, reads, source⟩ := source_ok source
  unfold copyTo
  rw [guarded_on _ guard]
  cases va with
  | false =>
    obtain ⟨place, units, inside, rfl⟩ := into
    simp only [reads, copyLength_ok length, source, localEndpoint_ok place units inside, Eff.bind_ok, Eff.map_ok, Bool.false_eq_true, if_false]
    rfl
  | true =>
    obtain rfl : dst = .va (z.opB d).toNat := into
    simp only [reads, copyLength_ok length, source, Eff.bind_ok, if_true]
    rfl

theorem copyTo_queues {va : Bool} {dst : CopyDst} (into : DestinationOf z va (z.opB d) (z.opB t).toNat dst)
    (apart : lsOverlap src dst (z.opB t).toNat = false) (room : CopyRoom z) :
    copyTo va k fn g d s t hx z = .next (z.enqueue (some .copy) (copyCommand fn src dst (z.opB d) (z.opB s) (z.opB t).toNat)) := by
  rw [copyTo_endpoints fn guard length source into, apart, room.1, cutRoom_ok room]
  rfl

theorem copyTo_overlaps {va : Bool} {dst : CopyDst} (into : DestinationOf z va (z.opB d) (z.opB t).toNat dst)
    (meet : lsOverlap src dst (z.opB t).toNat = true) :
    copyTo va k fn g d s t hx z = .next (z.trapBundle .regionOverlap 0) := by
  rw [copyTo_endpoints fn guard length source into, meet]
  rfl

/-- A CPY into a new tile, whose handle is written to register `hd`. -/
theorem copyNew_queues {hd : BitVec 6} (empty : z.opH hd = none) (shape : newShape (z.opB d) (z.opB t).toNat = .ok ())
    (queue : z.queueOpen .copy = true) :
    copyNew k fn g d s t hx hd z = .next (z.enqueue (some .copy)
      (copyCommand fn src (.newTile (z.opB d) hd.toNat none) (z.opB d) (z.opB s) (z.opB t).toNat)) := by
  obtain ⟨v, reads, source⟩ := source_ok source
  apply guarded_ok guard
  simp only [reads, empty, copyLength_ok length, shape, source, queue, Eff.bind_ok, Option.isSome_none, Bool.not_true, trapIf_false,
    blockIf_false]
  rfl

/-- A CPYR. -/
theorem copyRemote_queues (units : (z.opB t).toNat % 16 = 0) (into : RemoteWord z (z.opB d)) (room : CopyRoom z) :
    copyRemote k fn g d s t hx z = .next (z.enqueue (some .copy)
      (copyCommand fn src (.remote (z.opB d)) (z.opB d) (z.opB s) (z.opB t).toNat)) := by
  obtain ⟨v, reads, source⟩ := source_ok source
  have queue : z.queueOpen .copy = true := room.1
  apply guarded_ok guard
  simp only [reads, copyLength_ok length, units, into.fields_ok, into.peerChecks_ok, source, queue, cutRoom_ok room, Eff.bind_ok,
    bne_self_eq_false, Bool.not_true, trapIf_false, blockIf_false]
  rfl
end

end Sys2Proof.Safety

namespace Sys2Proof

open Sys2Proof.Machine Sys2Proof.Safety

/-- Settles O30: the moves by their checks in turn; each form of CPY and CPYR by what its endpoints give to the form's kind of destination. -/
theorem movesAndCopies : Obligations.MovesAndCopies := by
  unfold Obligations.MovesAndCopies
  refine ⟨fun z g h s t v guard live => ⟨moves_target guard live t, moves_remote guard live t, fun target home queue =>
    ⟨fun ws read => tmove_queues guard live target home queue read, migr_queues guard live t target home queue,
      migr_deadline guard live t target home⟩⟩, ?copies⟩
  intro z g d s t hx src guard dw sw len into positive below queue
  have length : LengthWord (z.opB t) := ⟨positive, below⟩
  refine ⟨fun room place units inside => ?localStore, fun room => ?virtual, fun x shape sealed slice format unscaled holds => ?newTile,
    fun room units high low place present allowed => ?remote⟩
  case localStore =>
    have dest : DestinationOf z false (z.opB d) (z.opB t).toNat (.ls dw.toNat) := ⟨place, units, inside, rfl⟩
    refine ⟨fun source apart => ?_, fun source before after => ?_,
      fun source => copyTo_queues 3 guard length source dest (lsOverlap_of_source _ (by decide) source) room,
      fun source => copyTo_queues 6 guard length source dest (lsOverlap_of_source _ (by decide) source) room⟩
    · obtain ⟨_, _, _, rfl⟩ := id source
      exact copyTo_queues 0 guard length source dest (by rw [lsOverlap_ls, decide_eq_false_iff_not]; omega) room
    · obtain ⟨_, _, _, rfl⟩ := id source
      exact copyTo_overlaps 0 guard length source dest (by rw [lsOverlap_ls, decide_eq_true_iff]; exact ⟨before, after⟩)
  case virtual =>
    have dest : DestinationOf z true (z.opB d) (z.opB t).toNat (.va dw.toNat) := rfl
    exact ⟨fun source => copyTo_queues 1 guard length source dest (lsOverlap_va _ _ _) room,
      fun source => copyTo_queues 4 guard length source dest (lsOverlap_va _ _ _) room,
      fun source => copyTo_queues 7 guard length source dest (lsOverlap_va _ _ _) room⟩
  case newTile =>
    have shape := newShape_ok shape sealed slice format unscaled holds
    exact ⟨fun empty source => copyNew_queues 2 guard length source empty shape queue,
      fun empty source => copyNew_queues 5 guard length source empty shape queue,
      fun empty source => copyNew_queues 8 guard length source empty shape queue⟩
  case remote =>
    have dest : RemoteWord z (z.opB d) := ⟨high, low, place, present, allowed⟩
    exact ⟨fun source => copyRemote_queues 0 guard length source units dest room,
      fun source => copyRemote_queues 1 guard length source units dest room,
      fun source => copyRemote_queues 2 guard length source units dest room⟩

end Sys2Proof
end

section
/-! Answers, acknowledgements and refusals that reach a context, and RPOSTs (R72, R97, R130, R131, R157, R289, R294). -/

namespace Sys2Proof.Machine

/-! ### Changes of a context -/

/-- Two changes of a context that agree on the context as it stands are the same change. -/
theorem State.modCtx_congr (s : State) (c x : Nat) {f f' : Ctx → Ctx} (h : f (s.ctx c x) = f' (s.ctx c x)) :
    s.modCtx c x f = s.modCtx c x f' := by
  have same : (s.core c).modCtx x f = (s.core c).modCtx x f' := congrArg (fun v => { s.core c with ctxs := (s.core c).ctxs.put x v }) h
  exact congrArg (fun k => { s with cores := s.cores.put c k }) same

/-- A deferred trap of a context whose task has not ended becomes pending (R317). -/
theorem State.deferred_pending (s : State) (c x : Nat) (cause : Cause) (pc addr : Word) (unfaulted : (s.ctx c x).faulted = none)
    (live : (s.ctx c x).discarded = false) :
    s.deferred c x cause pc addr = s.modCtx c x fun k => { k with pending := k.pending ++ [Safety.deferredTrap s cause pc addr] } := by
  apply State.modCtx_congr
  rw [Ctx.pend, unfaulted, live]
  rfl

/-! ### Values that a load brings (R158) -/

theorem toInt_setWidth_eq_signedOf (w : Word) {n : Nat} (positive : 0 < n) : (w.setWidth n).toInt = signedOf n w.toNat := by
  obtain ⟨m, rfl⟩ : ∃ m, n = m + 1 := ⟨n - 1, by omega⟩
  have double : 2 ^ (m + 1) = 2 * 2 ^ m := Nat.pow_succ'
  rw [BitVec.toInt_eq_toNat_cond, BitVec.toNat_setWidth, signedOf, Nat.add_sub_cancel]
  have half : 2 * (w.toNat % 2 ^ (m + 1)) < 2 ^ (m + 1) ↔ w.toNat % 2 ^ (m + 1) < 2 ^ m := by omega
  simp only [half]

/-- What a load makes of its bytes is the value that R158 gives. -/
theorem widen_eq_loaded (signed : Bool) (v : Word) {size : Nat} (positive : 0 < size) :
    widen signed size v.toNat = Safety.loaded signed size v.toNat := by
  unfold widen extend Safety.loaded
  rw [BitVec.ofNat_toNat, BitVec.setWidth_eq]
  cases signed with
  | true => rw [if_pos rfl, if_pos rfl, ← toInt_setWidth_eq_signedOf v (by omega)]; rfl
  | false =>
    apply BitVec.eq_of_toNat_eq
    simp

/-! ### Results (R97, R289) -/

section
variable (z : State) (c x : Nat)

theorem State.deliverResult_b {n : Nat} (v : Word) (h : n ≠ 0) : z.deliverResult c x (.b n) v = z.modCtx c x fun k => k.setB n v := by
  unfold State.deliverResult
  simp only [if_neg h]

/-- A result for b0 is discarded (R79). -/
theorem State.deliverResult_b0 (v : Word) : z.deliverResult c x (.b 0) v = z.modCtx c x id := rfl

theorem State.deliverResult_h (n : Nat) {v : Word} (h : v ≠ 0) :
    z.deliverResult c x (.h n) v = z.modCtx c x fun k => k.setH n (some (Handle.ofWord v)) := by
  unfold State.deliverResult
  simp only [if_neg h]

variable {z c x} {isH : Bool} {n : Nat} (v : Word)

/-- The result of a load of this package that has been performed. -/
theorem variableResult_load {l : PendLoad} {r : List PendLoad} (loads : (z.ctx c x).loads = l :: r) (performed : l.pa = none)
    (names : l.dst = resultReg isH (n % 64)) :
    exec (.variableResultArrival c x isH n v) z = .next
      ((z.modCtx c x fun k => { k with loads := r }).deliverResult c x l.dst (widen l.signed l.size v.toNat)) := by
  have found : ((z.ctx c x).loads.find? fun m => m.dst == l.dst && m.pa.isNone) = some l := by
    simp [loads, performed]
  have gone : (z.modCtx c x fun k => { k with loads := k.loads.erase l }) = z.modCtx c x fun k => { k with loads := r } :=
    State.modCtx_congr _ _ _ (by rw [loads, List.erase_cons_head])
  show execVariableResultArrival c x isH n v z = _
  unfold execVariableResultArrival
  simp only [← names, found, gone]

/-- The result of an access through a REMOTE window. -/
theorem variableResult_remote {l : RemoteAcc} {r : List RemoteAcc} {reg : Reg} (noLoad : (z.ctx c x).loads = []) (remote : (z.ctx c x).remote = l :: r)
    (waits : l.refused = false) (dst : l.dst = some reg) (names : reg = resultReg isH (n % 64)) :
    exec (.variableResultArrival c x isH n v) z = .next
      ((z.modCtx c x fun k => { k with remote := r }).deliverResult c x reg (if isH then v else widen l.signed l.size v.toNat)) := by
  have found : ((z.ctx c x).remote.find? fun m => m.dst == some reg && !m.refused) = some l := by
    simp [remote, waits, dst]
  have gone : (z.modCtx c x fun k => { k with remote := k.remote.erase l }) = z.modCtx c x fun k => { k with remote := r } :=
    State.modCtx_congr _ _ _ (by rw [remote, List.erase_cons_head])
  show execVariableResultArrival c x isH n v z = _
  unfold execVariableResultArrival
  simp only [← names, noLoad, List.find?_nil, found, gone]

/-! ### Acknowledgements and refusals of accesses (R289) -/

theorem acknowledgement_remote {l : RemoteAcc} {r : List RemoteAcc} (remote : (z.ctx c x).remote = l :: r) (waits : l.refused = false)
    (noResult : l.dst = none) :
    exec (.remoteAcknowledgement c ⟨x, false, l.bundle⟩) z = .next (z.modCtx c x fun k => { k with remote := r }) := by
  have found : ((z.ctx c x).remote.find? fun m => m.dst.isNone && !m.refused && m.bundle == l.bundle) = some l := by
    simp [remote, waits, noResult]
  have gone : (z.modCtx c x fun k => { k with remote := k.remote.erase l }) = z.modCtx c x fun k => { k with remote := r } :=
    State.modCtx_congr _ _ _ (by rw [remote, List.erase_cons_head])
  show execRemoteAcknowledgement c ⟨x, false, l.bundle⟩ z = _
  unfold execRemoteAcknowledgement
  simp only [found, gone, Bool.false_eq_true, if_false]

/-- A refused access stays on its way, and its trap becomes pending at the access's own place. -/
theorem refusal_remote {l : RemoteAcc} {r : List RemoteAcc} (pc : Word) (cause : Nat) (ofCore : c ≠ 256) (remote : (z.ctx c x).remote = l :: r)
    (waits : l.refused = false) (unfaulted : (z.ctx c x).faulted = none) (live : (z.ctx c x).discarded = false) :
    exec (.remoteRefusal c x pc ⟨0, false, l.bundle⟩ cause) z = .next
      ((z.modCtx c x fun k => { k with remote := k.remote.map fun m => if m = l then { m with refused := true } else m }).modCtx c x fun k =>
        { k with pending := k.pending ++ [Safety.deferredTrap z (refusalCause cause) l.pc l.va] }) := by
  have found : ((z.ctx c x).remote.find? fun m => m.bundle == l.bundle && !m.refused) = some l := by
    simp [remote, waits]
  show execRemoteRefusal c x pc ⟨0, false, l.bundle⟩ cause z = _
  unfold execRemoteRefusal
  simp only [found, noCore, if_neg ofCore, ne_eq, not_true_eq_false, if_false, Bool.false_eq_true]
  rw [State.deferred_pending _ _ _ _ _ _ (by simpa using unfaulted) (by simpa using live)]
  rfl

/-! ### Answers to a held bundle (R157) -/

/-- A peer's answer to the question that the bundle asks now: the bytes of a range (4), whether an access passes (11), a save area (12). -/
theorem State.peerAnswer_asked {q : Nat} {t : BitVec 40} (code word : Nat) (noLate : (z.ctx c x).late = [])
    (asked : (z.ctx c x).reply.asked = some (q, t)) (kind : q = 4 ∨ q = 11 ∨ q = 12) :
    z.peerAnswer c x code word = z.modCtx c x fun k => { k with reply := { k.reply with
      asked := if q = 12 ∧ code = 0 then some (q, t) else none, probe := some code
      kept := if q = 11 ∧ code = 0 then some word else k.reply.kept } } := by
  have peers : peerAsked (q, t) = true := by
    rcases kind with rfl | rfl | rfl <;> rfl
  have noArea : ¬ (q = 13 ∧ code ≠ 0) := by omega
  unfold State.peerAnswer
  simp only [noLate, List.find?_nil, asked, peers, if_true, if_neg noArea]

theorem acknowledgement_checked (w : Nat) : exec (.remoteAcknowledgement c ⟨x, true, w⟩) z = .next (z.peerAnswer c x 0 w) := rfl

theorem refusal_checked (pc : Word) (w cause : Nat) (ofCore : c ≠ 256) :
    exec (.remoteRefusal c x pc ⟨0, true, w⟩ cause) z = .next (z.peerAnswer c x cause 0) := by
  show execRemoteRefusal c x pc ⟨0, true, w⟩ cause z = _
  unfold execRemoteRefusal
  simp only [noCore, if_neg ofCore, ne_eq, not_true_eq_false, if_false, if_true]

/-! ### Refused pieces of a copy (R72, R289) -/

theorem numberOf_pieceNo (serial : Nat) {start : Nat} (h : start < 2 ^ 32) : numberOf (pieceNo serial start) = serial := by
  unfold numberOf pieceNo
  omega

theorem startOf_pieceNo (serial : Nat) {start : Nat} (h : start < 2 ^ 32) : startOf (pieceNo serial start) = start := by
  unfold startOf pieceNo
  omega

/-- The refusal of a piece comes to the command that its number names. -/
theorem refusal_piece {m : Cmd} {start : Nat} (pc : Word) (cause : Nat) (checked : Bool) (w : Nat) (ofCore : c ≠ 256)
    (found : z.findCmd c m.serial = some m) (inCopy : start < 2 ^ 32) :
    let what : RefusalOf := ⟨pieceNo m.serial start + 1, checked, w⟩
    exec (.remoteRefusal c x pc what cause) z =
      .next (z.pieceRefused c m start (refusalCause cause) (.remoteRefusal c x pc what cause)) := by
  intro what
  have command : numberOf (what.serial - 1) = m.serial := numberOf_pieceNo m.serial inCopy
  have piece : startOf (what.serial - 1) = start := startOf_pieceNo m.serial inCopy
  show execRemoteRefusal c x pc what cause z = _
  unfold execRemoteRefusal
  rw [command, piece]
  have numbered : what.serial ≠ 0 := Nat.succ_ne_zero _
  simp only [noCore, if_neg ofCore, if_pos numbered, found]

/-- An engine fault of its command, unless it is a copy with an earlier piece still on its way. -/
theorem State.pieceRefused_first {m : Cmd} {start : Nat} (cause : Cause) (again : Instr)
    (first : ∀ q p r, m.op = .copy q → q.inFlight = p :: r → p.start = start ∨ start = 0) :
    z.pieceRefused c m start cause again = (z.engineFault c m cause m.farVa).unstray c m.serial := by
  unfold State.pieceRefused
  apply if_pos
  split
  · next q op =>
    split
    · next p r pieces =>
      rw [Bool.or_eq_true, beq_iff_eq, beq_iff_eq]
      exact first q p r op pieces
    · rfl
  · rfl

theorem State.pieceRefused_later {m : Cmd} {start : Nat} {q : CopyCmd} {p : Chunk} {r : List Chunk} (cause : Cause) (again : Instr)
    (op : m.op = .copy q) (pieces : q.inFlight = p :: r) (later : p.start ≠ start) (inside : start ≠ 0) :
    z.pieceRefused c m start cause again = z.post [again] := by
  unfold State.pieceRefused
  apply if_neg
  simp only [op, pieces, Bool.or_eq_true, beq_iff_eq]
  exact fun h => h.elim later inside

/-! ### RPOST (R130, R131, R294, R306) -/

theorem State.openTo_iff (z : State) (c x peer : Nat) : z.openTo c x peer = true ↔
    (z.ctx c x).task.isSome = true ∧ (z.ctx c x).run ≠ .starting ∧ z.leaving c x = false ∧ z.partition.get false peer = true := by
  simp [State.openTo, and_assoc]

variable {peer : Nat} (src srcCtx q amount : Nat) (pc : Word)

theorem rpost_open (opened : z.openTo c x peer = true) :
    exec (.rpostArrival peer src srcCtx c x q amount pc) z = .next
      ((z.modCtx c x fun k => k.setQ q (min ((k.regs.q.get 0 q).toNat + amount) 65535)).deliver peer
        (.rpostAck src ⟨srcCtx, z.peer.toNat * 1024 + x * 256 + c⟩)) :=
  congrArg Host.Outcome.next (if_pos opened)

theorem rpost_closed (closed : ¬ z.openTo c x peer = true) :
    exec (.rpostArrival peer src srcCtx c x q amount pc) z = .next
      (z.deliver peer (.rpostRefusal src ⟨srcCtx, z.peer.toNat * 1024 + x * 256 + c⟩ pc)) :=
  congrArg Host.Outcome.next (if_neg closed)

theorem rpost_acknowledged (t : Nat) (ofCore : c ≠ 256) :
    exec (.rpostAck c ⟨x, t⟩) z = .next (z.modCtx c x fun k => { k with rposts := k.rposts.erase t }) :=
  congrArg Host.Outcome.next (if_neg ofCore)

theorem rpost_refused (t : Nat) (ofCore : c ≠ 256) (unfaulted : (z.ctx c x).faulted = none) (live : (z.ctx c x).discarded = false) :
    exec (.rpostRefusal c ⟨x, t⟩ pc) z = .next ((z.modCtx c x fun k => { k with rposts := k.rposts.erase t }).modCtx c x fun k =>
      { k with pending := k.pending ++ [Safety.deferredTrap z .rpostDenied pc 0] }) := by
  have pends := (z.modCtx c x fun k => { k with rposts := k.rposts.erase t }).deferred_pending c x .rpostDenied pc 0
    (by rwa [State.ctx_modCtx_same]) (by rwa [State.ctx_modCtx_same])
  exact congrArg Host.Outcome.next ((if_neg ofCore).trans pends)

end

end Sys2Proof.Machine

namespace Sys2Proof

open Sys2Proof.Machine Sys2Proof.Safety

/-- Settles O45: each answer by the access, the question or the piece that it finds, one lemma for each kind of message. -/
theorem arrivalEvents : Obligations.ArrivalEvents := by
  unfold Obligations.ArrivalEvents
  intro z c x v k
  refine ⟨?loads, ?remotes, ?checks, ?pieces, ?posts, ?closed, rpost_acknowledged, fun t pc => rpost_refused pc t, fun t pc => ⟨rfl, rfl⟩⟩
  case loads =>
    intro l r loads performed size
    have positive : 0 < l.size := by omega
    rw [← widen_eq_loaded l.signed v positive]
    have arrives (n : Nat) (low : n < 64) (dst : l.dst = .b n) := variableResult_load (isH := false) (n := n) v loads performed
      (by rw [dst, Nat.mod_eq_of_lt low]; rfl)
    refine ⟨fun n dst nonzero low => ?_, fun dst => ?_⟩
    · rw [arrives n low dst, dst, State.deliverResult_b _ _ _ _ (by omega)]
    · rw [arrives 0 (by decide) dst, dst, State.deliverResult_b0]
  case remotes =>
    intro l r noLoad remote waits
    refine ⟨fun n dst nonzero low size => ?_, fun n dst low nonzero => ?_, acknowledgement_remote remote waits,
      fun cause ofCore unfaulted live => refusal_remote l.pc cause ofCore remote waits unfaulted live⟩
    · have positive : 0 < l.size := by omega
      have names : Reg.b n = resultReg false (n % 64) := by rw [Nat.mod_eq_of_lt low]; rfl
      rw [← widen_eq_loaded l.signed v positive, variableResult_remote v noLoad remote waits dst names,
        State.deliverResult_b _ _ _ _ (by omega)]
      rfl
    · have names : Reg.h n = resultReg true (n % 64) := by rw [Nat.mod_eq_of_lt low]; rfl
      rw [variableResult_remote v noLoad remote waits dst names, if_pos rfl, State.deliverResult_h _ _ _ _ nonzero]
  case checks =>
    intro q t w noLate asked kind
    refine ⟨?_, fun pc cause ofCore refused => ?_⟩
    · rw [acknowledgement_checked, State.peerAnswer_asked 0 w noLate asked kind]
      simp
    · rw [refusal_checked pc w cause ofCore, State.peerAnswer_asked cause 0 noLate asked kind]
      simp [refused]
  case pieces =>
    intro pc start cause checked w m ofCore found inCopy what refuse fault
    have comes : refuse = _ := refusal_piece pc cause checked w ofCore found inCopy
    have faults (first : ∀ q p r, m.op = .copy q → q.inFlight = p :: r → p.start = start ∨ start = 0) : refuse = .next fault :=
      comes.trans (congrArg Host.Outcome.next (State.pieceRefused_first _ _ first))
    refine ⟨fun noCopy => faults fun q _ _ op => absurd op (noCopy q), fun q op none => faults fun q' p r op' pieces => ?_,
      fun q p r op pieces => ⟨fun first => faults fun q' p' r' op' pieces' => ?_, fun later inside => ?_⟩⟩
    · obtain rfl : q = q' := CmdOp.copy.inj (op.symm.trans op')
      exact absurd (none.symm.trans pieces) (List.cons_ne_nil p r).symm
    · obtain rfl : q = q' := CmdOp.copy.inj (op.symm.trans op')
      obtain ⟨rfl, -⟩ := List.cons.inj (pieces.symm.trans pieces')
      exact first
    · exact comes.trans (congrArg Host.Outcome.next (State.pieceRefused_later _ _ op pieces later inside))
  case posts =>
    intro peer src srcCtx q amount pc task started stays tenant
    exact rpost_open src srcCtx q amount pc ((State.openTo_iff z c x peer).2 ⟨task, started, stays, tenant⟩)
  case closed =>
    intro peer src srcCtx q amount pc shut
    apply rpost_closed
    rw [State.openTo_iff]
    rintro ⟨task, started, -, tenant⟩
    rcases shut with h | h | h
    · have none : (z.ctx c x).task = none := h
      rw [none] at task
      exact absurd task (by decide)
    · exact started h
    · rw [h] at tenant
      exact absurd tenant (by decide)

end Sys2Proof
end
